-- ==== Sys2Proof/Word.lean ====
section
/-!
DEFINITION. The byte and word types of the part's memory and records, and `Table`, the fixed-length
table the numbered record sets of the manual (streams, tenants, dies, ports, groups) are held in.
-/

namespace Sys2Proof

/-- One byte of port memory, of a record or of a completion (R186, R187). -/
abbrev Byte := BitVec 8

/-- A 16-bit record field: a master tag, an order number (R188, R93). -/
abbrev Half := BitVec 16

/-- A 32-bit value: tick counter, epoch counter, buffer handle, address list word. -/
abbrev Word := BitVec 32

/-- A table of exactly `n` records, numbered from 0. The length is carried by the data, so that a
record number of type `Fin n` always names a record. -/
structure Table (n : Nat) (α : Type) where
  items : List α
  size : items.length = n
deriving DecidableEq, Repr

/-- Record number `i`. -/
def Table.get {n : Nat} {α : Type} (t : Table n α) (i : Fin n) : α :=
  t.items[i.val]'(by rw [t.size]; exact i.isLt)

/-- The table with record `i` replaced. -/
def Table.set {n : Nat} {α : Type} (t : Table n α) (i : Fin n) (x : α) : Table n α :=
  ⟨t.items.set i.val x, by rw [List.length_set]; exact t.size⟩

/-- The table with every record changed by `f`. -/
def Table.map {n : Nat} {α β : Type} (t : Table n α) (f : α → β) : Table n β :=
  ⟨t.items.map f, by rw [List.length_map]; exact t.size⟩

/-- The table with record `i` changed by `f`. -/
def Table.modify {n : Nat} {α : Type} (t : Table n α) (i : Fin n) (f : α → α) : Table n α :=
  t.set i (f (t.get i))

/-- The table whose record `i` is `f i`. -/
def Table.tabulate {n : Nat} {α : Type} (f : Fin n → α) : Table n α :=
  ⟨(List.finRange n).map f, by simp⟩

/-- The table whose records are all `x`. -/
def Table.replicate (n : Nat) {α : Type} (x : α) : Table n α :=
  ⟨List.replicate n x, List.length_replicate⟩

/-- The record numbers whose record satisfies `p`, in ascending order. -/
def Table.indices {n : Nat} {α : Type} (t : Table n α) (p : α → Bool) : List (Fin n) :=
  (List.finRange n).filter (fun i => p (t.get i))

end Sys2Proof
end

