-- ==== Sys2Proof/Config.lean ====
section
/-!
DEFINITION. The sizes and limits that the manual fixes for the WS-420. The part has no option left to an
implementation that changes a value, so no constant here is free: each cites its rule.
-/

namespace Sys2Proof.Config

/-- Slots of a request ring (R151). -/
def requestSlots : Nat := 32
/-- Slots of a reply ring (R153). -/
def replyRingSlots : Nat := 64
/-- Reply slots that replies may hold (R153). -/
def replyLimit : Nat := 56
/-- Reply slots that notices may hold (R153). -/
def noticeLimit : Nat := 8
/-- Bytes of one port's memory block (R186). -/
def portBytes : Nat := 20480
/-- Places of one port's share of the credit wait list (R77). -/
def shareLimit : Nat := 32
/-- Descriptor queue places, and tags that may be outstanding (R138, R139). -/
def linkLimit : Nat := 32
/-- Entries of a background queue (R113). -/
def backgroundLimit : Nat := 4
/-- The pass-over count at which a level is chosen first (R117). -/
def passOverLimit : Nat := 16
/-- Units of a young list (R38). -/
def youngLimit : Nat := 8
/-- Entries of an expiry memory (R97). -/
def expiryLimit : Nat := 8
/-- Credit sixteenths charged for one page (R70). -/
def pageCost : Int := 16
/-- The floor of every balance (R69, R74). -/
def balanceFloor : Int := -16777216
/-- The value at which 16-bit counts stop (R8, R36, R150, R183). -/
def count16 : Nat := 65535
/-- Failures of one page before it is FAILED: the count at which one more failure ends it (R64). -/
def retryLimit : Nat := 2
/-- Pages of one WRITE (R45). -/
def maxWritePages : Nat := 64
/-- Units of the largest geometry (R171). -/
def maxUnits : Nat := 32768

end Sys2Proof.Config
end

