-- ==== Sys2Proof/Syntax.lean ====
section
/-!
DEFINITION. The commands of the part: one constructor of `Instr` for each row of spec/opcode_table.json.
A command is either an act from outside (a write to port memory, a completion, a line changing level),
the taking of one request record from a ring, or one of the part's own events. A request command names
the port only: the request record itself is read from the port's request ring when it is taken (R152).
-/

namespace Sys2Proof

/-- A tenant number, 0 to 63. -/
abbrev Tenant := Fin 64
/-- A stream number, 0 to 255. -/
abbrev StreamId := Fin 256
/-- A die number, 0 to 31. -/
abbrev DieId := Fin 32
/-- A die group number, 0 to 7. -/
abbrev GroupId := Fin 8
/-- A die position of a group, 0 to 7. -/
abbrev Position := Fin 8
/-- A master port, P0 to P3. -/
abbrev MasterId := Fin 4
/-- A reply slot number, 0 to 63. -/
abbrev ReplySlot := Fin 64
/-- An order slot of a group, 0 to 3. -/
abbrev OrderSlotId := Fin 4

/-- One of the five ports: a master port or the management port M. -/
inductive PortId where
  | master (p : MasterId)
  | management
deriving DecidableEq, Repr

/-- The class of a WRITE (R43). -/
inductive WriteClass where
  | host
  | reloc
deriving DecidableEq, Repr

/-- The level of an input line; the part's lines are active low (Conventions, 00_scope.md). -/
inductive LineLevel where
  | low
  | high
deriving DecidableEq, Repr

/-- A write of an index word that includes its byte 0 (R187): the value of byte 0, and the bytes of the word that the write carries behind
it, at most three. -/
structure IndexWrite where
  index : Byte
  rest : List Byte
deriving DecidableEq, Repr

/-- A completion as the engines return it: bytes 0 to 3 of its eight bytes; bytes 4 to 7 are reserved and
not read (R191). -/
structure Completion where
  kind : Byte
  die : Byte
  tag : Byte
  cause : Byte
deriving DecidableEq, Repr

/-- The commands, in the order of spec/opcode_table.json. -/
inductive Instr where
  /-- DEVICE_RESET (R185). -/
  | deviceReset
  /-- PLW_N_ASSERTED (R128). -/
  | plwNAsserted
  /-- PLW_N_DEASSERTED (R129). -/
  | plwNDeasserted
  /-- TICK (R174). -/
  | tick
  /-- EPOCH_ADVANCE (R174). -/
  | epochAdvance
  /-- CREDIT_ADMISSION (R73) for one tenant. -/
  | creditAdmission (tenant : Tenant)
  /-- IDLE_SEAL (R57) of one open slot. -/
  | idleSeal (stream : StreamId) (position : Position)
  /-- ORDER_EXPIRY (R96) of one order slot of a group. -/
  | orderExpiry (group : GroupId) (slot : OrderSlotId)
  /-- WINDOW_EXPIRY (R126) of one port's window on a die. -/
  | windowExpiry (die : DieId) (port : MasterId)
  /-- DIE_FAULT (R131). -/
  | dieFault (die : DieId)
  /-- INACTIVITY_FENCE (R159). -/
  | inactivityFence (port : MasterId)
  /-- REQUEST_TAIL_WRITE (R151): a write that includes byte 0 of the request tail word. -/
  | requestTailWrite (port : PortId) (value : IndexWrite)
  /-- REPLY_HEAD_WRITE (R155): a write that includes byte 0 of the reply head word. -/
  | replyHeadWrite (port : PortId) (value : IndexWrite)
  /-- OTHER_MEMORY_WRITE (R187): any other write to port memory. -/
  | otherMemoryWrite (port : PortId) (offset : Nat) (bytes : List Byte)
  /-- NOTICE_WRITE (R158): the oldest waiting notice of a port is written. -/
  | noticeWrite (port : MasterId)
  /-- OPEN_STREAM (R26). -/
  | openStream (port : MasterId)
  /-- CLOSE_STREAM (R27). -/
  | closeStream (port : MasterId)
  /-- DRAIN_STREAM (R28). -/
  | drainStream (port : MasterId)
  /-- DRAIN_END (R29). -/
  | drainEnd (stream : StreamId)
  /-- RESUME_STREAM (R30). -/
  | resumeStream (port : MasterId)
  /-- SET_PROFILE (R34). -/
  | setProfile (port : MasterId)
  /-- WRITE (R45). -/
  | write (port : MasterId)
  /-- PLACE_PAGE (R50): one fresh page of the head of a stream's HOST or RELOC line. -/
  | placePage (stream : StreamId) (cls : WriteClass)
  /-- REPLACE_PAGE (R65): the head of a stream's re-placement list. -/
  | replacePage (stream : StreamId)
  /-- INVALIDATE (R99). -/
  | invalidate (port : MasterId)
  /-- UNIT_DRAINED (R101). -/
  | unitDrained (port : MasterId)
  /-- HOLD (R18). -/
  | hold (port : MasterId)
  /-- FIX (R18). -/
  | fix (port : MasterId)
  /-- RELEASE (R19), with the level of RETAIN_N as it is sampled when the request is taken. -/
  | release (port : MasterId) (retainN : LineLevel)
  /-- READ_WINDOW (R125). -/
  | readWindow (port : MasterId)
  /-- WINDOW_GRANT (R125): the WAITING windows of a die are granted. -/
  | windowGrant (die : DieId)
  /-- END_WINDOW (R126). -/
  | endWindow (port : MasterId)
  /-- PING (R157), taken on every port. -/
  | ping (port : PortId)
  /-- QUERY_UNIT (R157). -/
  | queryUnit (port : MasterId)
  /-- UNKNOWN_MASTER_REQUEST (R156). -/
  | unknownMasterRequest (port : MasterId)
  /-- SET_GEOMETRY (R171). -/
  | setGeometry
  /-- SET_GROUP (R172). -/
  | setGroup
  /-- SET_TIMEBASE (R175). -/
  | setTimebase
  /-- SET_TIMERS (R176). -/
  | setTimers
  /-- SET_TENANT (R177). -/
  | setTenant
  /-- SET_STREAM (R178). -/
  | setStream
  /-- SET_FILTER (R87). -/
  | setFilter
  /-- SEEK_UNITS (R179). -/
  | seekUnits
  /-- LOAD_UNITS (R180). -/
  | loadUnits
  /-- READ_UNIT (R181). -/
  | readUnit
  /-- READ_STREAM (R181). -/
  | readStream
  /-- READ_TENANT (R181). -/
  | readTenant
  /-- GET_STATUS (R182), with the present level of RETAIN_N, which its DEVICE section reports. -/
  | getStatus (retainN : LineLevel)
  /-- CLEAR_STATUS (R184). -/
  | clearStatus
  /-- RUN (R167). -/
  | run
  /-- HALT (R168). -/
  | halt
  /-- HALT_COMPLETE (R168). -/
  | haltComplete
  /-- FENCE_PORT (R162). -/
  | fencePort
  /-- REVIVE_PORT (R163). -/
  | revivePort
  /-- CLEAR_DIE_FAULT (R133). -/
  | clearDieFault
  /-- CANCEL_ORDERS (R103). -/
  | cancelOrders
  /-- UNKNOWN_MGMT_REQUEST (R170). -/
  | unknownMgmtRequest
  /-- SEARCH_EXAMINE (R90). -/
  | searchExamine (group : GroupId)
  /-- ORDER_ISSUE (R94). -/
  | orderIssue (group : GroupId)
  /-- ARBITRATE (R116). -/
  | arbitrate (die : DieId)
  /-- QUEUE_FILL (R113). -/
  | queueFill (die : DieId)
  /-- WAITING_DIE_OFFER (R140). -/
  | waitingDieOffer
  /-- DESCRIPTOR_SEND (R141). -/
  | descriptorSend
  /-- PROGRAM_DONE (R60). -/
  | programDone (c : Completion)
  /-- PROGRAM_FAIL (R63). -/
  | programFail (c : Completion)
  /-- WRITE_END (R62) of the request that holds a reply slot of a port. -/
  | writeEnd (port : MasterId) (slot : ReplySlot)
  /-- ERASE_COMPLETION (R119). -/
  | eraseCompletion (c : Completion)
  /-- CHECK_COMPLETION (R120). -/
  | checkCompletion (c : Completion)
  /-- SUSPEND_ANSWER (R122). -/
  | suspendAnswer (c : Completion)
  /-- RESUME_ANSWER (R124). -/
  | resumeAnswer (c : Completion)
  /-- STRAY_COMPLETION (R147). -/
  | strayCompletion (c : Completion)
deriving DecidableEq, Repr

end Sys2Proof
end

