-- ==== Sys2Proof/Decode.lean ====
section
/-!
DEFINITION. The command that a word spells by the bits of spec/opcode_table.json. The part has no instruction words: no row of the
table gives bits, so no word spells a command.
-/

namespace Sys2Proof

/-- The command a word of `nbits` bits spells: none, since no row of the table gives bits. Request records are read by
`Sys2Proof.Machine.State.headRequest` and the operand forms of Operands.lean. -/
def decodeTableWord (_nbits _w : Nat) : Option Instr := none

end Sys2Proof
end

