-- ==== Sys2Proof/Machine/State.lean ====
section
/-!
DEFINITION. The state of the WS-420 as plain data: every record, table, list, counter and line the manual
names, grouped by the block that owns it, with the queue of waiting commands; the faults and refusals of a
step; and the state after device reset. The fields the model adds are marked MODEL and stand in INVENTORY.md.
-/

namespace Sys2Proof.Machine

/-! ## The Unit Table (chapter 1) -/

/-- The seven unit states, in the order of R1 (their codes, R187). -/
inductive UnitState where
  | free
  | opened
  | sealed
  | reclaim
  | erasing
  | unknown
  | retired
deriving DecidableEq, Repr

/-- The hold of a unit, in the order of R1 (codes NONE 0, HELD 1, FIXED 2, R187). -/
inductive Hold where
  | noHold
  | held
  | fixed
deriving DecidableEq, Repr

/-- One unit record (R1). A field that is present in some states only is an `Option`. -/
structure UnitRecord where
  state : UnitState
  tenant : Option Tenant
  owner : Option StreamId
  writePointer : Nat
  programmed : Nat
  valid : Nat
  eraseCount : Nat
  sealEpoch : Option Word
  hold : Hold
  short : Bool
  retirePending : Bool
  orderSlot : Option OrderSlotId
  suspendCount : Option Nat
deriving DecidableEq, Repr

/-- The configured geometry (R171): die count, blocks per die (BPD) and pages per unit (P). -/
structure Geometry where
  dies : Nat
  bpd : Nat
  pages : Nat
deriving DecidableEq, Repr

/-! ## The Stream Table (chapter 2) -/

/-- The five stream states (R22). -/
inductive StreamState where
  | closed
  | opened
  | draining
  | quiesced
  | parked
deriving DecidableEq, Repr

/-- The placement mode of a profile (R33). -/
inductive Mode where
  | pack
  | spread
deriving DecidableEq, Repr

/-- A priority level 1 to 7, held as the level less one. -/
abbrev Level := Fin 7

/-- A placement profile (R33). -/
structure Profile where
  mode : Mode
  mask : Byte
  priority : Level
deriving DecidableEq, Repr

/-- An occupied open slot (R36). `sealDue` is MODEL: a tick has left the idle ticks at or above T_idle and so sealed
the unit, and the seal's effects are still to be made (R57; log entries 5 and 41). -/
structure OpenSlot where
  unit : Nat
  allocated : Nat
  idle : Nat
  sealDue : Bool
deriving DecidableEq, Repr

/-- The reply slot and master tag of a request that is answered later (R153, R156). -/
structure Pledge where
  slot : ReplySlot
  tag : Half
deriving DecidableEq, Repr

/-- One stream record (R22). `drain` holds what the later DRAINED reply needs: the reply slot that the
DRAIN-STREAM keeps reserved and its master tag (R28, R29). -/
structure StreamRecord where
  state : StreamState
  tenant : Tenant
  group : Option GroupId
  port : Option MasterId
  target : StreamId
  profile : Profile
  pendingProfile : Option Profile
  slots : Table 8 (Option OpenSlot)
  packCursor : Position
  spreadCursor : Position
  young : List Nat
  outstanding : Nat
  lastActivity : Word
  drain : Option Pledge
deriving DecidableEq, Repr

/-- One tenant record: the configuration of R40 and the counters of R41. -/
structure TenantRecord where
  metered : Bool
  rate : Nat
  ceiling : Nat
  hostPages : Word
  relocPages : Word
deriving DecidableEq, Repr

/-! ## The Placement Engine (chapter 3) -/

/-- The request a write context belongs to: its port and the reply slot reserved for it (R43, R153). -/
structure ContextId where
  port : MasterId
  slot : ReplySlot
deriving DecidableEq, Repr

/-- The outcome of one page of a request (R43). -/
inductive PageOutcome where
  | unplaced
  | allocated
  | done
  | failed
deriving DecidableEq, Repr

/-- A page address: die, block and page index within the block (R43). -/
structure PageAddress where
  die : DieId
  block : Nat
  page : Nat
deriving DecidableEq, Repr

/-- One page record of a write context (R43). -/
structure PageRecord where
  outcome : PageOutcome
  address : Option PageAddress
  retries : Nat
deriving DecidableEq, Repr

/-- The source fields of a RELOC context (R43). -/
structure SourceUnit where
  unit : Nat
  sealEpoch : Option Word
  eraseCount : Nat
deriving DecidableEq, Repr

/-- One write context (R43); the page count n is the number of its page records. -/
structure WriteContext where
  id : ContextId
  tag : Half
  stream : StreamId
  cls : WriteClass
  handle : Word
  source : Option SourceUnit
  nextFresh : Nat
  pages : List PageRecord
  failed : Nat
  skew : Nat
  orphaned : Bool
deriving DecidableEq, Repr

/-- A page of a unit, which names one page pool entry: no two entries have one unit and index. -/
structure PageKey where
  unit : Nat
  index : Nat
deriving DecidableEq, Repr

/-- A page of a write context, as the re-placement lists hold it (R47). -/
structure PageRef where
  ctx : ContextId
  page : Nat
deriving DecidableEq, Repr

/-- One page pool entry (R44). -/
structure PoolEntry where
  ref : PageRef
  key : PageKey
  die : DieId
  level : Level
  handle : Word
deriving DecidableEq, Repr

/-- The HOST line, RELOC line and re-placement list of a stream (R47). -/
structure StreamLines where
  host : List ContextId
  reloc : List ContextId
  replace : List PageRef
deriving DecidableEq, Repr

/-- A re-placement list that waits, with the tick at which it began (R65). `examine` is MODEL: an event of R55
has called for the list to be served again. -/
structure ReplaceWaiter where
  stream : StreamId
  since : Word
  examine : Bool
deriving DecidableEq, Repr

/-! ## The Credit Accountant (chapter 4) -/

/-- Why a request is on the credit wait list (R76). -/
inductive WaitReason where
  | credit
  | space
deriving DecidableEq, Repr

/-- One entry of the credit wait list (R76). `examine` is MODEL: an event of R55 has called for the SPACE entry to
be examined again. -/
structure WaitEntry where
  ctx : ContextId
  stream : StreamId
  tenant : Tenant
  cls : WriteClass
  reason : WaitReason
  remaining : Nat
  examine : Bool
deriving DecidableEq, Repr

/-- The Credit Accountant's state (R69, R76, R77). -/
structure Credit where
  balances : Table 64 Int
  waitList : List WaitEntry
  shares : Table 4 Nat
deriving DecidableEq, Repr

/-! ## The Reclaim Controller (chapter 5) and the group configuration (R172) -/

/-- A die group's configuration (R172). A relocation level of `none` is FOLLOW. -/
structure GroupConfig where
  first : Nat
  last : Nat
  reserve : Nat
  low : Nat
  high : Nat
  orderSlots : Nat
  suspendLimit : Nat
  allowance : Nat
  relocLevel : Option Level
deriving DecidableEq, Repr

/-- The search state of a group (R83). -/
inductive SearchState where
  | idle
  | searching
  | waiting
deriving DecidableEq, Repr

/-- The best unit a search has found (R83, R89): class RETIRE with its age, or class SCORED with its score
and erase count. -/
inductive Candidate where
  | retire (unit : Nat) (age : Nat)
  | scored (unit : Nat) (score : Nat) (eraseCount : Nat)
deriving DecidableEq, Repr

/-- How an order ended (R93). -/
inductive OrderCause where
  | timer
  | cancelled
deriving DecidableEq, Repr

/-- The state of an order with the field present in it (R93). -/
inductive OrderPhase where
  | pending
  | issued (remaining : Nat)
  | closing (cause : OrderCause)
deriving DecidableEq, Repr

/-- One relocation order (R93). -/
structure Order where
  unit : Nat
  tenant : Tenant
  target : StreamId
  port : MasterId
  number : Half
  phase : OrderPhase
deriving DecidableEq, Repr

/-- A group's reclaim record (R83). `chosen` is MODEL: the order slot taken for a candidate that has passed its
check again, until the move to RECLAIM is asked for (R91, R94); the search state is SEARCHING meanwhile. `discard` is MODEL: activity or
issuing has stopped while the search was in progress, so its result is discarded (R84, R85; log entry 31). -/
structure ReclaimRecord where
  active : Bool
  search : SearchState
  cursor : Option Nat
  candidate : Option Candidate
  zeroScore : Bool
  missedChange : Bool
  chosen : Option OrderSlotId
  discard : Bool
  slots : List (Option Order)
deriving DecidableEq, Repr

/-- A configured die group: its configuration and its reclaim record. -/
structure Group where
  config : GroupConfig
  reclaim : ReclaimRecord
deriving DecidableEq, Repr

/-- A reclaim notice, named by the order slot it speaks of: a RELOCATE-ORDER while the order is PENDING, an
ORDER-EXPIRED while it is CLOSING (R95). -/
structure NoticeRef where
  group : GroupId
  slot : OrderSlotId
deriving DecidableEq, Repr

/-- The state the Reclaim Controller keeps for the whole part (R83, R87, R95, R97). -/
structure ReclaimShared where
  compare : BitVec 6
  care : BitVec 6
  orderNumber : Half
  notices : Table 4 (List NoticeRef)
  expiry : Table 4 (List (Nat × Half))
deriving DecidableEq, Repr

/-! ## The Die Scheduler (chapter 6) -/

/-- The seven die states (R110). -/
inductive DieState where
  | idle
  | program
  | erase
  | suspending
  | suspended
  | check
  | faulted
deriving DecidableEq, Repr

/-- An operation issued and not completed (R109). -/
inductive Operation where
  | program (page : PageKey)
  | erase (unit : Nat)
  | check (unit : Nat)
deriving DecidableEq, Repr

/-- The kind of a background operation (R113). -/
inductive BackgroundKind where
  | erase
  | check
deriving DecidableEq, Repr

/-- One entry of a background queue (R113). -/
structure BackgroundEntry where
  kind : BackgroundKind
  unit : Nat
deriving DecidableEq, Repr

/-- Why a running erase was, or is to be, suspended (R109). -/
inductive Purpose where
  | serve
  | abandon
deriving DecidableEq, Repr

/-- A port's read window entry on a die (R109). A WAITING entry keeps its reply slot and master tag (R125). -/
inductive Window where
  | closed
  | waiting (pledge : Pledge)
  | opened (remaining : Nat)
deriving DecidableEq, Repr

/-- One die record (R109). `opTimer` is the timer that runs; the timer of a held erase is `heldErase` (R130). -/
structure DieRecord where
  state : DieState
  backlogs : Table 7 (List PageKey)
  passOver : Table 7 Nat
  queue : List BackgroundEntry
  waiting : List Nat
  current : Option Operation
  suspendedProgram : Option PageKey
  purpose : Option Purpose
  programs : Option Nat
  opTimer : Option Nat
  heldErase : Option Nat
  windows : Table 4 Window
  lapsed : Table 4 Bool
deriving DecidableEq, Repr

/-! ## The Channel Link Unit (chapter 7) -/

/-- The five descriptor kinds, in the order of their codes (R137, R191). -/
inductive DescriptorKind where
  | program
  | erase
  | check
  | suspend
  | resume
deriving DecidableEq, Repr

/-- The cause of a FAIL (R142). -/
inductive FailCause where
  | media
  | aborted
deriving DecidableEq, Repr

/-- A descriptor in the queue (R137, R191). -/
structure Descriptor where
  kind : DescriptorKind
  die : DieId
  tag : Byte
  block : Nat
  page : Nat
  handle : Word
deriving DecidableEq, Repr

/-- The phase of an outstanding tag (R139). -/
inductive TagPhase where
  | queued
  | sent
deriving DecidableEq, Repr

/-- One entry of the outstanding-tag table (R139). `ended` is MODEL: the erase that a SUSPEND or RESUME steered has
ended, so that its answer is taken without effect (R144), even when its unit is erased again. -/
structure TagEntry where
  tag : Byte
  die : DieId
  kind : DescriptorKind
  unit : Nat
  page : Option PageKey
  phase : TagPhase
  ended : Bool
deriving DecidableEq, Repr

/-- The Channel Link Unit's state (R138 to R141, R148). `lastSent` is MODEL: the bytes of the descriptor last sent
on the link, the block's output there (R141, R191). -/
structure Link where
  queue : List Descriptor
  tags : List TagEntry
  cursor : Byte
  waiting : List DieId
  lastFail : Table 32 (Option (DescriptorKind × FailCause))
  lastSent : List Byte
deriving DecidableEq, Repr

/-! ## Port Intake (chapter 8) -/

/-- Memory is a list of cells with strictly rising offsets and no entry equal to what an unlisted offset reads
as, which is 0: device reset writes every slot and word of a port's memory to 0, and the unused part reads 0
(R165, R169, R186). -/
abbrev Memory := List Host.Cell

/-- The canonical form of a memory: offsets strictly rising, and no listed byte 0. -/
abbrev Memory.wf (m : Memory) : Prop :=
  m.Pairwise (fun a b => a.1 < b.1) ∧ ∀ c ∈ m, c.2 ≠ 0

/-- The class of a record in the reply ring (R150, codes of R189). -/
inductive SlotClass where
  | reply
  | notice
deriving DecidableEq, Repr

/-- The rings of one port: the fields that R150 gives every port and R169 gives port M, with the port's
memory block (R186). -/
structure Ring where
  mem : Memory
  requestTail : BitVec 6
  requestHead : BitVec 6
  replyTail : BitVec 7
  replyHead : BitVec 7
  classes : Table 64 SlotClass
  reservations : List ReplySlot
  replyHoldings : Nat
  noticeHoldings : Nat
  refusals : Nat
deriving DecidableEq, Repr

/-- Whether a master port is in service (R150). -/
inductive PortState where
  | active
  | fenced
deriving DecidableEq, Repr

/-- The cause of a fence (R150). -/
inductive FenceCause where
  | noFence
  | inactivity
  | management
deriving DecidableEq, Repr

/-- One master port record (R150). `fenceDue` is MODEL: a tick has left the inactivity count at or above T_port and so
fenced the port, and the fence's effects are still to be made (R159; log entries 5 and 41). -/
structure MasterPort where
  ring : Ring
  state : PortState
  inactivity : Nat
  cause : FenceCause
  fenceDue : Bool
deriving DecidableEq, Repr

/-! ## The Time Base and the Management Unit (chapter 9) -/

/-- The Time Base (R174). `epochDue` is MODEL: a tick has brought the epoch tick count to the epoch length and
EPOCH_ADVANCE has not been taken yet. -/
structure TimeBase where
  divider : Nat
  dividerCount : Nat
  tick : Word
  epochLength : Nat
  epochTicks : Nat
  epoch : Word
  epochDue : Bool
deriving DecidableEq, Repr

/-- The five time limits, in ticks (R176). -/
structure Limits where
  port : Nat
  idle : Nat
  order : Nat
  window : Nat
  op : Nat
deriving DecidableEq, Repr

/-- The device states (R166). -/
inductive DeviceState where
  | unconfigured
  | halted
  | running
  | halting
deriving DecidableEq, Repr

/-- A die's fault cause (R184). -/
inductive FaultCause where
  | noFault
  | program
  | erase
  | check
deriving DecidableEq, Repr

/-- The sticky status (R184). -/
structure Sticky where
  stray : Bool
  overrun : Bool
  overrunCount : Nat
  dieFault : Table 32 FaultCause
  portFence : Table 4 FenceCause
  plwSeen : Bool
deriving DecidableEq, Repr

/-- The Management Unit (R166, R171, R179, R184). `haltReply` holds what the later HALT reply needs (R168). -/
structure Management where
  device : DeviceState
  geometry : Option Geometry
  cursor : Nat
  sticky : Sticky
  haltReply : Option Pledge
deriving DecidableEq, Repr

/-- The levels of the input lines PLW_N and RETAIN_N. RESET_N has no level here: DEVICE_RESET is the line
asserted and deasserted (R185). -/
structure InputLines where
  plwN : LineLevel
  retainN : LineLevel
deriving DecidableEq, Repr

/-- The whole part, and the commands that wait, first in, first out. -/
structure State where
  units : List UnitRecord
  freeLists : Table 32 (List Nat)
  streams : Table 256 StreamRecord
  tenants : Table 64 TenantRecord
  contexts : List WriteContext
  lines : Table 256 StreamLines
  pool : List PoolEntry
  waiters : List ReplaceWaiter
  credit : Credit
  groups : Table 8 (Option Group)
  reclaim : ReclaimShared
  dies : Table 32 DieRecord
  link : Link
  masters : Table 4 MasterPort
  mport : Ring
  time : TimeBase
  limits : Limits
  mgmt : Management
  inputs : InputLines
  pending : List Instr
deriving DecidableEq, Repr

/-- Why a step stops with a fault. -/
inductive Fault where
  /-- Raised by OTHER_MEMORY_WRITE for a write that reaches past the 20,480 bytes of a port's block, an offset
  the manual gives no memory (R186). Safe: the model stops where the interconnect, which the manual does not
  cover, would decide. -/
  | outsidePortMemory (offset : Nat)
deriving DecidableEq, Repr

/-- Why a step is refused. -/
inductive Refusal where
  /-- Raised by `exec` for a command that has no meaning yet. Safe: nothing is claimed of it. No command of this
  model is refused so. -/
  | notModelled (mnemonic : String)
deriving DecidableEq, Repr

/-- The result of a command. -/
abbrev Result := Host.Outcome State Fault Refusal

/-! ## The state after device reset (R185) -/

/-- A stream record after device reset (R42). -/
def StreamRecord.reset (i : StreamId) : StreamRecord where
  state := .closed
  tenant := 0
  group := none
  port := none
  target := i
  profile := ⟨.pack, 0x01, 3⟩
  pendingProfile := none
  slots := Table.replicate 8 none
  packCursor := 0
  spreadCursor := 0
  young := []
  outstanding := 0
  lastActivity := 0
  drain := none

/-- A tenant record after device reset (R42). -/
def TenantRecord.reset : TenantRecord where
  metered := false
  rate := 0
  ceiling := 0
  hostPages := 0
  relocPages := 0

/-- A die record after device reset (R136). -/
def DieRecord.reset : DieRecord where
  state := .idle
  backlogs := Table.replicate 7 []
  passOver := Table.replicate 7 0
  queue := []
  waiting := []
  current := none
  suspendedProgram := none
  purpose := none
  programs := none
  opTimer := none
  heldErase := none
  windows := Table.replicate 4 .closed
  lapsed := Table.replicate 4 false

/-- A port's rings after device reset (R165, R169). -/
def Ring.reset : Ring where
  mem := []
  requestTail := 0
  requestHead := 0
  replyTail := 0
  replyHead := 0
  classes := Table.replicate 64 .reply
  reservations := []
  replyHoldings := 0
  noticeHoldings := 0
  refusals := 0

/-- A master port record after device reset (R165). -/
def MasterPort.reset : MasterPort where
  ring := Ring.reset
  state := .active
  inactivity := 0
  cause := .noFence
  fenceDue := false

/-- The Channel Link Unit after device reset (R148, R149). -/
def Link.reset : Link where
  queue := []
  tags := []
  cursor := 0
  waiting := []
  lastFail := Table.replicate 32 none
  lastSent := []

/-- The sticky status with every item clear (R184). -/
def Sticky.reset : Sticky where
  stray := false
  overrun := false
  overrunCount := 0
  dieFault := Table.replicate 32 .noFault
  portFence := Table.replicate 4 .noFence
  plwSeen := false

/-- The part right after device reset, with PLW_N and RETAIN_N deasserted (DESIGN CHOICE: the levels of input lines
are the drive's; log entry 3) and no command waiting. -/
def State.reset : State where
  units := []
  freeLists := Table.replicate 32 []
  streams := Table.tabulate StreamRecord.reset
  tenants := Table.replicate 64 TenantRecord.reset
  contexts := []
  lines := Table.replicate 256 ⟨[], [], []⟩
  pool := []
  waiters := []
  credit := ⟨Table.replicate 64 0, [], Table.replicate 4 0⟩
  groups := Table.replicate 8 none
  reclaim := ⟨0, 0, 0, Table.replicate 4 [], Table.replicate 4 []⟩
  dies := Table.replicate 32 DieRecord.reset
  link := Link.reset
  masters := Table.replicate 4 MasterPort.reset
  mport := Ring.reset
  time := ⟨100000, 0, 0, 1000, 0, 0, false⟩
  limits := ⟨2000, 30000, 5000, 50, 200⟩
  mgmt := ⟨.unconfigured, none, 0, Sticky.reset, none⟩
  inputs := ⟨.high, .high⟩
  pending := []

end Sys2Proof.Machine
end

