-- ==== Sys2Proof/Machine/Bytes.lean ====
section
/-!
DEFINITION. Byte order and port memory: little-endian fields (R187), reading and writing a memory in its
canonical form, and the offsets of a port's block (R186).
-/

namespace Sys2Proof.Machine

/-- The low `n` bytes of a number, least significant byte first (R187). -/
def leBytes : Nat → Nat → List Byte
  | 0, _ => []
  | n + 1, v => BitVec.ofNat 8 v :: leBytes n (v / 256)

/-- The number whose bytes, least significant first, are given (R187). -/
def leNat : List Byte → Nat
  | [] => 0
  | b :: bs => b.toNat + 256 * leNat bs

/-- A list cut or filled with `x` to exactly `n` entries. -/
def padTo {α : Type} (x : α) : Nat → List α → List α
  | 0, _ => []
  | n + 1, [] => x :: padTo x n []
  | n + 1, a :: as => a :: padTo x n as

/-- The byte at an offset; an unlisted offset reads as 0. -/
def Memory.read : Memory → Nat → Byte
  | [], _ => 0
  | c :: cs, a => if c.1 = a then c.2 else Memory.read cs a

/-- `n` bytes from an offset. -/
def Memory.readRange (m : Memory) (a n : Nat) : List Byte :=
  (List.range n).map (fun k => m.read (a + k))

/-- The cells of a run of bytes from an offset, less those that hold 0. -/
def Memory.cells : Nat → List Byte → List Host.Cell
  | _, [] => []
  | a, b :: bs => if b = 0 then Memory.cells (a + 1) bs else (a, b) :: Memory.cells (a + 1) bs

/-- The memory with a run of bytes written from an offset. -/
def Memory.write (m : Memory) (a : Nat) (bytes : List Byte) : Memory :=
  m.filter (fun c => decide (c.1 < a)) ++ Memory.cells a bytes
    ++ m.filter (fun c => decide (a + bytes.length ≤ c.1))

/-- The offset of request slot `i` (R186). -/
def requestSlotOffset (i : Nat) : Nat := 32 * i
/-- The offset of reply slot `i` (R186). -/
def replySlotOffset (i : Nat) : Nat := 0x0400 + 32 * i
/-- The offset of the address list of reply slot `i` (R186). -/
def addressListOffset (i : Nat) : Nat := 0x1000 + 256 * i
/-- The request tail word (R186). -/
def requestTailOffset : Nat := 0x0C00
/-- The request head word (R186). -/
def requestHeadOffset : Nat := 0x0C04
/-- The reply tail word (R186). -/
def replyTailOffset : Nat := 0x0C08
/-- The reply head word (R186). -/
def replyHeadOffset : Nat := 0x0C0C
/-- The first offset of the part of a block that is not used (R186). -/
def unusedOffset : Nat := 0x0C10
/-- The end of the part of a block that is not used (R186). -/
def unusedEnd : Nat := 0x1000

/-- An index word: the index in byte 0 and the other bytes 0 (R187). -/
def indexWord (i : Nat) : List Byte := leBytes 4 i

/-- Whether a master's write that begins at `start` leaves the byte at an offset as it was: a byte of an index word whose byte 0 the
write does not include (R187; log entry 6), and the part of the block that is not used, whose reads return 0 (R186). -/
def writeDropped (start a : Nat) : Bool :=
  decide (requestTailOffset ≤ a ∧ a < unusedOffset ∧ a / 4 * 4 < start) || decide (unusedOffset ≤ a ∧ a < unusedEnd)

/-- The bytes from an offset of a master's write that begins at `start`, one by one, less those that keep what they hold (R187). -/
def Memory.writeByMaster (m : Memory) (start : Nat) : Nat → List Byte → Memory
  | _, [] => m
  | a, b :: bs =>
    Memory.writeByMaster (if writeDropped start a then m else m.write a [b]) start (a + 1) bs

end Sys2Proof.Machine
end

