-- ==== Sys2Proof/Machine/Ops.lean ====
section
/-!
DEFINITION. The named operations over records, port rings and units: access and change of one record, the
geometry's arithmetic (R2), the counts of a group (R16, R84), the reply ring (R153, R154), and the taking of
a request (R152, R169).
-/

namespace Sys2Proof.Machine

/-! ## Changing one record -/

/-- Change one stream record. -/
def State.modStream (s : State) (i : StreamId) (f : StreamRecord → StreamRecord) : State :=
  { s with streams := s.streams.modify i f }

/-- Change one tenant record. -/
def State.modTenant (s : State) (t : Tenant) (f : TenantRecord → TenantRecord) : State :=
  { s with tenants := s.tenants.modify t f }

/-- Change one stream's lines. -/
def State.modLines (s : State) (i : StreamId) (f : StreamLines → StreamLines) : State :=
  { s with lines := s.lines.modify i f }

/-- Change one die record. -/
def State.modDie (s : State) (d : DieId) (f : DieRecord → DieRecord) : State :=
  { s with dies := s.dies.modify d f }

/-- Change one group's reclaim record, where the group is configured. -/
def State.modReclaim (s : State) (g : GroupId) (f : ReclaimRecord → ReclaimRecord) : State :=
  let groups := s.groups.modify g (Option.map (fun r => { r with reclaim := f r.reclaim }))
  { s with groups := groups }

/-- Change one master port record. -/
def State.modMaster (s : State) (p : MasterId) (f : MasterPort → MasterPort) : State :=
  { s with masters := s.masters.modify p f }

/-- The rings of a port. -/
def State.ring (s : State) : PortId → Ring
  | .master p => (s.masters.get p).ring
  | .management => s.mport

/-- Change the rings of a port. -/
def State.modRing (s : State) (p : PortId) (f : Ring → Ring) : State :=
  match p with
  | .master p => s.modMaster p (fun m => { m with ring := f m.ring })
  | .management => { s with mport := f s.mport }

/-- Change one unit record; a number that names no unit changes nothing. -/
def State.modUnit (s : State) (u : Nat) (f : UnitRecord → UnitRecord) : State :=
  { s with units := s.units.modify u f }

/-- Change the Management Unit's record. -/
def State.modMgmt (s : State) (f : Management → Management) : State :=
  { s with mgmt := f s.mgmt }

/-- Change the sticky status. -/
def State.modSticky (s : State) (f : Sticky → Sticky) : State :=
  s.modMgmt (fun m => { m with sticky := f m.sticky })

/-- Change the write context of one request. -/
def State.modContext (s : State) (c : ContextId) (f : WriteContext → WriteContext) : State :=
  { s with contexts := s.contexts.map (fun x => if x.id = c then f x else x) }

/-- The write context of one request, where there is one. -/
def State.context (s : State) (c : ContextId) : Option WriteContext :=
  s.contexts.find? (fun x => decide (x.id = c))

/-- Change one page record of a write context. -/
def State.modPage (s : State) (r : PageRef) (f : PageRecord → PageRecord) : State :=
  s.modContext r.ctx (fun x => { x with pages := x.pages.modify r.page f })

/-! ## Units, dies and groups -/

/-- Blocks per die of the configured geometry, 0 with none. -/
def State.bpd (s : State) : Nat := (s.mgmt.geometry.map (·.bpd)).getD 0
/-- Pages per unit, P, of the configured geometry, 0 with none. -/
def State.pages (s : State) : Nat := (s.mgmt.geometry.map (·.pages)).getD 0
/-- The configured die count, 0 with no geometry. -/
def State.dieCount (s : State) : Nat := (s.mgmt.geometry.map (·.dies)).getD 0

/-- The die a unit lies on: its number divided by BPD (R2). -/
def State.dieOf (s : State) (u : Nat) : DieId := Fin.ofNat 32 (u / s.bpd)
/-- The block of a unit on its die (R2). -/
def State.blockOf (s : State) (u : Nat) : Nat := u % s.bpd

/-- The unit record with a number, where the configured geometry has that unit (R2). -/
def State.unit? (s : State) (u : Nat) : Option UnitRecord := s.units[u]?

/-- A unit's state, where the unit exists. -/
def State.unitState (s : State) (u : Nat) : Option UnitState := (s.unit? u).map (·.state)

/-- A group's configuration, where it is configured. -/
def State.config (s : State) (g : GroupId) : Option GroupConfig := (s.groups.get g).map (·.config)

/-- A group's reclaim record, where the group is configured. -/
def State.reclaimOf (s : State) (g : GroupId) : Option ReclaimRecord :=
  (s.groups.get g).map (·.reclaim)

/-- The configured group a die belongs to, if any. -/
def State.groupOfDie (s : State) (d : Nat) : Option GroupId :=
  (List.finRange 8).find? (fun g =>
    match s.config g with
    | some c => decide (c.first ≤ d ∧ d ≤ c.last)
    | none => false)

/-- The group a unit lies in, if its die belongs to one. -/
def State.groupOfUnit (s : State) (u : Nat) : Option GroupId := s.groupOfDie (s.dieOf u).val

/-- The die numbers of a group, ascending. -/
def GroupConfig.dies (c : GroupConfig) : List Nat :=
  (List.range (c.last + 1 - c.first)).map (· + c.first)

/-- The unit numbers of a group, ascending: the units of its dies (R83). -/
def State.groupUnits (s : State) (c : GroupConfig) : List Nat :=
  (List.range ((c.last + 1 - c.first) * s.bpd)).map (· + c.first * s.bpd)

/-- The group free count: the sum of the free-list lengths of the group's dies (R16). -/
def State.freeCount (s : State) (c : GroupConfig) : Nat :=
  (c.dies.map (fun d => (s.freeLists.get (Fin.ofNat 32 d)).length)).sum

/-- The number of a group's units in a state (R84, R107). -/
def State.countUnits (s : State) (c : GroupConfig) (st : UnitState) : Nat :=
  ((s.groupUnits c).filter (fun u => decide (s.unitState u = some st))).length

/-! ## Free lists (R16) -/

/-- The place a unit takes in its die's free list: before every unit that comes later in the order of
ascending erase count and then ascending number, which is ascending block number on one die (R16). -/
def State.wearBefore (s : State) (u v : Nat) : Bool :=
  let eu : Nat := ((s.unit? u).map (·.eraseCount)).getD 0
  let ev : Nat := ((s.unit? v).map (·.eraseCount)).getD 0
  decide (eu < ev ∨ (eu = ev ∧ u < v))

/-- Insert a unit at its wear position. -/
def State.insertWear (s : State) (u : Nat) : List Nat → List Nat
  | [] => [u]
  | v :: vs => if s.wearBefore u v then u :: v :: vs else v :: s.insertWear u vs

/-- Put a unit into its die's free list at its wear position. -/
def State.insertFree (s : State) (u : Nat) : State :=
  { s with freeLists := s.freeLists.modify (s.dieOf u) (s.insertWear u) }

/-- Take a unit out of its die's free list. -/
def State.removeFree (s : State) (u : Nat) : State :=
  { s with freeLists := s.freeLists.modify (s.dieOf u) (·.erase u) }

/-- Insert a number into an ascending list that holds it at most once: the sets of the manual. -/
def insertNat (u : Nat) : List Nat → List Nat
  | [] => [u]
  | v :: vs => if u < v then u :: v :: vs else if u = v then v :: vs else v :: insertNat u vs

/-! ## Port rings (chapter 8) -/

/-- Records of the request ring not yet taken (R151). -/
def Ring.untaken (r : Ring) : Nat := (r.requestTail - r.requestHead).toNat
/-- Records of the reply ring not yet read (R150). -/
def Ring.unread (r : Ring) : Nat := (r.replyTail - r.replyHead).toNat

/-- Whether a port is ACTIVE; port M always is in service (R169). -/
def State.inService (s : State) : PortId → Bool
  | .master p => decide ((s.masters.get p).state = .active)
  | .management => true

/-- The interrupt line of a port: asserted while the port is in service and its reply ring holds an unread
record (R154). -/
def State.interrupt (s : State) (p : PortId) : Bool :=
  s.inService p && decide ((s.ring p).replyTail ≠ (s.ring p).replyHead)

/-- The record at the request head: 32 bytes of slot (request head modulo 32) (R151, R152). -/
def Ring.headRecord (r : Ring) : List Byte :=
  r.mem.readRange (requestSlotOffset (r.requestHead.toNat % 32)) 32

/-- Write one index word of a port's memory. -/
def Ring.putIndex (r : Ring) (offset i : Nat) : Ring :=
  { r with mem := r.mem.write offset (indexWord i) }

/-- The lowest reply slot number not held by another request of the port (R153). -/
def Ring.freeSlot (r : Ring) : ReplySlot :=
  ((List.finRange 64).find? (fun i => decide (i ∉ r.reservations))).getD 0

/-- Reserve the lowest free reply slot; the reply holdings rise by 1 (R153). -/
def Ring.reserve (r : Ring) : Ring :=
  { r with reservations := r.freeSlot :: r.reservations, replyHoldings := r.replyHoldings + 1 }

/-- Release a reservation without a reply; the reply holdings fall by 1 (R153, R161). -/
def Ring.release (r : Ring) (slot : ReplySlot) : Ring :=
  { r with reservations := r.reservations.erase slot, replyHoldings := r.replyHoldings - 1 }

/-- Write one record and its address list at the reply tail, set the slot's class and raise the tail (R154).
A notice raises the notice holdings. -/
def Ring.writeRecord (r : Ring) (cls : SlotClass) (record : List Byte) (words : List Word) : Ring :=
  let slot := r.replyTail.toNat % 64
  let list := (padTo 0 64 words).flatMap (fun w => leBytes 4 w.toNat)
  let mem := (r.mem.write (replySlotOffset slot) (padTo 0 32 record)).write
    (addressListOffset slot) list
  let r := { r with
    mem := mem
    classes := r.classes.set (Fin.ofNat 64 slot) cls
    replyTail := r.replyTail + 1
    noticeHoldings := match cls with
      | .notice => r.noticeHoldings + 1
      | .reply => r.noticeHoldings }
  r.putIndex replyTailOffset r.replyTail.toNat

/-- Write a reply and release the reservation held for it; the reply holdings stay, since the record is now
unread (R153, R154). -/
def Ring.writeReply (r : Ring) (slot : ReplySlot) (record : List Byte) (words : List Word) : Ring :=
  let r := r.writeRecord .reply record words
  { r with reservations := r.reservations.erase slot }

/-- The slot classes of the records that an advance of the reply head passes, in ring order (R155). -/
def Ring.passed (r : Ring) (advance : Nat) : List SlotClass :=
  (List.range advance).map (fun k => r.classes.get (Fin.ofNat 64 (r.replyHead.toNat + k)))

/-! ## Taking a request (R152, R169) -/

/-- One request record as it was taken: the port, the reply slot reserved for it and its 32 bytes. -/
structure Request where
  port : PortId
  slot : ReplySlot
  bytes : List Byte
deriving DecidableEq, Repr

/-- Byte `k` of a request record. -/
def Request.byte (r : Request) (k : Nat) : Nat := (r.bytes.getD k 0).toNat
/-- The 16-bit field at byte `k` (R187). -/
def Request.half (r : Request) (k : Nat) : Nat := leNat ((r.bytes.drop k).take 2)
/-- The 32-bit field at byte `k` (R187). -/
def Request.word (r : Request) (k : Nat) : Nat := leNat ((r.bytes.drop k).take 4)
/-- The kind byte (R188). -/
def Request.kind (r : Request) : Nat := r.byte 0
/-- The count-or-presence byte (R188). -/
def Request.count (r : Request) : Nat := r.byte 1
/-- The master tag (R188). -/
def Request.tag (r : Request) : Half := BitVec.ofNat 16 (r.half 2)

/-- Whether the next request of a master port may be taken: the device RUNNING, the port ACTIVE, a record in
the ring, reply holdings below 56 and fewer than 32 places held in the share (R152); and no tick has fenced the port, a fence
that is due being made before a request is taken (R159; log entry 41). -/
def State.mayTakeMaster (s : State) (p : MasterId) : Bool :=
  decide (s.mgmt.device = .running) && decide ((s.masters.get p).state = .active) &&
  !(s.masters.get p).fenceDue &&
  decide (0 < (s.masters.get p).ring.untaken) &&
  decide ((s.masters.get p).ring.replyHoldings < Config.replyLimit) &&
  decide (s.credit.shares.get p < Config.shareLimit)

/-- Whether the next request of port M may be taken, in every device state (R169). -/
def State.mayTakeManagement (s : State) : Bool :=
  decide (0 < s.mport.untaken) && decide (s.mport.replyHoldings < Config.replyLimit)

/-- Whether the next request of a port may be taken. -/
def State.mayTake (s : State) : PortId → Bool
  | .master p => s.mayTakeMaster p
  | .management => s.mayTakeManagement

/-- The request at the head of a port's ring, with the reply slot that taking it reserves. -/
def State.headRequest (s : State) (p : PortId) : Request :=
  ⟨p, (s.ring p).freeSlot, (s.ring p).headRecord⟩

/-- The one event of taking a request: a reply slot is reserved, the request head rises by 1 and is written
to its word, and a master port's inactivity count becomes 0 (R152). -/
def State.taken (s : State) (p : PortId) : State :=
  let s := s.modRing p (fun r =>
    let r := r.reserve
    let r := { r with requestHead := r.requestHead + 1 }
    r.putIndex requestHeadOffset r.requestHead.toNat)
  match p with
  | .master p => s.modMaster p (fun m => { m with inactivity := 0 })
  | .management => s

/-! ## The Time Base's counters and the limits, as they are read -/

/-- T_op as a timer is set to it: a value of 0 is taken as 1 (R130). -/
def State.opTicks (s : State) : Nat := max 1 s.limits.op
/-- T_window as a window is granted with it (R125). -/
def State.windowTicks (s : State) : Nat := max 1 s.limits.window
/-- T_order as an order is issued with it (R95). -/
def State.orderTicks (s : State) : Nat := max 1 s.limits.order

end Sys2Proof.Machine
end

