-- ==== Sys2Proof/Machine/Flags.lean ====
section
/-!
DEFINITION. The conditions and computed values that the rules test: settled units, placeable streams, eligible
pages and victims, urgency, open queues, rest, the victim score, and the flags of the sticky status.
-/

namespace Sys2Proof.Machine

/-! ## Units and streams -/

/-- A unit is settled when its programmed count equals its write pointer, or it is retire-pending (R3). -/
def UnitRecord.settled (r : UnitRecord) : Bool :=
  decide (r.programmed = r.writePointer) || r.retirePending

/-- A SEALED unit that is empty, settled and not held leaves SEALED (R9). -/
def UnitRecord.leavesSealed (r : UnitRecord) : Bool :=
  decide (r.state = .sealed) && decide (r.valid = 0) && r.settled && decide (r.hold = .noHold)

/-- The states in which a stream is bound to a port, and in which a seal joins its young list (R22, R38). -/
def StreamState.bound : StreamState → Bool
  | .opened => true
  | .draining => true
  | .quiesced => true
  | .closed => false
  | .parked => false

/-- Whether every open slot of a stream is empty. -/
def StreamRecord.noOpenUnit (r : StreamRecord) : Bool := r.slots.items.all Option.isNone

/-- The configuration of the group a stream names, where it is configured (R23). -/
def State.streamConfig (s : State) (st : StreamId) : Option GroupConfig :=
  (s.streams.get st).group.bind s.config

/-- The enabled positions of a stream, ascending: positions of its group's dies whose mask bit is set (R23). -/
def State.enabledPositions (s : State) (st : StreamId) : List Position :=
  match s.streamConfig st with
  | none => []
  | some c => (List.finRange 8).filter (fun q =>
      decide (c.first + q.val ≤ c.last) && (s.streams.get st).profile.mask.getLsbD q.val)

/-- A stream is placeable when its group is configured and its profile enables a position (R23). -/
def State.placeable (s : State) (st : StreamId) : Bool := !(s.enabledPositions st).isEmpty

/-- The die at a position of a group (R49). -/
def GroupConfig.dieAt (c : GroupConfig) (q : Position) : DieId := Fin.ofNat 32 (c.first + q.val)

/-- The stream whose young list holds a unit, if any (R38). -/
def State.youngOwner (s : State) (u : Nat) : Option StreamId :=
  (s.streams.indices (fun r => r.young.contains u)).head?

/-! ## Dies -/

/-- PLW_N is asserted while it is low (Conventions). -/
def State.plwAsserted (s : State) : Bool := decide (s.inputs.plwN = .low)

/-- Whether the device state is RUNNING (R166). -/
def State.isRunning (s : State) : Bool := decide (s.mgmt.device = .running)

/-- A die is at rest when it is IDLE or FAULTED (R134). -/
def DieRecord.atRest (r : DieRecord) : Bool := decide (r.state = .idle ∨ r.state = .faulted)

/-- Whether every configured die is at rest (R168). -/
def State.allAtRest (s : State) : Bool :=
  (List.finRange 32).all (fun d => decide (s.dieCount ≤ d.val) || (s.dies.get d).atRest)

/-- A background operation is urgent when its group's free count is at or below the group's reserve; on a die
of no group it is not urgent (R114). -/
def State.urgent (s : State) (d : DieId) : Bool :=
  match (s.groupOfDie d.val).bind s.config with
  | some c => decide (s.freeCount c ≤ c.reserve)
  | none => false

/-- The suspend limit of a die's group; 0 for a die of no group (R109). -/
def State.suspendLimit (s : State) (d : DieId) : Nat :=
  (((s.groupOfDie d.val).bind s.config).map (·.suspendLimit)).getD 0

/-- The program allowance of a die's group; 1 for a die of no group (R109). -/
def State.allowance (s : State) (d : DieId) : Nat :=
  (((s.groupOfDie d.val).bind s.config).map (·.allowance)).getD 1

/-- A background queue is open while the device is RUNNING, PLW_N is deasserted and the die is not FAULTED
(R113). -/
def State.queueOpen (s : State) (d : DieId) : Bool :=
  s.isRunning && !s.plwAsserted && decide ((s.dies.get d).state ≠ .faulted)

/-- Whether a read window on the die is OPEN (R127). -/
def DieRecord.windowOpen (r : DieRecord) : Bool :=
  r.windows.items.any (fun w => match w with | .opened _ => true | _ => false)

/-- Whether a read window on the die is WAITING (R125). -/
def DieRecord.windowWaiting (r : DieRecord) : Bool :=
  r.windows.items.any (fun w => match w with | .waiting _ => true | _ => false)

/-- Whether a PROGRAM of a unit is outstanding on the unit's die (R112). -/
def State.programOutstanding (s : State) (u : Nat) : Bool :=
  let r := s.dies.get (s.dieOf u)
  (match r.current with | some (.program k) => decide (k.unit = u) | _ => false) ||
  (match r.suspendedProgram with | some k => decide (k.unit = u) | none => false)

/-- A backlog entry is eligible when its page is the lowest-indexed ALLOCATED page of its unit and no PROGRAM of
the unit is outstanding (R112). -/
def State.pageEligible (s : State) (k : PageKey) : Bool :=
  s.pool.all (fun e => decide (e.key.unit ≠ k.unit ∨ k.index ≤ e.key.index)) &&
  !s.programOutstanding k.unit

/-- The oldest eligible page of one level of a die's backlogs (R112). -/
def State.oldestEligible (s : State) (d : DieId) (l : Level) : Option PageKey :=
  ((s.dies.get d).backlogs.get l).find? s.pageEligible

/-- Whether some level of the die has an eligible page (R112). -/
def State.hasEligible (s : State) (d : DieId) : Bool :=
  (List.finRange 7).any (fun l => (s.oldestEligible d l).isSome)

/-- The unit of the erase that is running or held on a die. -/
def DieRecord.erasingUnit (r : DieRecord) : Option Nat :=
  match r.current with
  | some (.erase u) => some u
  | _ => none

/-! ## Reclaim -/

/-- The Reclaim Controller may issue orders while the device is RUNNING and PLW_N is deasserted (R85). -/
def State.mayIssue (s : State) : Bool := s.isRunning && !s.plwAsserted

/-- A tenant passes the filter when it agrees with the compare value in every bit of the care mask (R87). -/
def State.passesFilter (s : State) (t : Tenant) : Bool :=
  decide ((BitVec.ofNat 6 t.val ^^^ s.reclaim.compare) &&& s.reclaim.care = 0)

/-- The relocation target of a unit's owner stream, where the route is usable: the target is OPEN and of the
unit's tenant (R37). -/
def State.usableRoute (s : State) (r : UnitRecord) : Option StreamId :=
  match r.owner with
  | none => none
  | some st =>
    let target := (s.streams.get st).target
    if (s.streams.get target).state = .opened ∧ r.tenant = some (s.streams.get target).tenant then
      some target
    else none

/-- The eligibility of a unit as a victim of its group (R86). -/
def State.victimEligible (s : State) (u : Nat) : Bool :=
  match s.unit? u with
  | none => false
  | some r =>
    decide (r.state = .sealed) && decide (r.hold = .noHold) && r.settled &&
    (s.youngOwner u).isNone &&
    (decide (r.valid < s.pages) || r.retirePending) &&
    decide ((s.dies.get (s.dieOf u)).state ≠ .faulted) &&
    (s.usableRoute r).isSome &&
    (match r.tenant with | some t => s.passesFilter t | none => false)

/-- A unit's age: the epoch counter minus its seal epoch, modulo 2^32 (R88). -/
def State.age (s : State) (r : UnitRecord) : Nat := (s.time.epoch - r.sealEpoch.getD 0).toNat

/-- The victim score from P, the valid count and the age (R88). -/
def victimScore (p v age : Nat) : Nat :=
  if v = p then 0 else (min age Config.count16 + 1) * (p - v) * 256 / (p + v)

/-- The victim score of a unit as it stands (R88). -/
def State.score (s : State) (r : UnitRecord) : Nat := victimScore s.pages r.valid (s.age r)

/-- Whether a unit comes before another in the order of R89. -/
def Candidate.before : Candidate → Candidate → Bool
  | .retire u a, .retire v b => decide (b < a ∨ (a = b ∧ u < v))
  | .retire _ _, .scored _ _ _ => true
  | .scored _ _ _, .retire _ _ => false
  | .scored u a e, .scored v b f =>
    decide (b < a ∨ (a = b ∧ (e < f ∨ (e = f ∧ u < v))))

/-- The unit of a candidate. -/
def Candidate.unit : Candidate → Nat
  | .retire u _ => u
  | .scored u _ _ => u

/-- The lowest-numbered FREE order slot of a group (R91). -/
def ReclaimRecord.freeSlot (r : ReclaimRecord) : Option OrderSlotId :=
  (List.finRange 4).find? (fun k => match r.slots[k.val]? with
    | some none => true
    | _ => false)

/-! ## Ports -/

/-- A port owes nothing when no request of it holds a reservation (R159). -/
def Ring.owesNothing (r : Ring) : Bool := r.reservations.isEmpty

/-- Whether some stream is bound to a port (R159). -/
def State.hasBoundStream (s : State) (p : MasterId) : Bool :=
  s.streams.items.any (fun r => decide (r.port = some p))

/-- The conditions under which a tick raises a port's inactivity count (R159). A port whose fence a tick has made due counts as the
FENCED port it is about to be (log entry 41). -/
def State.countsSilence (s : State) (p : MasterId) : Bool :=
  s.isRunning && decide ((s.masters.get p).state = .active) && !(s.masters.get p).fenceDue && s.hasBoundStream p &&
  decide (s.limits.port ≠ 0) && (s.masters.get p).ring.owesNothing

/-! ## Write contexts -/

/-- Whether a page of a context waits on a re-placement list. -/
def State.replaceWaits (s : State) (c : ContextId) : Bool :=
  s.lines.items.any (fun l => l.replace.any (fun r => decide (r.ctx = c)))

/-- A request has ended when no page of its context is UNPLACED or ALLOCATED; for an orphaned context, when none
is ALLOCATED and none waits on a re-placement list (R62, R67). -/
def State.requestEnded (s : State) (x : WriteContext) : Bool :=
  if x.orphaned then
    x.pages.all (fun p => decide (p.outcome ≠ .allocated)) && !s.replaceWaits x.id
  else
    x.pages.all (fun p => decide (p.outcome ≠ .allocated ∧ p.outcome ≠ .unplaced))

/-! ## The sticky status (R184) -/

/-- Set the stray-completion flag. -/
def State.flagStray (s : State) : State := s.modSticky (fun k => { k with stray := true })

/-- Record a dropped notice: the flag and the count, which stops at 65,535 (R183). -/
def State.flagOverrun (s : State) : State :=
  s.modSticky (fun k => { k with
    overrun := true
    overrunCount := min Config.count16 (k.overrunCount + 1) })

/-- Record a die's fault cause (R184). -/
def State.flagDieFault (s : State) (d : DieId) (c : FaultCause) : State :=
  s.modSticky (fun k => { k with dieFault := k.dieFault.set d c })

/-- Record a port's fence cause (R184). -/
def State.flagFence (s : State) (p : MasterId) (c : FenceCause) : State :=
  s.modSticky (fun k => { k with portFence := k.portFence.set p c })

/-- Record that PLW_N was seen asserted (R184). -/
def State.flagPlw (s : State) : State := s.modSticky (fun k => { k with plwSeen := true })

end Sys2Proof.Machine
end

