-- ==== Sys2Proof/Machine/Operands.lean ====
section
/-!
DEFINITION. The operand forms of the request records (R188, R190): for each kind, the fields a record carries
and where they lie, with the clamping and the presence bits that the rules give.
-/

namespace Sys2Proof.Machine

/-! ## Kind codes (R187) -/

/-- The codes of the master requests (R187). PING is taken on every port. -/
def kindOpenStream : Nat := 0x01
def kindCloseStream : Nat := 0x02
def kindDrainStream : Nat := 0x03
def kindResumeStream : Nat := 0x04
def kindSetProfile : Nat := 0x05
def kindWrite : Nat := 0x06
def kindInvalidate : Nat := 0x07
def kindUnitDrained : Nat := 0x08
def kindHold : Nat := 0x09
def kindFix : Nat := 0x0A
def kindRelease : Nat := 0x0B
def kindReadWindow : Nat := 0x0C
def kindEndWindow : Nat := 0x0D
def kindPing : Nat := 0x0E
def kindQueryUnit : Nat := 0x0F
/-- The codes of the management requests (R187). -/
def kindSetGeometry : Nat := 0x20
def kindSetGroup : Nat := 0x21
def kindSetTimebase : Nat := 0x22
def kindSetTimers : Nat := 0x23
def kindSetTenant : Nat := 0x24
def kindSetStream : Nat := 0x25
def kindSetFilter : Nat := 0x26
def kindSeekUnits : Nat := 0x27
def kindLoadUnits : Nat := 0x28
def kindReadUnit : Nat := 0x29
def kindReadStream : Nat := 0x2A
def kindReadTenant : Nat := 0x2B
def kindGetStatus : Nat := 0x2C
def kindClearStatus : Nat := 0x2D
def kindRun : Nat := 0x2E
def kindHalt : Nat := 0x2F
def kindFencePort : Nat := 0x30
def kindRevivePort : Nat := 0x31
def kindClearDieFault : Nat := 0x32
def kindCancelOrders : Nat := 0x33
/-- The codes of the notices (R187). -/
def kindRelocateOrder : Nat := 0x40
def kindOrderExpired : Nat := 0x41
def kindDieFaulted : Nat := 0x42
def kindStrayCompletion : Nat := 0x43
def kindPortFenced : Nat := 0x44

/-- Whether a kind is one that a master port takes (R156, R187). -/
def isMasterKind (k : Nat) : Bool := decide (1 ≤ k ∧ k ≤ 0x0F)

/-- Whether a kind is one that port M takes: the management requests and PING (R169, R170). -/
def isManagementKind (k : Nat) : Bool := decide ((0x20 ≤ k ∧ k ≤ 0x33) ∨ k = kindPing)

/-! ## Fields of master requests (R188) -/

/-- A number as a `Fin`, where it is in range. -/
def asFin (n v : Nat) : Option (Fin n) := if h : v < n then some ⟨v, h⟩ else none

/-- The stream operand, 16 bits at byte 4; `none` outside 0 to 255. -/
def Request.stream (r : Request) : Option StreamId := asFin 256 (r.half 4)

/-- The unit operand of HOLD, FIX, RELEASE, QUERY-UNIT and UNIT-DRAINED, 16 bits at byte 8. -/
def Request.unit (r : Request) : Nat := r.half 8

/-- The order number of UNIT-DRAINED, at bytes 10 and 11. -/
def Request.orderNumber (r : Request) : Half := BitVec.ofNat 16 (r.half 10)

/-- A priority byte as a level: 0 is taken as 1 and a value above 7 as 7 (R33). -/
def clampPriority (b : Nat) : Level := if b = 0 then 0 else if h : b - 1 < 7 then ⟨b - 1, h⟩ else 6

/-- A mode byte: PACK 0, SPREAD 1, and any other value an unknown mode (R188). -/
def modeOf (b : Nat) : Option Mode := if b = 0 then some .pack else if b = 1 then some .spread else none

/-- A profile from its mode, mask and priority bytes; `none` for a mask of 0 or an unknown mode (R33). -/
def profileOf (mode mask priority : Nat) : Option Profile :=
  match modeOf mode with
  | none => none
  | some m =>
    if BitVec.ofNat 8 mask = 0 then none
    else some ⟨m, BitVec.ofNat 8 mask, clampPriority priority⟩

/-- The profile of SET-PROFILE, bytes 12 to 14. -/
def Request.profile (r : Request) : Option Profile := profileOf (r.byte 12) (r.byte 13) (r.byte 14)

/-- The seal-now flag of SET-PROFILE, byte 15: 0 clear, any other value set. -/
def Request.sealNow (r : Request) : Bool := decide (r.byte 15 ≠ 0)

/-- The class byte of a WRITE: HOST 1, RELOC 2. -/
def Request.cls (r : Request) : Option WriteClass :=
  if r.byte 7 = 1 then some .host else if r.byte 7 = 2 then some .reloc else none

/-- The page count byte of a WRITE. -/
def Request.pageCount (r : Request) : Nat := r.byte 6

/-- The source unit of a RELOC WRITE, 16 bits at byte 8. -/
def Request.source (r : Request) : Nat := r.half 8

/-- The buffer handle base of a WRITE, 32 bits at byte 12. -/
def Request.handle (r : Request) : Word := BitVec.ofNat 32 (r.word 12)

/-- The value of a PING, 32 bits at byte 12. -/
def Request.pingValue (r : Request) : Nat := r.word 12

/-- The pairs of an INVALIDATE: pair k at bytes 8 + 4k, a unit and a count; pairs beyond the count in byte 1
are not read. -/
def Request.pairs (r : Request) : List (Nat × Nat) :=
  (List.range r.count).map (fun k => (r.half (8 + 4 * k), r.half (10 + 4 * k)))

/-- The die operand of READ-WINDOW and END-WINDOW, byte 6 (R188). -/
def Request.windowDie (r : Request) : Nat := r.byte 6

/-! ## Fields of management requests (R188): operands from byte 4 in the order of their rules, each in the
smallest of 1, 2 or 4 bytes that holds its range, at even offsets for 2 and 4 bytes -/

/-- Whether optional field `k` is marked present in byte 1. -/
def Request.present (r : Request) (k : Nat) : Bool := r.count.testBit k

/-- An optional field's value, where it is marked present. -/
def Request.optional (r : Request) (k v : Nat) : Option Nat := if r.present k then some v else none

/-- SET-GEOMETRY: die count in byte 4, BPD in bytes 6 and 7, P in bytes 8 and 9. -/
def Request.geometry (r : Request) : Geometry := ⟨r.byte 4, r.half 6, r.half 8⟩

/-- The fields of SET-GROUP after defaults are applied (R172): group, first die and last die in bytes 4 to 6,
reserve in byte 7, low and high watermarks in bytes 8 to 11, order slots, suspend limit, program allowance and
relocation level in bytes 12 to 15. -/
structure GroupRequest where
  group : Nat
  first : Nat
  last : Nat
  reserve : Nat
  low : Nat
  high : Nat
  orderSlots : Nat
  suspendLimit : Nat
  allowance : Nat
  relocLevel : Nat
deriving DecidableEq, Repr

/-- The SET-GROUP operands, an absent field taking its default (R172). -/
def Request.groupRequest (r : Request) : GroupRequest :=
  let first := r.byte 5
  let last := r.byte 6
  let reserve := (r.optional 0 (r.byte 7)).getD (2 * (last + 1 - first))
  { group := r.byte 4
    first := first
    last := last
    reserve := reserve
    low := (r.optional 1 (r.half 8)).getD (reserve + 4)
    high := (r.optional 2 (r.half 10)).getD (reserve + 12)
    orderSlots := (r.optional 3 (r.byte 12)).getD 2
    suspendLimit := (r.optional 4 (r.byte 13)).getD 4
    allowance := (r.optional 5 (r.byte 14)).getD 8
    relocLevel := (r.optional 6 (r.byte 15)).getD 0 }

/-- A relocation level byte: FOLLOW 0 (the first value its rule lists), or 1 to 7. -/
def relocLevelOf (v : Nat) : Option Level :=
  if h : 1 ≤ v ∧ v ≤ 7 then some ⟨v - 1, by omega⟩ else none

/-- SET-TIMEBASE: tick length in bytes 4 and 5, epoch length in bytes 6 and 7, each optional. -/
def Request.tickLength (r : Request) : Option Nat := r.optional 0 (r.half 4)
def Request.epochLength (r : Request) : Option Nat := r.optional 1 (r.half 6)

/-- SET-TIMERS: the five limits in bytes 4 to 13, each optional; limit `k` in the order of R176. -/
def Request.limit (r : Request) (k : Nat) : Option Nat := r.optional k (r.half (4 + 2 * k))

/-- The tenant of SET-TENANT, byte 4. -/
def Request.tenant (r : Request) : Option Tenant := asFin 64 (r.byte 4)

/-- The metering byte of SET-TENANT, byte 5: the values "on or off" of R40 coded by their position (R187), on 0
and off 1 (DEDUCED, log entry 9). -/
def Request.metering (r : Request) : Option Bool :=
  if r.byte 5 = 0 then some true else if r.byte 5 = 1 then some false else none

/-- The refill rate of SET-TENANT, bytes 6 and 7. -/
def Request.rate (r : Request) : Nat := r.half 6
/-- The ceiling of SET-TENANT, bytes 8 to 11. -/
def Request.ceiling (r : Request) : Nat := r.word 8

/-- The operand in byte 4: the stream of SET-STREAM and READ-STREAM, the tenant of READ-TENANT, the port of
FENCE-PORT and REVIVE-PORT, the die of CLEAR-DIE-FAULT, the section of GET-STATUS. -/
def Request.first (r : Request) : Nat := r.byte 4
/-- The unit of SEEK-UNITS and READ-UNIT, bytes 4 and 5. -/
def Request.managedUnit (r : Request) : Nat := r.half 4

/-- SET-STREAM's die group, byte 6: 0xFF is none; a value above 7 that is not 0xFF is refused (R178). -/
def Request.streamGroup (r : Request) : Option (Option GroupId) :=
  if r.byte 6 = 0xFF then some none else (asFin 8 (r.byte 6)).map some

/-- SET-STREAM's profile, bytes 8 to 10. -/
def Request.streamProfile (r : Request) : Option Profile := profileOf (r.byte 8) (r.byte 9) (r.byte 10)

/-- A master port coded in byte 4 of FENCE-PORT or REVIVE-PORT; `none` for M, coded 4, and beyond (R162). -/
def Request.masterPort (r : Request) : Option MasterId := asFin 4 (r.byte 4)

/-! ## Unit records as loaded (R190) -/

/-- The fields of a 14-byte unit record in a LOAD-UNITS request. -/
structure LoadedRecord where
  stateCode : Nat
  short : Bool
  retirePending : Bool
  tenant : Nat
  owner : Nat
  writePointer : Nat
  programmed : Nat
  valid : Nat
  eraseCount : Nat
  sealEpoch : Word
deriving DecidableEq, Repr

/-- The fields of a 14-byte unit record (R190). -/
def loadedRecord (bytes : List Byte) : LoadedRecord :=
  let b0 := (bytes.getD 0 0).toNat
  let counts := leNat ((bytes.drop 3).take 5)
  { stateCode := b0 % 8
    short := b0.testBit 5
    retirePending := b0.testBit 6
    tenant := (bytes.getD 1 0).toNat
    owner := (bytes.getD 2 0).toNat
    writePointer := counts % 2048
    programmed := counts / 2 ^ 11 % 2048
    valid := counts / 2 ^ 22 % 2048
    eraseCount := leNat ((bytes.drop 8).take 2)
    sealEpoch := BitVec.ofNat 32 (leNat ((bytes.drop 10).take 4)) }

/-- The unit state a state code names; 7 names none (R180, R190). -/
def unitStateOf : Nat → Option UnitState
  | 0 => some .free
  | 1 => some .opened
  | 2 => some .sealed
  | 3 => some .reclaim
  | 4 => some .erasing
  | 5 => some .unknown
  | 6 => some .retired
  | _ => none

/-- The unit records of a LOAD-UNITS request, at bytes 4 to 17 and 18 to 31; one beyond the count in byte 1 is not
read. -/
def Request.loadedRecords (r : Request) : List LoadedRecord :=
  (List.range r.count).map (fun k => loadedRecord ((r.bytes.drop (4 + 14 * k)).take 14))

end Sys2Proof.Machine
end

