-- ==== Sys2Proof/Machine/Records.lean ====
section
/-!
DEFINITION. The records the part writes: status and enumeration codes (R187), reply headers and bodies (R189),
the unit record (R190), notices (R189), descriptors (R191), and the words that report tables (R181, R182, R189).
-/

namespace Sys2Proof.Machine

/-! ## Codes (R187) -/

/-- The status codes (R187), in the order of their numbers. -/
inductive Status where
  | ok | partialWrite | countSkew | drained | granted
  | badStream | notBound | streamState | boundElsewhere | badRequest
  | badSource | tenantMismatch | stale | tooLate | notSealed
  | busyReclaim | retained | busy | wrongState | badConfig
deriving DecidableEq, Repr

/-- A status's code (R187). -/
def Status.code : Status → Nat
  | .ok => 0
  | .partialWrite => 1
  | .countSkew => 2
  | .drained => 3
  | .granted => 4
  | .badStream => 5
  | .notBound => 6
  | .streamState => 7
  | .boundElsewhere => 8
  | .badRequest => 9
  | .badSource => 10
  | .tenantMismatch => 11
  | .stale => 12
  | .tooLate => 13
  | .notSealed => 14
  | .busyReclaim => 15
  | .retained => 16
  | .busy => 17
  | .wrongState => 18
  | .badConfig => 19

/-- A flag, or a value that is yes or no, as a number: 1 set or yes, 0 clear or no (log entry 9). -/
def flagCode (b : Bool) : Nat := if b then 1 else 0

def UnitState.code : UnitState → Nat
  | .free => 0
  | .opened => 1
  | .sealed => 2
  | .reclaim => 3
  | .erasing => 4
  | .unknown => 5
  | .retired => 6

def Hold.code : Hold → Nat
  | .noHold => 0
  | .held => 1
  | .fixed => 2

def StreamState.code : StreamState → Nat
  | .closed => 0
  | .opened => 1
  | .draining => 2
  | .quiesced => 3
  | .parked => 4

def Mode.code : Mode → Nat
  | .pack => 0
  | .spread => 1

/-- Metering by position in "on or off" (R40, R187; log entry 9). -/
def meteringCode (b : Bool) : Nat := if b then 0 else 1

def WaitReason.code : WaitReason → Nat
  | .credit => 0
  | .space => 1

def SearchState.code : SearchState → Nat
  | .idle => 0
  | .searching => 1
  | .waiting => 2

def OrderCause.code : OrderCause → Nat
  | .timer => 0
  | .cancelled => 1

/-- An order slot's state: FREE, then the order states of R93. -/
def orderSlotCode : Option Order → Nat
  | none => 0
  | some o => match o.phase with
    | .pending => 1
    | .issued _ => 2
    | .closing _ => 3

def DieState.code : DieState → Nat
  | .idle => 0
  | .program => 1
  | .erase => 2
  | .suspending => 3
  | .suspended => 4
  | .check => 5
  | .faulted => 6

def DescriptorKind.code : DescriptorKind → Nat
  | .program => 0
  | .erase => 1
  | .check => 2
  | .suspend => 3
  | .resume => 4

def FailCause.code : FailCause → Nat
  | .media => 0
  | .aborted => 1

def TagPhase.code : TagPhase → Nat
  | .queued => 0
  | .sent => 1

def PortState.code : PortState → Nat
  | .active => 0
  | .fenced => 1

def FenceCause.code : FenceCause → Nat
  | .noFence => 0
  | .inactivity => 1
  | .management => 2

def FaultCause.code : FaultCause → Nat
  | .noFault => 0
  | .program => 1
  | .erase => 2
  | .check => 3

def DeviceState.code : DeviceState → Nat
  | .unconfigured => 0
  | .halted => 1
  | .running => 2
  | .halting => 3

/-- A window entry's code: NONE, WAITING, OPEN, in the order of R109. -/
def Window.code : Window → Nat
  | .closed => 0
  | .waiting _ => 1
  | .opened _ => 2

/-- A background operation's kind by the descriptor codes that this chapter's layouts give (R187, R191). -/
def BackgroundKind.code : BackgroundKind → Nat
  | .erase => 1
  | .check => 2

/-- The code of an operation's kind, by the descriptor codes (R191). -/
def Operation.code : Operation → Nat
  | .program _ => 0
  | .erase _ => 1
  | .check _ => 2

/-- The unit of an operation. -/
def Operation.unit : Operation → Nat
  | .program k => k.unit
  | .erase u => u
  | .check u => u

/-- A line's level as it is reported: 1 high, 0 low (log entry 9). -/
def lineCode : LineLevel → Nat
  | .low => 0
  | .high => 1

/-! ## Headers and bodies (R189) -/

/-- The eight-byte header of a record: kind, class, master tag, status, and three reserved bytes (R189). -/
def recordHeader (kind cls tag status : Nat) : List Byte :=
  leBytes 1 kind ++ leBytes 1 cls ++ leBytes 2 tag ++ leBytes 1 status ++ [0, 0, 0]

/-- A reply record: header and body (R189). -/
def replyRecord (kind : Nat) (tag : Half) (status : Status) (body : List Byte) : List Byte :=
  recordHeader kind 0 tag.toNat status.code ++ body

/-- A notice record: class 1, no tag and no status (R189). -/
def noticeRecord (kind : Nat) (body : List Byte) : List Byte := recordHeader kind 1 0 0 ++ body

/-- Fields packed from an even offset, each given as its width and value: a field of 2 or 4 bytes begins at an
even offset, with a byte of padding before it where needed. `odd` says whether the next offset is odd. This is
the packing of R188, used for the bodies whose layout chapter 10 does not give (log entry 10). -/
def packFields : Bool → List (Nat × Nat) → List Byte
  | _, [] => []
  | odd, (w, v) :: fs =>
    if w = 1 then leBytes 1 v ++ packFields (!odd) fs
    else if odd then 0 :: (leBytes w v ++ packFields false fs)
    else leBytes w v ++ packFields false fs

/-- The 14-byte unit record (R190), absent fields 0. -/
def UnitRecord.encode (r : UnitRecord) : List Byte :=
  leBytes 1 (r.state.code + 8 * r.hold.code + 32 * flagCode r.short + 64 * flagCode r.retirePending) ++
  leBytes 1 ((r.tenant.map (·.val)).getD 0) ++
  leBytes 1 ((r.owner.map (·.val)).getD 0) ++
  leBytes 5 (r.writePointer + 2 ^ 11 * r.programmed + 2 ^ 22 * r.valid +
    2 ^ 33 * (r.orderSlot.map (·.val)).getD 0 + 2 ^ 35 * r.suspendCount.getD 0) ++
  leBytes 2 r.eraseCount ++
  leBytes 4 (r.sealEpoch.getD 0).toNat

/-- A page address word: page index, block, die and failed flag (R189). -/
def pageAddressWord (a : PageAddress) (failed : Bool) : Word :=
  BitVec.ofNat 32 (a.page + 2 ^ 10 * a.block + 2 ^ 21 * a.die.val + 2 ^ 31 * flagCode failed)

/-- The address list of a WRITE reply: word k describes page k (R62). -/
def WriteContext.addressList (x : WriteContext) : List Word :=
  x.pages.map (fun p => match p.address with
    | some a => pageAddressWord a (decide (p.outcome = .failed))
    | none => 0)

/-- The 16 bytes of a descriptor (R191). -/
def Descriptor.encode (d : Descriptor) : List Byte :=
  leBytes 1 d.kind.code ++ leBytes 1 d.die.val ++ [d.tag, 0] ++ leBytes 2 d.block ++
  leBytes 2 d.page ++ leBytes 4 d.handle.toNat ++ [0, 0, 0, 0]

/-! ## Notice bodies (R189) -/

/-- The body of a RELOCATE-ORDER notice (R94, R189). -/
def relocateOrderBody (o : Order) (r : NoticeRef) (valid : Nat) : List Byte :=
  leBytes 2 o.unit ++ leBytes 1 o.tenant.val ++ leBytes 1 o.target.val ++ leBytes 1 r.group.val ++
  leBytes 1 r.slot.val ++ leBytes 2 o.number.toNat ++ leBytes 2 valid

/-- The body of an ORDER-EXPIRED notice (R95, R189). -/
def orderExpiredBody (o : Order) (r : NoticeRef) (cause : OrderCause) : List Byte :=
  leBytes 2 o.unit ++ [0, 0] ++ leBytes 1 r.group.val ++ leBytes 1 r.slot.val ++
  leBytes 2 o.number.toNat ++ [0, 0] ++ leBytes 1 cause.code

/-- The body of a DIE-FAULTED notice (R131, R189). -/
def dieFaultedBody (d : DieId) (kind : FaultCause) (unit page : Nat) : List Byte :=
  leBytes 1 d.val ++ leBytes 1 kind.code ++ leBytes 2 unit ++ leBytes 2 page

/-- The reasons of a stray completion, in the order of the tests of R143 (codes of R189). -/
inductive StrayReason where
  | unknownTag
  | notSent
  | wrongDie
  | wrongKind
deriving DecidableEq, Repr

def StrayReason.code : StrayReason → Nat
  | .unknownTag => 0
  | .notSent => 1
  | .wrongDie => 2
  | .wrongKind => 3

/-- The body of a STRAY-COMPLETION notice: bytes 0 to 3 of the completion as received, the reason, and the entry's
kind and die, 0 for UNKNOWN_TAG (R147, R189). -/
def strayBody (c : Completion) (reason : StrayReason) (e : Option TagEntry) : List Byte :=
  [c.kind, c.die, c.tag, c.cause] ++ leBytes 1 reason.code ++
  leBytes 1 ((e.map (·.kind.code)).getD 0) ++ leBytes 1 ((e.map (·.die.val)).getD 0)

/-- The body of a PORT-FENCED notice (R160, R189). -/
def portFencedBody (p : MasterId) (cause : FenceCause) (parked orphaned : Nat) : List Byte :=
  leBytes 1 p.val ++ leBytes 1 cause.code ++ leBytes 2 parked ++ leBytes 2 orphaned

/-! ## Words that report tables (R189) -/

/-- The word of an absent value (R189). -/
def absentWord : Word := 0xFFFFFFFF

/-- A single value in one word. -/
def valueWord (n : Nat) : Word := BitVec.ofNat 32 n

/-- A value that may be absent. -/
def optionWord (o : Option Nat) : Word := match o with
  | some n => valueWord n
  | none => absentWord

/-- A list item of one word: small codes in bytes 0 and 1, a number in bytes 2 and 3 (R189). -/
def itemWord (b0 b1 h : Nat) : Word := BitVec.ofNat 32 (b0 % 256 + 256 * (b1 % 256) + 65536 * (h % 65536))

/-- The second word of a two-word item: its 16-bit number and its tick count (R189). -/
def secondWord (n ticks : Nat) : Word := BitVec.ofNat 32 (n % 65536 + 65536 * (ticks % 65536))

/-- One-byte codes packed four to a word, item 4k + j in byte j of word k (R189). -/
def packedWords : List Nat → List Word
  | a :: b :: c :: d :: rest =>
    BitVec.ofNat 32 (a + 256 * b + 65536 * c + 16777216 * d) :: packedWords rest
  | [] => []
  | [a] => [BitVec.ofNat 32 a]
  | [a, b] => [BitVec.ofNat 32 (a + 256 * b)]
  | [a, b, c] => [BitVec.ofNat 32 (a + 256 * b + 65536 * c)]

/-- A set of numbers as a bitmap of `n` words, the lowest number in bit 0 of the first (R189). -/
def bitmapWords (n : Nat) (member : Nat → Bool) : List Word :=
  (List.range n).map (fun w =>
    BitVec.ofNat 32 (((List.range 32).filter (fun b => member (32 * w + b))).map (2 ^ ·)).sum)

/-- A profile in three words, each absent where there is no profile. -/
def profileWords : Option Profile → List Word
  | some p => [valueWord p.mode.code, valueWord p.mask.toNat, valueWord (p.priority.val + 1)]
  | none => [absentWord, absentWord, absentWord]

/-- An open slot in two words: its unit, and its allocation count and idle ticks. DEDUCED (log entry 40): an empty slot is an absent item,
and both its words are those of an absent value. -/
def openSlotWords : Option OpenSlot → List Word
  | some o => [itemWord 0 0 o.unit, secondWord o.allocated o.idle]
  | none => [absentWord, absentWord]

/-- A stream's entry on the credit wait list: whether it has a SPACE entry, and any entry with its reason (the
first in arrival order). -/
def State.streamSpaceWait (s : State) (st : StreamId) : Bool :=
  s.credit.waitList.any (fun e => decide (e.stream = st ∧ e.reason = .space))

/-- The entry of a stream on the credit wait list that READ-STREAM reports with its reason (R81). Of several entries, SPACE and CREDIT,
it is the first in arrival order, which is the model's choice (log entry 30). -/
def State.streamEntry (s : State) (st : StreamId) : Option WaitEntry :=
  s.credit.waitList.find? (fun e => decide (e.stream = st))

/-- The words of a READ-STREAM reply (R181). A die group of none is the word of an absent value; chapter 10 gives no code for it here, and
SET-STREAM's 0xFF is a byte (log entry 27). -/
def State.streamWords (s : State) (st : StreamId) : List Word :=
  let r := s.streams.get st
  let t := s.streams.get r.target
  [valueWord r.state.code, valueWord r.tenant.val, optionWord (r.group.map (·.val)),
   optionWord (r.port.map (·.val)), valueWord r.target.val] ++
  profileWords (some r.profile) ++ profileWords r.pendingProfile ++
  r.slots.items.flatMap openSlotWords ++
  [valueWord r.packCursor.val, valueWord r.spreadCursor.val, valueWord r.young.length] ++
  r.young.map (itemWord 0 0 ·) ++
  [valueWord r.outstanding, r.lastActivity, valueWord t.state.code, valueWord t.tenant.val,
   valueWord (flagCode (s.streamSpaceWait st)), valueWord (s.lines.get st).replace.length,
   valueWord (flagCode (s.streamEntry st).isSome),
   optionWord ((s.streamEntry st).map (·.reason.code))]

/-- The number of a tenant's CREDIT entries on the credit wait list (R69). -/
def State.tenantEntries (s : State) (t : Tenant) : Nat :=
  (s.credit.waitList.filter (fun e => decide (e.tenant = t ∧ e.reason = .credit))).length

/-- A balance as a word, in two's complement (R189). -/
def balanceWord (b : Int) : Word := BitVec.ofInt 32 b

/-- The words of a READ-TENANT reply (R181). -/
def State.tenantWords (s : State) (t : Tenant) : List Word :=
  let r := s.tenants.get t
  [valueWord (meteringCode r.metered), valueWord r.rate, valueWord r.ceiling, r.hostPages, r.relocPages,
   balanceWord (s.credit.balances.get t), valueWord (s.tenantEntries t)]

/-- Where an ERASING or UNKNOWN unit stands: waiting 0, queued 1, or the die's current operation 2 (R181). -/
def State.unitPlace (s : State) (u : Nat) : Option Nat :=
  let r := s.dies.get (s.dieOf u)
  match s.unitState u with
  | some .erasing | some .unknown =>
    if r.waiting.contains u then some 0
    else if r.queue.any (fun e => decide (e.unit = u)) then some 1
    else if r.current.map (·.unit) = some u then some 2
    else none
  | _ => none

/-- The words both unit reads carry: whether the unit is in a young list, and which stream's (R157, R181). -/
def State.youngWords (s : State) (u : Nat) : List Word :=
  [valueWord (flagCode (s.youngOwner u).isSome), optionWord ((s.youngOwner u).map (·.val))]

/-- The body of a READ-UNIT or QUERY-UNIT reply: unit number in bytes 8 and 9, the record in bytes 10 to 23, the
number of words in bytes 24 and 25 (R190). -/
def unitBody (u : Nat) (r : UnitRecord) (words : Nat) : List Byte :=
  leBytes 2 u ++ r.encode ++ leBytes 2 words

/-- The words of the sticky status (R184). -/
def Sticky.words (k : Sticky) : List Word :=
  [valueWord (flagCode k.stray), valueWord (flagCode k.overrun), valueWord k.overrunCount] ++
  packedWords (k.dieFault.items.map (·.code)) ++ packedWords (k.portFence.items.map (·.code)) ++
  [valueWord (flagCode k.plwSeen)]

/-- The index, reservation, holding, refusal and interrupt values of a port's rings. -/
def State.ringWords (s : State) (p : PortId) : List Word :=
  let r := s.ring p
  [valueWord r.requestTail.toNat, valueWord r.requestHead.toNat, valueWord r.replyTail.toNat,
   valueWord r.replyHead.toNat] ++
  bitmapWords 2 (fun n => r.reservations.any (fun i => decide (i.val = n)))

/-- The DEVICE section of GET-STATUS (R182). The die ranges are eight items, one for each group in ascending number, with the first die in
byte 0 and the last in byte 1, and the word of an absent value for a group that is not configured (log entry 34). The code of an interrupt
level, 1 asserted and 0 deasserted, is the model's (DEDUCED, log entry 9). -/
def State.deviceWords (s : State) : List Word :=
  let geometry := match s.mgmt.geometry with
    | some g => [valueWord g.dies, valueWord g.bpd, valueWord g.pages]
    | none => [absentWord, absentWord, absentWord]
  let ranges := s.groups.items.map (fun o => match o with
    | some g => itemWord g.config.first g.config.last 0
    | none => absentWord)
  [valueWord s.mgmt.device.code] ++ geometry ++ ranges ++
  [valueWord (s.time.divider / 100), valueWord s.time.epochLength, s.time.tick, s.time.epoch,
   valueWord s.limits.port, valueWord s.limits.idle, valueWord s.limits.order,
   valueWord s.limits.window, valueWord s.limits.op, valueWord s.mgmt.cursor,
   valueWord s.reclaim.compare.toNat, valueWord s.reclaim.care.toNat,
   valueWord s.reclaim.orderNumber.toNat, valueWord s.credit.waitList.length,
   valueWord s.link.queue.length, valueWord s.link.tags.length, valueWord s.link.cursor.toNat,
   valueWord s.link.waiting.length] ++ packedWords (s.link.waiting.map (·.val)) ++
  [valueWord (lineCode s.inputs.plwN), valueWord (lineCode s.inputs.retainN)] ++ s.ringWords .management ++
  [valueWord s.mport.replyHoldings, valueWord s.mport.noticeHoldings, valueWord s.mport.refusals,
   valueWord (flagCode (s.interrupt .management))] ++ s.mgmt.sticky.words

/-- An order slot in two words: state, port and unit, then order number and remaining ticks. DEDUCED (log entry 40): a FREE slot is an item
whose state has the code 0 and whose other fields are absent, and so is the tick count of an order that is not ISSUED; an absent field of
an item is 0. -/
def orderSlotWords (o : Option Order) : List Word :=
  match o with
  | none => [itemWord 0 0 0, secondWord 0 0]
  | some x => [itemWord (orderSlotCode o) x.port.val x.unit,
      secondWord x.number.toNat (match x.phase with | .issued n => n | _ => 0)]

/-- The SPACE entries of a group's streams (R54). -/
def State.groupSpaceEntries (s : State) (g : GroupId) : Nat :=
  (s.credit.waitList.filter (fun e =>
    decide (e.reason = .space ∧ (s.streams.get e.stream).group = some g))).length

/-- The waiting re-placement lists of a group's streams (R54). -/
def State.groupWaiters (s : State) (g : GroupId) : Nat :=
  (s.waiters.filter (fun w => decide ((s.streams.get w.stream).group = some g))).length

/-- The GROUP section of GET-STATUS (R182); a group that is not configured is marked so. The code of its activity, 1 for yes and 0 for no,
is the model's (R83, R107; log entry 9). -/
def State.groupWords (s : State) (g : GroupId) : List Word :=
  match s.groups.get g with
  | none => [valueWord 0]
  | some r =>
    let c := r.config
    [valueWord 1, valueWord g.val, valueWord c.first, valueWord c.last, valueWord c.reserve, valueWord c.low,
     valueWord c.high, valueWord c.orderSlots, valueWord c.suspendLimit, valueWord c.allowance,
     valueWord ((c.relocLevel.map (·.val + 1)).getD 0), valueWord (s.freeCount c),
     valueWord (flagCode r.reclaim.active), valueWord r.reclaim.search.code,
     valueWord (s.freeCount c), valueWord (s.countUnits c .erasing), valueWord (s.countUnits c .reclaim),
     valueWord (s.countUnits c .unknown), valueWord (s.countUnits c .retired),
     valueWord r.reclaim.slots.length] ++ r.reclaim.slots.flatMap orderSlotWords ++
    [valueWord (s.groupSpaceEntries g), valueWord (s.groupWaiters g)]

/-- The current operation as one item: its kind in byte 0 and its unit in bytes 2 and 3, as a queue entry (R189; log entry 26). -/
def operationWord : Option Operation → Word
  | some op => itemWord op.code 0 op.unit
  | none => absentWord

/-- The DIE section of GET-STATUS: the values of R135 and R148. The current operation's kind and unit are one item, so that with 4 queue
entries and 32 tags the section takes the 64 words of its slot (R189; log entry 26). The tick count of a window that is not OPEN is 0 in its item
(DEDUCED, log entry 40). DESIGN CHOICE (log entry 37): the die's tags stand in the
order in which their entries were made. -/
def State.dieWords (s : State) (d : DieId) : List Word :=
  let r := s.dies.get d
  let tags := s.link.tags.filter (fun e => decide (e.die = d))
  [valueWord r.state.code] ++
  (List.finRange 7).map (fun l =>
    itemWord (flagCode (s.oldestEligible d l).isSome) 0 (r.backlogs.get l).length) ++
  r.passOver.items.map (itemWord 0 0 ·) ++
  [valueWord r.queue.length] ++ r.queue.map (fun e => itemWord e.kind.code 0 e.unit) ++
  [valueWord r.waiting.length, operationWord r.current, optionWord r.programs, optionWord r.opTimer,
   optionWord r.heldErase] ++
  (List.finRange 4).map (fun p =>
    itemWord (r.windows.get p).code (flagCode (r.lapsed.get p))
      (match r.windows.get p with | .opened n => n | _ => 0)) ++
  [valueWord tags.length] ++
  tags.map (fun e => itemWord e.tag.toNat (e.kind.code + 16 * e.phase.code) e.unit) ++
  [optionWord ((s.link.lastFail.get d).map (·.1.code)),
   optionWord ((s.link.lastFail.get d).map (·.2.code))]

/-- A slot class's code, as the record headers carry it (R189). -/
def SlotClass.code : SlotClass → Nat
  | .reply => 0
  | .notice => 1

/-- The PORT section of GET-STATUS (R164, R107, R81), and after it the slot classes, since R150 has GET-STATUS report every field of the
port record and no list gives them a place (log entry 25). The code of the interrupt level, 1 asserted and 0 deasserted, is the model's
(DEDUCED, log entry 9). -/
def State.portWords (s : State) (p : MasterId) : List Word :=
  let m := s.masters.get p
  [valueWord m.state.code, valueWord m.cause.code] ++ s.ringWords (.master p) ++
  [valueWord m.ring.replyHoldings, valueWord m.ring.noticeHoldings, valueWord m.inactivity,
   valueWord m.ring.refusals, valueWord (flagCode (s.interrupt (.master p)))] ++
  bitmapWords 8 (fun n => match asFin 256 n with
    | some st => decide ((s.streams.get st).port = some p)
    | none => false) ++
  [valueWord (s.reclaim.notices.get p).length, valueWord (s.credit.shares.get p),
   valueWord (s.credit.waitList.filter (fun e => decide (e.ctx.port = p))).length] ++
  packedWords (m.ring.classes.items.map (·.code))

/-- The section of GET-STATUS that a section code and an index name; `none` where either is out of range (R182). -/
def State.statusWords (s : State) (sec idx : Nat) : Option (List Word) :=
  match sec with
  | 0 => some s.deviceWords
  | 1 => (asFin 8 idx).map s.groupWords
  | 2 => (asFin 32 idx).map s.dieWords
  | 3 => (asFin 4 idx).map s.portWords
  | _ => none

/-- The body of a reply that reports tables: the number of address list words in bytes 8 and 9 (R189). -/
def countBody (words : List Word) : List Byte := leBytes 2 (min 64 words.length)

/-! ## Answers -/

/-- Write the reply to a request and release its reservation (R153, R154, R156). -/
def State.reply (s : State) (p : PortId) (slot : ReplySlot) (kind : Nat) (tag : Half) (status : Status)
    (body : List Byte) (words : List Word) : State :=
  s.modRing p (fun r => r.writeReply slot (replyRecord kind tag status body) words)

/-- Answer a request that was taken, with a body and address list words. -/
def Request.answer (r : Request) (s : State) (status : Status) (body : List Byte := [])
    (words : List Word := []) : State :=
  s.reply r.port r.slot r.kind r.tag status body words

/-- Offer a notice to port M: it is written at once while M's notice holdings are below 8, and dropped otherwise
(R183). -/
def State.offerManagement (s : State) (kind : Nat) (body : List Byte) : State :=
  if s.mport.noticeHoldings < Config.noticeLimit then
    s.modRing .management (fun r => r.writeRecord .notice (noticeRecord kind body) [])
  else s.flagOverrun

end Sys2Proof.Machine
end

