-- ==== Sys2Proof/Machine/Units.lean ====
section
/-!
DEFINITION. The Unit Table's shared operations (chapter 1) with the reports they make: wake events and activity of a
group (R84, R92), the background queue a unit is handed to (R113), the young list (R38, R39), sealing (R5),
program failure (R6), the empty-unit check (R9), and the ways into RECLAIM, ERASING, UNKNOWN, RETIRED and FREE.
-/

namespace Sys2Proof.Machine

/-! ## Reports to the Reclaim Controller -/

/-- A search record with no search running: IDLE, with the fields that are present while SEARCHING absent (R83). -/
def ReclaimRecord.toIdle (r : ReclaimRecord) : ReclaimRecord :=
  { r with search := .idle, cursor := none, candidate := none, chosen := none, discard := false }

/-- A search in progress runs to its end, and its result is discarded (R84, R85). -/
def ReclaimRecord.stop (r : ReclaimRecord) : ReclaimRecord :=
  match r.search with
  | .searching => { r with discard := true }
  | .waiting => r
  | .idle => r

/-- A group becomes inactive: a search in progress has its result discarded, and a WAITING group goes to IDLE (R84). -/
def ReclaimRecord.deactivate (r : ReclaimRecord) : ReclaimRecord :=
  match r.search with
  | .searching => { r with active := false, discard := true }
  | .waiting => { r.toIdle with active := false }
  | .idle => { r with active := false }

/-- A wake event: a WAITING group goes to IDLE, and a SEARCHING one has its missed-change flag set (R90, R92). -/
def ReclaimRecord.wake (r : ReclaimRecord) : ReclaimRecord :=
  match r.search with
  | .waiting => r.toIdle
  | .searching => { r with missedChange := true }
  | .idle => r

/-- A wake event for one group. -/
def State.wakeGroup (s : State) (g : GroupId) : State := s.modReclaim g ReclaimRecord.wake

/-- A wake event for the group of a unit, if it lies in one. -/
def State.wakeUnit (s : State) (u : Nat) : State :=
  match s.groupOfUnit u with
  | some g => s.wakeGroup g
  | none => s

/-- A wake event for every group. -/
def State.wakeAll (s : State) : State :=
  { s with groups := s.groups.map (Option.map (fun r => { r with reclaim := r.reclaim.wake })) }

/-- The group's new activity under the tests of R84. -/
def nextActivity (active : Bool) (free sum low high : Nat) : Bool :=
  if active then decide (sum < high) else decide (free ≤ low ∧ sum < high)

/-- Evaluate a group's activity (R84). -/
def State.evaluateActivity (s : State) (g : GroupId) : State :=
  match s.groups.get g with
  | none => s
  | some r =>
    let free := s.freeCount r.config
    let sum := free + s.countUnits r.config .erasing + s.countUnits r.config .reclaim
    let now := nextActivity r.reclaim.active free sum r.config.low r.config.high
    s.modReclaim g (fun k => if now then { k with active := true } else k.deactivate)

/-- Evaluate the activity of the group of a unit, after one of the counts of R84 changed. -/
def State.reportCounts (s : State) (u : Nat) : State :=
  match s.groupOfUnit u with
  | some g => s.evaluateActivity g
  | none => s

/-! ## The background queue (R113) -/

/-- The entry made for a unit: an ERASE if it is ERASING, a CHECK if it is UNKNOWN. -/
def State.backgroundEntry (s : State) (u : Nat) : BackgroundEntry :=
  ⟨if s.unitState u = some .erasing then .erase else .check, u⟩

/-- Take the waiting unit with the lowest number into the queue, when the queue is open and has a place. -/
def State.fillOne (s : State) (d : DieId) : State :=
  let r := s.dies.get d
  if s.queueOpen d && decide (r.queue.length < Config.backgroundLimit) then
    match r.waiting with
    | [] => s
    | u :: rest => s.modDie d (fun r => { r with
        queue := r.queue ++ [s.backgroundEntry u]
        waiting := rest })
  else s

/-- Fill the queue from the waiting units while places and waiting units remain (R113). -/
def State.fillQueue (s : State) (d : DieId) : State :=
  (((s.fillOne d).fillOne d).fillOne d).fillOne d

/-- Add a unit to its die's waiting units. -/
def State.addWaiting (s : State) (u : Nat) : State :=
  s.modDie (s.dieOf u) (fun r => { r with waiting := insertNat u r.waiting })

/-- Take a unit out of its die's background queue and waiting units (R21). -/
def State.dropBackground (s : State) (u : Nat) : State :=
  s.modDie (s.dieOf u) (fun r => { r with
    queue := r.queue.filter (fun e => decide (e.unit ≠ u))
    waiting := r.waiting.erase u })

/-- An ERASING unit becomes UNKNOWN: its suspend count becomes absent and its counts are kept (R14). -/
def UnitRecord.toUnknown (r : UnitRecord) : UnitRecord :=
  if r.state = .erasing then { r with state := .unknown, suspendCount := none } else r

/-- Hand a unit in ERASING or UNKNOWN to its die's background queue (R12, R113). While PLW_N is asserted an
ERASING unit becomes UNKNOWN as it is handed over (R128). DESIGN CHOICE (log entry 42): where a place that an arbitration freed is not
filled yet, the units that wait already take the free places before the unit that is handed over, whatever its number. -/
def State.handBackground (s : State) (u : Nat) : State :=
  let s := if s.plwAsserted then s.modUnit u UnitRecord.toUnknown else s
  ((s.fillQueue (s.dieOf u)).addWaiting u).fillQueue (s.dieOf u)

/-! ## The young list (R38, R39) -/

/-- Take a unit out of its stream's young list. -/
def State.leaveYoung (s : State) (u : Nat) : State :=
  match s.youngOwner u with
  | some st => s.modStream st (fun r => { r with young := r.young.erase u })
  | none => s

/-- Push a sealed unit onto the front of its stream's young list while the stream is bound; a ninth unit, the
oldest, is dropped and reported (R38). -/
def State.pushYoung (s : State) (st : StreamId) (u : Nat) : State :=
  let r := s.streams.get st
  if r.state.bound then
    let young := u :: r.young
    let s := s.modStream st (fun r => { r with young := young.take Config.youngLimit })
    match young[Config.youngLimit]? with
    | some dropped => s.wakeUnit dropped
    | none => s
  else s

/-- Empty a stream's young list and report it to the group of each removed unit (R27, R31). -/
def State.emptyYoung (s : State) (st : StreamId) : State :=
  let young := (s.streams.get st).young
  let s := s.modStream st (fun r => { r with young := [] })
  young.foldl State.wakeUnit s

/-! ## Transitions -/

/-- The fields on entry to ERASING (R12). -/
def UnitRecord.toErasing (r : UnitRecord) : UnitRecord :=
  { r with
    state := .erasing
    tenant := none
    owner := none
    sealEpoch := none
    orderSlot := none
    hold := .noHold
    valid := 0
    short := false
    suspendCount := some 0 }

/-- The fields on entry to RETIRED (R12). -/
def UnitRecord.toRetired (r : UnitRecord) : UnitRecord :=
  { r with
    state := .retired
    tenant := none
    owner := none
    sealEpoch := none
    orderSlot := none
    hold := .noHold
    valid := 0
    suspendCount := none }

/-- The fields on entry to FREE with an erase count (R13, R15, R21). -/
def UnitRecord.toFree (r : UnitRecord) (eraseCount : Nat) : UnitRecord :=
  { r with
    state := .free
    tenant := none
    owner := none
    writePointer := 0
    programmed := 0
    valid := 0
    eraseCount := eraseCount
    sealEpoch := none
    hold := .noHold
    short := false
    retirePending := false
    orderSlot := none
    suspendCount := none }

/-- A unit enters ERASING and is handed to its die's background queue (R12). -/
def State.enterErasing (s : State) (u : Nat) : State :=
  (((s.leaveYoung u).modUnit u UnitRecord.toErasing).handBackground u).reportCounts u

/-- A unit enters RETIRED (R12). -/
def State.enterRetired (s : State) (u : Nat) : State :=
  ((s.leaveYoung u).modUnit u UnitRecord.toRetired).reportCounts u

/-- A unit enters FREE with an erase count and joins its die's free list (R13, R15, R16). -/
def State.enterFree (s : State) (u : Nat) (eraseCount : Nat) : State :=
  ((s.modUnit u (fun r => r.toFree eraseCount)).insertFree u).reportCounts u

/-- A unit leaves for RETIRED if it is retire-pending, and for ERASING otherwise (R9, R11). -/
def State.leaveForErase (s : State) (u : Nat) : State :=
  match s.unit? u with
  | none => s
  | some r => if r.retirePending then s.enterRetired u else s.enterErasing u

/-- The empty-unit check: an empty, settled SEALED unit with hold NONE leaves SEALED at once (R9). -/
def State.checkEmpty (s : State) (u : Nat) : State :=
  match s.unit? u with
  | none => s
  | some r => if r.leavesSealed then s.leaveForErase u else s

/-- Seal an OPEN unit and report the seal (R5): SEALED at the current epoch, short if the write pointer is below
P, pushed onto the young list; then the empty-unit check. -/
def State.sealUnit (s : State) (u : Nat) : State :=
  match s.unit? u with
  | none => s
  | some r =>
    let s := s.modUnit u (fun r => { r with
      state := .sealed
      sealEpoch := some s.time.epoch
      short := decide (r.writePointer < s.pages) })
    let s := match r.owner with
      | some st => s.pushYoung st u
      | none => s
    (s.wakeUnit u).checkEmpty u

/-- A program failure at page `p` of a unit (R6): the write pointer becomes p + 1 and the retire-pending flag is
set; an OPEN unit is sealed without a report to the Stream Table; the empty-unit check is made at once. -/
def State.failUnit (s : State) (u p : Nat) : State :=
  let s := s.modUnit u (fun r =>
    { r with
      state := .sealed
      writePointer := p + 1
      retirePending := true
      sealEpoch := if r.state = .opened then some s.time.epoch else r.sealEpoch
      short := r.short || decide (p + 1 < s.pages) })
  (s.wakeUnit u).checkEmpty u

/-- A RECLAIM unit returns to SEALED: its order slot becomes absent and its seal epoch is kept; then the empty-unit
check (R10). -/
def State.returnToSealed (s : State) (u : Nat) : State :=
  let s := s.modUnit u (fun r => { r with state := .sealed, orderSlot := none })
  ((s.wakeUnit u).reportCounts u).checkEmpty u

/-- The condition under which the Unit Table moves a unit to RECLAIM (R10). -/
def UnitRecord.movable (r : UnitRecord) : Bool :=
  decide (r.state = .sealed) && r.settled && decide (r.hold = .noHold)

/-- Move a SEALED unit to RECLAIM in an order slot (R10). -/
def State.moveToReclaim (s : State) (u : Nat) (k : OrderSlotId) : State :=
  (s.modUnit u (fun r => { r with state := .reclaim, orderSlot := some k })).reportCounts u

/-- Whether a record that replaces a unit's returns the unit's hold to NONE (R17, R19). -/
def UnitRecord.liftsHold (old new : UnitRecord) : Bool := decide (old.hold ≠ .noHold ∧ new.hold = .noHold)

/-- A record replaces a unit's (R21), with the wake event of the unit's group where it returns the unit's hold to NONE (R92). -/
def State.replaceUnit (s : State) (u : Nat) (r : UnitRecord) : State :=
  match s.unit? u with
  | none => s
  | some old =>
    let s := s.modUnit u (fun _ => r)
    if old.liftsHold r then s.wakeUnit u else s

/-- Every ERASING unit of a list becomes UNKNOWN (R14), and the activity of its group is evaluated. -/
def State.abandonUnits (s : State) (us : List Nat) : State :=
  us.foldl (fun s u => (s.modUnit u UnitRecord.toUnknown).reportCounts u) s

/-- The unit numbers of a die, ascending (R2). -/
def State.dieUnits (s : State) (d : DieId) : List Nat :=
  if d.val < s.dieCount then (List.range s.bpd).map (· + d.val * s.bpd) else []

/-- The ERASING units of a die, ascending. -/
def State.erasingUnits (s : State) (d : DieId) : List Nat :=
  (s.dieUnits d).filter (fun u => decide (s.unitState u = some .erasing))

/-- The valid count falls by a count, stopping at 0 (R7). -/
def State.lowerValid (s : State) (u n : Nat) : State :=
  s.modUnit u (fun r => { r with valid := r.valid - n })

end Sys2Proof.Machine
end

