-- ==== Sys2Proof/Machine/LinkOps.lean ====
section
/-!
DEFINITION. The Channel Link Unit's shared operations (chapter 7): handing a descriptor over with a tag (R138), the list of
waiting dies (R140), matching a completion (R143), and the releases of R144, R145 and R146.
-/

namespace Sys2Proof.Machine

/-- A descriptor queue place and a tag are both free (R138, R140). -/
def Link.hasPlace (l : Link) : Bool :=
  decide (l.queue.length < Config.linkLimit) && decide (l.tags.length < Config.linkLimit)

/-- Whether a tag value is outstanding (R139). -/
def Link.outstanding (l : Link) (t : Byte) : Bool := l.tags.any (fun e => decide (e.tag = t))

/-- The tag assigned next: the first value at or after the cursor, ascending and wrapping, that is not outstanding
(R138). -/
def Link.nextTag (l : Link) : Byte :=
  (((List.range 256).map (fun k => l.cursor + BitVec.ofNat 8 k)).find? (fun t => !l.outstanding t)).getD
    l.cursor

/-- Whether a die may hand a descriptor over now: a place and a tag are free, and either they were offered to this die
or no die waits for them (R115, R140; log entry 14). -/
def State.mayHandOver (s : State) (offered : Bool) : Bool :=
  s.link.hasPlace && (offered || s.link.waiting.isEmpty)

/-- A die joins the end of the list of waiting dies, in which it appears at most once (R140). -/
def State.joinWaiting (s : State) (d : DieId) : State :=
  if s.link.waiting.contains d then s
  else { s with link := { s.link with waiting := s.link.waiting ++ [d] } }

/-- The buffer handle of a page pool entry (R44). -/
def State.handleOf (s : State) (k : PageKey) : Word :=
  ((s.pool.find? (fun e => decide (e.key = k))).map (·.handle)).getD 0

/-- Hand a descriptor over (R138): a tag is assigned, its entry made with phase QUEUED, the descriptor placed at the end of
the queue and the cursor moved past the tag. A SUSPEND and a RESUME name no block (R137, R191). -/
def State.handOver (s : State) (kind : DescriptorKind) (d : DieId) (u : Nat)
    (page : Option PageKey) : State :=
  let tag := s.link.nextTag
  let block := match kind with
    | .suspend => 0
    | .resume => 0
    | _ => s.blockOf u
  let desc : Descriptor :=
    ⟨kind, d, tag, block, (page.map (·.index)).getD 0, (page.map s.handleOf).getD 0⟩
  let entry : TagEntry := ⟨tag, d, kind, u, page, .queued, false⟩
  { s with link := { s.link with
      queue := s.link.queue ++ [desc]
      tags := s.link.tags ++ [entry]
      cursor := tag + 1 } }

/-- Release a tag: its entry leaves the table, and its descriptor the queue if it was not sent (R139, R146). -/
def Link.release (l : Link) (t : Byte) : Link :=
  { l with
    tags := l.tags.filter (fun e => decide (e.tag ≠ t))
    queue := l.queue.filter (fun e => decide (e.tag ≠ t)) }

/-- Whether a tag entry steers the erase of a unit on a die: a SUSPEND or RESUME that names it (R145). -/
def TagEntry.steers (e : TagEntry) (d : DieId) (u : Nat) : Bool :=
  decide (e.die = d) && decide (e.unit = u) && (decide (e.kind = .suspend) || decide (e.kind = .resume)) && !e.ended

/-- The end of an erase on the link: each SUSPEND or RESUME of it still QUEUED is removed unsent and its tag released; one
that is SENT stays outstanding, to be answered without effect (R144, R145, R146). -/
def Link.endErase (l : Link) (d : DieId) (u : Nat) : Link :=
  let gone := (l.tags.filter (fun e => e.steers d u && decide (e.phase = .queued))).map (·.tag)
  { l with
    tags := (l.tags.filter (fun e => decide (e.tag ∉ gone))).map
      (fun e => if e.steers d u then { e with ended := true } else e)
    queue := l.queue.filter (fun e => decide (e.tag ∉ gone)) }

/-- The release asked for at an abandonment or a failed resumption: the erase's own tag is released, and the erase ends on
the link (R146). -/
def Link.releaseErase (l : Link) (d : DieId) (u : Nat) : Link :=
  let own := (l.tags.filter (fun e =>
    decide (e.die = d) && decide (e.unit = u) && decide (e.kind = .erase))).map (·.tag)
  (own.foldl Link.release l).endErase d u

/-- The release at a fault: every tag of the die, its unsent descriptors and its place in the list of waiting dies
(R146). -/
def Link.releaseDie (l : Link) (d : DieId) : Link :=
  { l with
    tags := l.tags.filter (fun e => decide (e.die ≠ d))
    queue := l.queue.filter (fun e => decide (e.die ≠ d))
    waiting := l.waiting.erase d }

/-! ## Completions -/

/-- Whether a descriptor kind allows a completion kind code (R143): DONE 0, FAIL 1, SUSPENDED 2, BLANK 3, NOT_BLANK 4. -/
def DescriptorKind.allows : DescriptorKind → Nat → Bool
  | .program, k => decide (k ≤ 1)
  | .erase, k => decide (k ≤ 1)
  | .check, k => decide (k = 1 ∨ k = 3 ∨ k = 4)
  | .suspend, k => decide (k ≤ 2)
  | .resume, k => decide (k ≤ 1)

/-- The outcome of the tests of R143 on a completion: the matched entry, or the reason of the first test that failed with
the entry, if there is one. -/
inductive Match where
  | matched (e : TagEntry)
  | stray (reason : StrayReason) (e : Option TagEntry)
deriving DecidableEq, Repr

/-- Test a completion against the outstanding-tag table, in the order of R143. -/
def State.matchCompletion (s : State) (c : Completion) : Match :=
  match s.link.tags.find? (fun e => decide (e.tag = c.tag)) with
  | none => .stray .unknownTag none
  | some e =>
    if e.phase = .queued then .stray .notSent (some e)
    else if c.die.toNat ≠ e.die.val then .stray .wrongDie (some e)
    else if e.kind.allows c.kind.toNat then .matched e
    else .stray .wrongKind (some e)

/-- The cause of a FAIL: ABORTED for 1, MEDIA for every other byte (R142). -/
def failCauseOf (c : Completion) : FailCause := if c.cause = 1 then .aborted else .media

/-- Take a matched completion off the table: its tag is released, and a FAIL is recorded for the die (R144, R148). -/
def State.takeMatched (s : State) (c : Completion) (e : TagEntry) : State :=
  let link := s.link.release e.tag
  let link := if c.kind = 1 then
      { link with lastFail := link.lastFail.set e.die (some (e.kind, failCauseOf c)) }
    else link
  { s with link := link }

/-- A completion command whose completion is matched to an entry of one descriptor kind and carries one of the completion kinds
given; otherwise the command's event has not come about and nothing changes (log entry 4). -/
def State.onCompletion (s : State) (c : Completion) (kind : DescriptorKind) (kinds : List Nat)
    (act : TagEntry → State → State) : Result :=
  match s.matchCompletion c with
  | .stray _ _ => .next s
  | .matched e =>
    if e.kind = kind ∧ c.kind.toNat ∈ kinds then .next (act e (s.takeMatched c e)) else .next s

end Sys2Proof.Machine
end

