-- ==== Sys2Proof/Machine/DieOps.lean ====
section
/-!
DEFINITION. The Die Scheduler's shared operations (chapter 6): read windows granted (R125), program grants (R117), the issue of
operations (R116), suspension and resumption (R121, R123, R124), abandonment (R128), and a die at the end of its erase (R119,
R144).
-/

namespace Sys2Proof.Machine

/-! ## Read windows -/

/-- Grant the WAITING window of one port on a die: the GRANTED reply is written and the entry becomes OPEN with T_window ticks
(R125). -/
def State.grantWindow (s : State) (d : DieId) (p : MasterId) : State :=
  match (s.dies.get d).windows.get p with
  | .waiting pl =>
    let s := s.modDie d (fun r => { r with windows := r.windows.set p (.opened s.windowTicks) })
    s.reply (.master p) pl.slot kindReadWindow pl.tag .granted [] []
  | _ => s

/-- Grant every WAITING window of a die, in one event (R125). -/
def State.grantWindows (s : State) (d : DieId) : State :=
  (List.finRange 4).foldl (fun s p => s.grantWindow d p) s

/-! ## Program grants (R117) -/

/-- The levels with an eligible page, highest first. -/
def State.eligibleLevels (s : State) (d : DieId) : List Level :=
  ((List.finRange 7).filter (fun l => (s.oldestEligible d l).isSome)).reverse

/-- The level a program grant chooses: the highest eligible level whose pass-over count is 16, else the highest eligible
level (R117). -/
def State.grantLevel (s : State) (d : DieId) : Option Level :=
  let ls := s.eligibleLevels d
  match ls.find? (fun l => decide ((s.dies.get d).passOver.get l = Config.passOverLimit)) with
  | some l => some l
  | none => ls.head?

/-- The level and page a program grant chooses (R117). -/
def State.grantChoice (s : State) (d : DieId) : Option (Level × PageKey) :=
  match s.grantLevel d with
  | none => none
  | some l => (s.oldestEligible d l).map (fun k => (l, k))

/-- The pass-over counts after a grant of a level (R117). -/
def State.passOverAfter (s : State) (d : DieId) (l : Level) : Table 7 Nat :=
  Table.tabulate (fun m =>
    if m = l then 0
    else if (s.oldestEligible d m).isSome then
      min Config.passOverLimit ((s.dies.get d).passOver.get m + 1)
    else 0)

/-- Take the granted page out of its backlog, set the pass-over counts and hand its PROGRAM over; the operation timer starts
(R116, R117, R130). -/
def State.issuePage (s : State) (d : DieId) (l : Level) (k : PageKey) : State :=
  let counts := s.passOverAfter d l
  let s := s.modDie d (fun r => { r with
    backlogs := r.backlogs.modify l (·.erase k)
    passOver := counts
    opTimer := some s.opTicks })
  s.handOver .program d k.unit (some k)

/-- Issue a granted program from IDLE: the die goes to PROGRAM (R116). -/
def State.issueProgram (s : State) (d : DieId) (l : Level) (k : PageKey) : State :=
  (s.issuePage d l k).modDie d (fun r => { r with
    state := .program
    current := some (.program k) })

/-- Issue a granted program during a suspension: it becomes the suspended program and is counted (R123). -/
def State.issueSuspended (s : State) (d : DieId) (l : Level) (k : PageKey) : State :=
  (s.issuePage d l k).modDie d (fun r => { r with
    suspendedProgram := some k
    programs := some (r.programs.getD 0 + 1) })

/-- Issue the head entry of the background queue: the die goes to ERASE or CHECK and the operation timer starts (R116,
R130). DESIGN CHOICE (log entry 42): the place it frees is filled by QUEUE_FILL. -/
def State.issueBackground (s : State) (d : DieId) (e : BackgroundEntry) : State :=
  let ticks := s.opTicks
  let s := s.modDie d (fun r => { r with
    queue := r.queue.tail
    opTimer := some ticks
    state := match e.kind with
      | .erase => .erase
      | .check => .check
    current := match e.kind with
      | .erase => some (.erase e.unit)
      | .check => some (.check e.unit) })
  match e.kind with
  | .erase => s.handOver .erase d e.unit none
  | .check => s.handOver .check d e.unit none

/-! ## Arbitration (R116) -/

/-- What an arbitration chooses. -/
inductive Choice where
  | background (e : BackgroundEntry)
  | program (l : Level) (k : PageKey)
  | nothing
deriving DecidableEq, Repr

/-- The head of the background queue, where the conditions that orders 1 and 3 of R116 share hold: no read window OPEN, PLW_N
deasserted and the device RUNNING. -/
def State.startable (s : State) (d : DieId) : Option BackgroundEntry :=
  let r := s.dies.get d
  if !r.windowOpen && !s.plwAsserted && s.isRunning then r.queue.head? else none

/-- The choice of an arbitration, in the order of R116. -/
def State.arbitration (s : State) (d : DieId) : Choice :=
  match s.startable d with
  | some e =>
    if s.urgent d then .background e
    else match s.grantChoice d with
      | some (l, k) => .program l k
      | none => .background e
  | none =>
    match s.grantChoice d with
    | some (l, k) => .program l k
    | none => .nothing

/-- An IDLE die arbitrates and issues its choice if it may hand a descriptor over; if it may not, it keeps its state and waits
(R115, R116, R140). -/
def State.arbitrateDie (s : State) (d : DieId) (offered : Bool) : State :=
  match s.arbitration d with
  | .nothing => s
  | .program l k => if s.mayHandOver offered then s.issueProgram d l k else s.joinWaiting d
  | .background e => if s.mayHandOver offered then s.issueBackground d e else s.joinWaiting d

/-! ## Suspension and resumption -/

/-- The conditions on a suspension to serve (R121). -/
def State.maySuspend (s : State) (d : DieId) (u : Nat) : Bool :=
  decide ((((s.unit? u).bind (·.suspendCount)).getD 0) < s.suspendLimit d) && !s.urgent d &&
  !s.plwAsserted && s.isRunning

/-- Hand a SUSPEND with purpose SERVE over: the suspend count rises by 1 and the die goes to SUSPENDING (R121). -/
def State.suspendToServe (s : State) (d : DieId) (u : Nat) : State :=
  let s := s.modUnit u (fun r => { r with suspendCount := some (r.suspendCount.getD 0 + 1) })
  let s := s.modDie d (fun r => { r with state := .suspending, purpose := some .serve })
  s.handOver .suspend d u none

/-- Hand a SUSPEND with purpose ABANDON over: the suspend count is not raised (R128). -/
def State.suspendToAbandon (s : State) (d : DieId) (u : Nat) : State :=
  let s := s.modDie d (fun r => { r with state := .suspending, purpose := some .abandon })
  s.handOver .suspend d u none

/-- A trigger reaches a die: in ERASE with no abandonment pending, a suspension to serve is requested when R121 allows, and
waits for a place when none is free. -/
def State.trigger (s : State) (d : DieId) (offered : Bool) : State :=
  let r := s.dies.get d
  if r.state = .erase ∧ r.purpose = none then
    match r.erasingUnit with
    | none => s
    | some u =>
      if s.maySuspend d u then
        if s.mayHandOver offered then s.suspendToServe d u else s.joinWaiting d
      else s
  else s

/-- Whether a SUSPENDED die issues a program (R123). -/
def State.servesProgram (s : State) (d : DieId) : Bool :=
  let r := s.dies.get d
  decide (r.suspendedProgram = none) && decide (r.programs.getD 0 < s.allowance d) &&
  s.hasEligible d && !s.urgent d && s.isRunning

/-- Whether a SUSPENDED die resumes its erase (R124). -/
def State.resumes (s : State) (d : DieId) : Bool :=
  let r := s.dies.get d
  decide (r.suspendedProgram = none) && !r.windowOpen &&
  (decide (s.allowance d ≤ r.programs.getD 0) || !s.hasEligible d || s.urgent d || !s.isRunning)

/-- Hand a RESUME over: the die returns to ERASE, its timer running on from the held erase ticks (R124). -/
def State.resumeErase (s : State) (d : DieId) (u : Nat) : State :=
  let s := s.modDie d (fun r => { r with
    state := .erase
    purpose := none
    programs := none
    opTimer := r.heldErase
    heldErase := none })
  s.handOver .resume d u none

/-- A SUSPENDED die issues a program or resumes, as R123 and R124 give, or waits for a place to do so. -/
def State.serveDie (s : State) (d : DieId) (offered : Bool) : State :=
  let r := s.dies.get d
  if r.state = .suspended ∧ r.purpose = some .serve then
    if s.servesProgram d then
      match s.grantChoice d with
      | none => s
      | some (l, k) => if s.mayHandOver offered then s.issueSuspended d l k else s.joinWaiting d
    else if s.resumes d then
      match r.erasingUnit with
      | none => s
      | some u => if s.mayHandOver offered then s.resumeErase d u else s.joinWaiting d
    else s
  else s

/-- Every SUSPENDED die makes its decision again, in ascending die number (R123, R124). -/
def State.serveSuspended (s : State) : State :=
  (s.dies.indices (fun r => decide (r.state = .suspended))).foldl (fun s d => s.serveDie d false) s

/-! ## The end of an erase -/

/-- The die once its erase has ended by a completion or a failed resumption: from SUSPENDED with a program outstanding that
program becomes the current operation and its timer runs on; otherwise the timer stops and the die is IDLE. WAITING windows
are granted (R119, R122, R144). -/
def State.dieAfterErase (s : State) (d : DieId) : State :=
  let s := s.modDie d (fun r =>
    match r.suspendedProgram with
    | some k => { r with
        state := .program
        current := some (.program k)
        suspendedProgram := none
        purpose := none
        programs := none
        heldErase := none }
    | none => { r with
        state := .idle
        current := none
        purpose := none
        programs := none
        opTimer := none
        heldErase := none })
  s.grantWindows d

/-- Abandon the erase of a die (R128): its unit goes to UNKNOWN among the waiting units, its timer is discarded, its tag
released, and the die goes to PROGRAM or IDLE with its WAITING windows granted. -/
def State.abandonErase (s : State) (d : DieId) : State :=
  match (s.dies.get d).erasingUnit with
  | none => s
  | some u =>
    let s := s.modUnit u UnitRecord.toUnknown
    let s := { s with link := s.link.releaseErase d u }
    ((s.dieAfterErase d).handBackground u).reportCounts u

/-- An erase ends DONE or FAIL for its unit (R13): FREE with the erase count raised, saturating, or RETIRED. -/
def State.eraseOutcome (s : State) (u : Nat) (done : Bool) : State :=
  match s.unit? u with
  | none => s
  | some r =>
    if done then s.enterFree u (min Config.count16 (r.eraseCount + 1)) else s.enterRetired u

end Sys2Proof.Machine
end

