-- ==== Sys2Proof/Machine/PlaceOps.lean ====
section
/-!
DEFINITION. The Placement Engine's shared operations (chapter 3): profiles taking effect (R33, R35), sealing slots (R57,
R58), opening a unit and placing a page (R49 to R52), space wait and its examination (R54, R55), re-placement (R65), and the
end of a page's program (R60, R61, R63, R64).
-/

namespace Sys2Proof.Machine

/-! ## Waiting work is called for again (R55) -/

/-- Call for the SPACE entries of the streams that satisfy `p` to be examined. -/
def State.callSpace (s : State) (p : StreamId → Bool) : State :=
  { s with credit := { s.credit with
      waitList := s.credit.waitList.map (fun e =>
        if e.reason = .space ∧ p e.stream then { e with examine := true } else e) } }

/-- Call for the waiting re-placement lists of the streams that satisfy `p` to be served again. -/
def State.callReplace (s : State) (p : StreamId → Bool) : State :=
  { s with waiters := s.waiters.map (fun w => if p w.stream then { w with examine := true } else w) }

/-- Call for both. -/
def State.callWork (s : State) (p : StreamId → Bool) : State := (s.callReplace p).callSpace p

/-! ## Profiles -/

/-- The position of the lowest set bit of a die mask (R33). -/
def lowestPosition (mask : Byte) : Position :=
  ((List.finRange 8).find? (fun q => mask.getLsbD q.val)).getD 0

/-- A profile takes effect (R33): it is in force, no profile is pending, and both cursors go to the lowest set bit of its mask.
The stream's waiting work is called for (R55). -/
def State.takeProfile (s : State) (st : StreamId) (p : Profile) : State :=
  let s := s.modStream st (fun r => { r with
    profile := p
    pendingProfile := none
    packCursor := lowestPosition p.mask
    spreadCursor := lowestPosition p.mask })
  s.callWork (fun x => decide (x = st))

/-- A pending profile takes effect once no open slot holds a unit (R35, R48). -/
def State.applyPending (s : State) (st : StreamId) : State :=
  let r := s.streams.get st
  match r.pendingProfile with
  | some p => if r.noOpenUnit then s.takeProfile st p else s
  | none => s

/-! ## Sealing slots -/

/-- Empty one open slot. -/
def State.emptySlot (s : State) (st : StreamId) (q : Position) : State :=
  s.modStream st (fun r => { r with slots := r.slots.set q none })

/-- Seal the unit in an open slot, if it holds one; the slot empties, and a pending profile takes effect if it was the last
(R5, R35). -/
def State.sealSlot (s : State) (st : StreamId) (q : Position) : State :=
  match (s.streams.get st).slots.get q with
  | none => s
  | some o => ((s.emptySlot st q).sealUnit o.unit).applyPending st

/-- Make the seal that a tick has made due on a slot, if there is one (R57). -/
def State.dueSeal (s : State) (st : StreamId) (q : Position) : State :=
  match (s.streams.get st).slots.get q with
  | some o => if o.sealDue then s.sealSlot st q else s
  | none => s

/-- Make every seal that a tick has made due on a stream's slots, in ascending position order, before a placement that the tick preceded
(R57; log entry 41). -/
def State.settleSlots (s : State) (st : StreamId) : State := (List.finRange 8).foldl (fun s q => s.dueSeal st q) s

/-- Short-seal every open unit of a stream, in ascending position order (R58). -/
def State.sealAllSlots (s : State) (st : StreamId) : State :=
  ((List.finRange 8).foldl (fun s q => s.sealSlot st q) s).applyPending st

/-! ## Placing a page -/

/-- The three kinds of placement (R49). -/
inductive PlaceKind where
  | freshHost
  | freshReloc
  | replacement
deriving DecidableEq, Repr

/-- The fresh placement of a class. -/
def freshKind : WriteClass → PlaceKind
  | .host => .freshHost
  | .reloc => .freshReloc

/-- Whether a unit may be opened on a die for a kind of placement (R51). -/
def State.mayOpen (s : State) (c : GroupConfig) (d : DieId) (k : PlaceKind) : Bool :=
  !(s.freeLists.get d).isEmpty &&
  match k with
  | .freshHost => decide (c.reserve < s.freeCount c)
  | .freshReloc => true
  | .replacement => true

/-- Whether a position can take a page (R49): its die is not FAULTED, and its slot holds a unit or one may be opened. -/
def State.canTake (s : State) (st : StreamId) (c : GroupConfig) (k : PlaceKind) (q : Position) : Bool :=
  decide ((s.dies.get (c.dieAt q)).state ≠ .faulted) &&
  (((s.streams.get st).slots.get q).isSome || s.mayOpen c (c.dieAt q) k)

/-- The positions from one on, ascending and wrapping (R49). -/
def positionsFrom (q : Position) : List Position := (List.finRange 8).map (fun k => q + k)

/-- The cursor of a stream's mode (R50). -/
def StreamRecord.cursor (r : StreamRecord) : Position :=
  match r.profile.mode with
  | .pack => r.packCursor
  | .spread => r.spreadCursor

/-- The position a page is placed at: the first enabled one from the cursor that can take it (R50). -/
def State.findPosition (s : State) (st : StreamId) (c : GroupConfig) (k : PlaceKind) : Option Position :=
  (positionsFrom (s.streams.get st).cursor).find? (fun q =>
    (s.enabledPositions st).contains q && s.canTake st c k q)

/-- The next enabled position after one, wrapping; the position itself if it is the only one (R50). -/
def State.nextEnabled (s : State) (st : StreamId) (q : Position) : Position :=
  ((positionsFrom (q + 1)).find? (fun x => (s.enabledPositions st).contains x)).getD q

/-- Open the head unit of a die's free list into a stream's slot (R4, R51): the stream's SPACE entries are called for (R55). -/
def State.openUnit (s : State) (st : StreamId) (q : Position) (d : DieId) : State :=
  match s.freeLists.get d with
  | [] => s
  | u :: rest =>
    let tenant := (s.streams.get st).tenant
    let s := { s with freeLists := s.freeLists.set d rest }
    let s := s.modUnit u (fun r =>
      { r.toFree r.eraseCount with
        state := .opened
        tenant := some tenant
        owner := some st })
    let s := s.modStream st (fun r => { r with slots := r.slots.set q (some ⟨u, 0, 0, false⟩) })
    (s.reportCounts u).callSpace (fun x => decide (x = st))

/-- The level a page joins at (R52): a HOST page at the stream's priority, a RELOC page at the group's relocation level, or the
stream's priority with FOLLOW. -/
def State.levelFor (s : State) (st : StreamId) (c : GroupConfig) (cls : WriteClass) : Level :=
  match cls with
  | .host => (s.streams.get st).profile.priority
  | .reloc => c.relocLevel.getD (s.streams.get st).profile.priority

/-- The mode's cursor after a page is placed at a position (R50). -/
def State.moveCursor (s : State) (st : StreamId) (q : Position) : State :=
  let next := s.nextEnabled st q
  s.modStream st (fun r =>
    match r.profile.mode with
    | .pack => { r with packCursor := q }
    | .spread => { r with spreadCursor := next })

/-- A page that has joined a backlog of a die in ERASE as an eligible page is a trigger (R112, R121). -/
def State.pageTrigger (s : State) (d : DieId) (k : PageKey) : State :=
  if s.pageEligible k then s.trigger d false else s

/-- Take a page from the unit in a stream's slot (R50): the page's index is the unit's write pointer, which rises by 1; a pool
entry is taken and joins a backlog; the cursor moves; and a unit that is now full is sealed (R56). Where that seal empties the stream's last
slot and a pending profile takes effect (R35), the cursor has moved before the profile sets both cursors: the model's choice of an order
that R35 and R50 leave open (log entry 28). -/
def State.takePage (s : State) (st : StreamId) (c : GroupConfig) (q : Position) (x : WriteContext)
    (page : Nat) : State :=
  match (s.streams.get st).slots.get q with
  | none => s
  | some o =>
    let d := c.dieAt q
    let index := ((s.unit? o.unit).map (·.writePointer)).getD 0
    let key : PageKey := ⟨o.unit, index⟩
    let level := s.levelFor st c x.cls
    let entry : PoolEntry := ⟨⟨x.id, page⟩, key, d, level, x.handle + BitVec.ofNat 32 page⟩
    let address : PageAddress := ⟨d, s.blockOf o.unit, index⟩
    let s := s.modUnit o.unit (fun r => { r with writePointer := r.writePointer + 1 })
    let s := s.modStream st (fun r => { r with
      slots := r.slots.set q (some { o with allocated := o.allocated + 1, idle := 0, sealDue := false }) })
    let s := { s with pool := s.pool ++ [entry] }
    let s := s.modPage ⟨x.id, page⟩ (fun p => { p with outcome := .allocated, address := some address })
    let s := s.modDie d (fun r => { r with backlogs := r.backlogs.modify level (· ++ [key]) })
    let s := (s.moveCursor st q).pageTrigger d key
    if index + 1 = s.pages then s.sealSlot st q else s

/-- Place one page of a context at the position its stream's mode gives, opening a unit if the slot is empty; `none` if no enabled
position can take it (R50). -/
def State.tryPlace (s : State) (st : StreamId) (k : PlaceKind) (x : WriteContext) (page : Nat) : Option State :=
  match s.streamConfig st with
  | none => none
  | some c =>
    match s.findPosition st c k with
    | none => none
    | some q =>
      let s := if ((s.streams.get st).slots.get q).isSome then s else s.openUnit st q (c.dieAt q)
      some (s.takePage st c q x page)

/-! ## Fresh pages and space wait -/

/-- The line of a class. -/
def StreamLines.line (l : StreamLines) : WriteClass → List ContextId
  | .host => l.host
  | .reloc => l.reloc

/-- The context at the head of a stream's line (R47). -/
def State.headContext (s : State) (st : StreamId) (cls : WriteClass) : Option WriteContext :=
  ((s.lines.get st).line cls).head?.bind s.context

/-- Take a request out of both lines of its stream. -/
def State.leaveLines (s : State) (st : StreamId) (c : ContextId) : State :=
  s.modLines st (fun l => { l with host := l.host.erase c, reloc := l.reloc.erase c })

/-- Change the credit wait list. -/
def State.modWaitList (s : State) (f : List WaitEntry → List WaitEntry) : State :=
  { s with credit := { s.credit with waitList := f s.credit.waitList } }

/-- Release one place of a port's share (R77). -/
def State.releaseShare (s : State) (p : MasterId) : State :=
  { s with credit := { s.credit with shares := s.credit.shares.modify p (· - 1) } }

/-- A request's SPACE entry on the credit wait list (R76). -/
def State.spaceEntry (s : State) (c : ContextId) : Option WaitEntry :=
  s.credit.waitList.find? (fun e => decide (e.ctx = c ∧ e.reason = .space))

/-- The book-keeping after a fresh page is placed (R47, R53, R54): the next fresh page rises; at n the request leaves its line and the
list and releases its place; before n its SPACE entry's remaining count falls. -/
def State.afterFresh (s : State) (st : StreamId) (x : WriteContext) : State :=
  let s := s.modContext x.id (fun y => { y with nextFresh := y.nextFresh + 1 })
  if x.nextFresh + 1 = x.pages.length then
    ((s.leaveLines st x.id).modWaitList
      (fun l => l.filter (fun e => decide (e.ctx ≠ x.id)))).releaseShare x.id.port
  else
    s.modWaitList (fun l => l.map (fun e =>
      if e.ctx = x.id then { e with remaining := x.pages.length - (x.nextFresh + 1) } else e))

/-- The request stops for space (R54): it enters the credit wait list at the end, or keeps the entry it has. -/
def State.waitForSpace (s : State) (x : WriteContext) : State :=
  match s.spaceEntry x.id with
  | some _ => s.modWaitList (fun l => l.map (fun e =>
      if e.ctx = x.id then { e with examine := false } else e))
  | none => s.modWaitList (· ++ [⟨x.id, x.stream, (s.streams.get x.stream).tenant, x.cls, .space,
      x.pages.length - x.nextFresh, false⟩])

/-- Try to place the next fresh page of a request (R48, R50, R54); the flag says whether it was placed. -/
def State.attemptFresh (s : State) (st : StreamId) (x : WriteContext) : State × Bool :=
  let s := s.applyPending st
  match s.tryPlace st (freshKind x.cls) x x.nextFresh with
  | some s => (s.afterFresh st x, true)
  | none => (s.waitForSpace x, false)

/-- The stream's SPACE entry that is examined next: the first of those called for, in arrival order (R55). -/
def State.firstCalled (s : State) (st : StreamId) : Option ContextId :=
  (s.credit.waitList.find? (fun e => decide (e.reason = .space ∧ e.stream = st) && e.examine)).map (·.ctx)

/-- Whether the head of a line may place a fresh page now: the stream's re-placement list is empty (R47), and the request does not
wait for space (R54) or is the first of the stream's entries that are called for, which are examined in arrival order (R55; log entry
11). -/
def State.mayPlaceFresh (s : State) (st : StreamId) (x : WriteContext) : Bool :=
  (s.lines.get st).replace.isEmpty && (decide (s.spaceEntry x.id = none) || decide (s.firstCalled st = some x.id))

/-- Place the remaining fresh pages of a request one by one until one cannot be placed (R55). The first argument bounds the pages. -/
def State.placeRun : Nat → State → StreamId → WriteClass → ContextId → State
  | 0, s, _, _, _ => s
  | n + 1, s, st, cls, id =>
    match s.headContext st cls with
    | none => s
    | some x =>
      if x.id = id ∧ (s.lines.get st).replace.isEmpty then
        match s.attemptFresh st x with
        | (s, true) => State.placeRun n s st cls id
        | (s, false) => s
      else s

/-! ## Re-placement -/

/-- A re-placement list begins to wait, or waits on (R65). A list that waits, places some pages in an examination and stops again keeps its
place in the order and the tick at which it began, as a SPACE entry does (R54): the model's choice (log entry 29). -/
def State.waitReplace (s : State) (st : StreamId) : State :=
  if s.waiters.any (fun w => decide (w.stream = st)) then
    { s with waiters := s.waiters.map (fun w =>
        if w.stream = st then { w with examine := false } else w) }
  else { s with waiters := s.waiters ++ [⟨st, s.time.tick, false⟩] }

/-- Take the head of a stream's re-placement list off it; a list that is empty waits no longer. -/
def State.dropReplaceHead (s : State) (st : StreamId) : State :=
  let s := s.modLines st (fun l => { l with replace := l.replace.tail })
  if (s.lines.get st).replace.isEmpty then
    { s with waiters := s.waiters.filter (fun w => decide (w.stream ≠ st)) }
  else s

/-- Try to place the head page of a stream's re-placement list (R65); the flag says whether it was placed. -/
def State.attemptReplace (s : State) (st : StreamId) : State × Bool :=
  let s := s.applyPending st
  match (s.lines.get st).replace.head? with
  | none => (s, false)
  | some ref =>
    match s.context ref.ctx with
    | none => (s.dropReplaceHead st, true)
    | some x =>
      match s.tryPlace st .replacement x ref.page with
      | some s => (s.dropReplaceHead st, true)
      | none => (s.waitReplace st, false)

/-- Whether a stream's re-placement list may be served: it does not wait, or is called for (R65). -/
def State.mayReplace (s : State) (st : StreamId) : Bool :=
  ((s.waiters.find? (fun w => decide (w.stream = st))).map (·.examine)).getD true

/-- Serve a re-placement list page by page until one cannot be placed (R55, R65). -/
def State.replaceRun : Nat → State → StreamId → State
  | 0, s, _ => s
  | n + 1, s, st =>
    match s.attemptReplace st with
    | (s, true) => State.replaceRun n s st
    | (s, false) => s

/-! ## An examination (R55) -/

/-- Serve the re-placement list of a stream in an examination, the seals that a tick has made due on its slots made first (R57). -/
def State.serveList (s : State) (st : StreamId) : State :=
  let s := s.settleSlots st
  s.replaceRun (s.lines.get st).replace.length st

/-- Serve a SPACE entry in an examination, the seals that a tick has made due on its stream's slots made first (R57). -/
def State.serveEntry (s : State) (e : WaitEntry) : State :=
  (s.settleSlots e.stream).placeRun Config.maxWritePages e.stream e.cls e.ctx

/-- Examine the SPACE entries, of the streams that satisfy `p`, for which an event of R55 has called, in arrival order. -/
def State.examineCalled (s : State) (p : StreamId → Bool) : State :=
  (s.credit.waitList.filter (fun e => decide (e.reason = .space) && e.examine && p e.stream)).foldl State.serveEntry s

/-- Examine the waiting work of the streams that satisfy `p` (R55): waiting re-placement lists first, in the order in which they
began to wait, then SPACE entries in arrival order. A unit that the examination opens calls for its stream's entries once more. -/
def State.examineWork (s : State) (p : StreamId → Bool) : State :=
  let lists := s.waiters.filter (fun w => p w.stream)
  let entries := s.credit.waitList.filter (fun e => decide (e.reason = .space) && p e.stream)
  let s := s.callWork p
  let s := lists.foldl (fun s w => s.serveList w.stream) s
  (entries.foldl State.serveEntry s).examineCalled p

/-- Examine the waiting work of a group (R55). -/
def State.examineGroup (s : State) (g : GroupId) : State :=
  s.examineWork (fun st => decide ((s.streams.get st).group = some g))

/-- Examine the waiting work of the group of a unit that has become FREE, unless the part is HALTED, where the event is examined
when RUN is taken (R55). -/
def State.examineFreed (s : State) (u : Nat) : State :=
  if s.unitState u = some .free ∧ s.mgmt.device ≠ .halted then
    match s.groupOfUnit u with
    | some g => s.examineGroup g
    | none => s
  else s

/-! ## The end of a page's program -/

/-- Lower the allocation count of the slot that holds a unit (R36). -/
def State.slotLower (s : State) (u : Nat) : State :=
  match (s.unit? u).bind (·.owner) with
  | none => s
  | some st => s.modStream st (fun r => { r with
      slots := r.slots.map (Option.map (fun o =>
        if o.unit = u then { o with allocated := o.allocated - 1 } else o)) })

/-- The pool entry of a page. -/
def State.poolEntry (s : State) (k : PageKey) : Option PoolEntry :=
  s.pool.find? (fun e => decide (e.key = k))

/-- Free a pool entry and take the page out of its backlog, if it is in one (R44, R111). -/
def State.freeEntry (s : State) (e : PoolEntry) : State :=
  let s := { s with pool := s.pool.filter (fun x => decide (x.key ≠ e.key)) }
  s.modDie e.die (fun r => { r with backlogs := r.backlogs.modify e.level (·.erase e.key) })

/-- A RELOC page's source as it stands when the page ends DONE (R61): the same sealing and erase, with pages counted. -/
def UnitRecord.takesSource (r : UnitRecord) (src : SourceUnit) : Bool :=
  (decide (r.state = .sealed) || decide (r.state = .reclaim)) && decide (r.sealEpoch = src.sealEpoch) &&
  decide (r.eraseCount = src.eraseCount) && decide (0 < r.valid)

/-- Take one page from the source unit of a RELOC request, or raise its source skew count (R61). -/
def State.relocDone (s : State) (x : WriteContext) : State :=
  match x.source with
  | none => s
  | some src =>
    match s.unit? src.unit with
    | none => s.modContext x.id (fun y => { y with skew := y.skew + 1 })
    | some r =>
      if r.takesSource src then
        let s := s.lowerValid src.unit 1
        if r.state = .sealed then (s.wakeUnit src.unit).checkEmpty src.unit else s
      else s.modContext x.id (fun y => { y with skew := y.skew + 1 })

/-- A SEALED unit that a DONE has settled is reported and checked (R9, R60, R92). -/
def State.settleCheck (s : State) (u : Nat) : State :=
  match s.unit? u with
  | none => s
  | some r => if r.state = .sealed ∧ r.settled then (s.wakeUnit u).checkEmpty u else s

/-- A page's program ended DONE (R60). -/
def State.pageDone (s : State) (k : PageKey) : State :=
  match s.poolEntry k with
  | none => s
  | some e =>
    let s := s.freeEntry e
    let s := s.modPage e.ref (fun p => { p with outcome := .done })
    let s := s.modUnit k.unit (fun r => { r with programmed := r.programmed + 1, valid := r.valid + 1 })
    let s := s.slotLower k.unit
    let s := match s.context e.ref.ctx with
      | some x => s.relocDone x
      | none => s
    s.settleCheck k.unit

/-- The retry rule (R64): a page that has failed twice before becomes FAILED; otherwise it counts a retry and waits to be re-placed. -/
def State.failPage (s : State) (ref : PageRef) : State :=
  match (s.context ref.ctx).bind (fun x => x.pages[ref.page]?) with
  | none => s
  | some p =>
    if p.retries < Config.retryLimit then
      s.modPage ref (fun p => { p with outcome := .unplaced, retries := p.retries + 1 })
    else
      (s.modPage ref (fun p => { p with outcome := .failed })).modContext ref.ctx
        (fun x => { x with failed := x.failed + 1 })

/-- Whether a page now waits to be re-placed. -/
def State.pageUnplaced (s : State) (ref : PageRef) : Bool :=
  match (s.context ref.ctx).bind (fun x => x.pages[ref.page]?) with
  | some p => decide (p.outcome = .unplaced)
  | none => false

/-- Insert a pool entry by ascending page index. -/
def insertByIndex (e : PoolEntry) : List PoolEntry → List PoolEntry
  | [] => [e]
  | x :: xs => if e.key.index < x.key.index then e :: x :: xs else x :: insertByIndex e xs

/-- The pool entries of a unit, in ascending index. -/
def State.unitEntries (s : State) (u : Nat) : List PoolEntry :=
  (s.pool.filter (fun e => decide (e.key.unit = u))).foldr insertByIndex []

/-- The open slot of a stream that holds a unit. -/
def State.slotOf (s : State) (st : StreamId) (u : Nat) : Option Position :=
  (List.finRange 8).find? (fun q =>
    match (s.streams.get st).slots.get q with
    | some o => decide (o.unit = u)
    | none => false)

/-- A program of page `k` failed (R63): R6 for its unit, the retry rule for the page, the withdrawal of the unit's higher pages, all
appended to the owner's re-placement list in ascending index, and the slot emptied. -/
def State.programFailed (s : State) (k : PageKey) : State :=
  match s.poolEntry k, (s.unit? k.unit).bind (·.owner) with
  | some e, some st =>
    let higher := (s.unitEntries k.unit).filter (fun x => decide (k.index < x.key.index))
    let s := s.failUnit k.unit k.index
    let s := (s.freeEntry e).failPage e.ref
    let s := higher.foldl (fun s x =>
      (s.freeEntry x).modPage x.ref (fun p => { p with outcome := .unplaced })) s
    let failed := if s.pageUnplaced e.ref then [e.ref] else []
    let s := s.modLines st (fun l => { l with replace := l.replace ++ failed ++ higher.map (·.ref) })
    match s.slotOf st k.unit with
    | some q => (s.emptySlot st q).applyPending st
    | none => s
  | _, _ => s

end Sys2Proof.Machine
end

