-- ==== Sys2Proof/Machine/CreditOps.lean ====
section
/-!
DEFINITION. The Credit Accountant's shared operations (chapter 4): the charge with its floor (R70, R74), the page counters
(R41), refill (R72), the examination after a refill (R73), which comes before what follows it, the admissions of a drain (R79) and of
metering turned off (R75), and arrival (R71).
-/

namespace Sys2Proof.Machine

/-! ## Balances -/

/-- A balance after a charge for `n` pages: it falls by 16 for each page and stops at the floor (R70, R74). -/
def chargedBalance (b : Int) (n : Nat) : Int := max Config.balanceFloor (b - Config.pageCost * n)

/-- A balance after a refill: it rises by the rate and stops at the ceiling (R72). -/
def refilledBalance (b : Int) (rate ceiling : Nat) : Int := min (b + rate) ceiling

/-- Change one tenant's balance. -/
def State.modBalance (s : State) (t : Tenant) (f : Int → Int) : State :=
  { s with credit := { s.credit with balances := s.credit.balances.modify t f } }

/-- Charge a tenant for `n` pages; the balance of an unmetered tenant is left as it is (R70). -/
def State.charge (s : State) (t : Tenant) (n : Nat) : State :=
  if (s.tenants.get t).metered then s.modBalance t (fun b => chargedBalance b n) else s

/-- Raise a tenant's page counter of a class by `n`, wrapping (R41). -/
def State.countPages (s : State) (t : Tenant) (cls : WriteClass) (n : Nat) : State :=
  s.modTenant t (fun r => match cls with
    | .host => { r with hostPages := r.hostPages + BitVec.ofNat 32 n }
    | .reloc => { r with relocPages := r.relocPages + BitVec.ofNat 32 n })

/-- One tenant's refill at a tick (R72). -/
def State.refill (s : State) (t : Tenant) : Int :=
  let r := s.tenants.get t
  if r.metered then refilledBalance (s.credit.balances.get t) r.rate r.ceiling
  else s.credit.balances.get t

/-! ## Handing over -/

/-- Append a request to the end of its stream's line of its class (R47). -/
def State.joinLine (s : State) (st : StreamId) (cls : WriteClass) (c : ContextId) : State :=
  s.modLines st (fun l => match cls with
    | .host => { l with host := l.host ++ [c] }
    | .reloc => { l with reloc := l.reloc ++ [c] })

/-- Charge, count and hand a request over (R70, R71). -/
def State.admitPages (s : State) (st : StreamId) (t : Tenant) (cls : WriteClass) (c : ContextId) (n : Nat) : State :=
  ((s.charge t n).countPages t cls n).joinLine st cls c

/-- Whether an entry waits for credit on a stream. -/
def WaitEntry.creditOf (e : WaitEntry) (st : StreamId) : Bool :=
  decide (e.reason = .credit) && decide (e.stream = st)

/-- Admit one CREDIT entry: it leaves the list and is charged, counted and handed over (R73, R79). The charge of an unmetered
tenant is none (R75). -/
def State.admitEntry (s : State) (e : WaitEntry) : State :=
  (s.modWaitList (fun l => l.filter (fun x => decide (x.ctx ≠ e.ctx)))).admitPages e.stream e.tenant e.cls e.ctx
    e.remaining

/-- Examine one CREDIT entry (R73): it is admitted while the balance is above 0 and it is the first CREDIT entry of its stream. -/
def State.examineEntry (s : State) (e : WaitEntry) : State :=
  if 0 < s.credit.balances.get e.tenant ∧
      (s.credit.waitList.find? (·.creditOf e.stream)).map (·.ctx) = some e.ctx then s.admitEntry e
  else s

/-- A tenant's CREDIT entries, in arrival order. -/
def State.creditEntries (s : State) (t : Tenant) : List WaitEntry :=
  s.credit.waitList.filter (fun e => decide (e.reason = .credit) && decide (e.tenant = t))

/-- Examine a tenant's CREDIT entries in arrival order (R73). -/
def State.examineCredit (s : State) (t : Tenant) : State :=
  (s.creditEntries t).foldl State.examineEntry s

/-- Make the examination that a refill has made due for a tenant, before the Accountant takes a later event of the tenant (R73; log entry
43). Only a refill raises a balance, and an examination ends with no CREDIT entry left or the balance at 0 or below, so a balance above 0
with a CREDIT entry waiting is one whose examination is due. -/
def State.settleCredit (s : State) (t : Tenant) : State := s.examineCredit t

/-- Make every tenant's due examination before the refills of a further tick (R72, R73; log entry 43); tenants in ascending number (log
entry 7). -/
def State.settleRefills (s : State) : State := (List.finRange 64).foldl State.settleCredit s

/-- Admit every CREDIT entry of a stream, in arrival order, whatever the balance (R79). -/
def State.admitStream (s : State) (st : StreamId) : State :=
  (s.credit.waitList.filter (·.creditOf st)).foldl State.admitEntry s

/-- Admit every CREDIT entry of a tenant whose metering is off, in arrival order (R75). -/
def State.admitTenant (s : State) (t : Tenant) : State :=
  (s.creditEntries t).foldl State.admitEntry s

/-! ## Arrival -/

/-- An accepted WRITE reaches the Accountant (R71), once the examination that a refill has made due is done (R73; log entry 43). -/
def State.creditArrival (s : State) (x : WriteContext) : State :=
  let t := (s.streams.get x.stream).tenant
  let n := x.pages.length
  let s := s.settleCredit t
  match x.cls with
  | .reloc => s.admitPages x.stream t .reloc x.id n
  | .host =>
    if (s.tenants.get t).metered = false then s.admitPages x.stream t .host x.id n
    else if 0 < s.credit.balances.get t ∧ s.credit.waitList.any (·.creditOf x.stream) = false then
      s.admitPages x.stream t .host x.id n
    else s.modWaitList (· ++ [⟨x.id, x.stream, t, .host, .credit, n, false⟩])

end Sys2Proof.Machine
end

