-- ==== Sys2Proof/Machine/ReclaimOps.lean ====
section
/-!
DEFINITION. The Reclaim Controller's shared operations (chapter 5): order slots (R93), notices offered and written (R95,
R158), the expiry memory (R97), the ways an order ends (R96, R101, R103, R104, R105), and the search (R89, R90, R91).
-/

namespace Sys2Proof.Machine

/-! ## Order slots -/

/-- The order in a slot of a group, if the slot is occupied. -/
def State.order (s : State) (r : NoticeRef) : Option Order :=
  (s.reclaimOf r.group).bind (fun k => (k.slots[r.slot.val]?).join)

/-- Write an order slot. -/
def State.setOrder (s : State) (r : NoticeRef) (o : Option Order) : State :=
  s.modReclaim r.group (fun k => { k with slots := k.slots.set r.slot.val o })

/-- The order slots of every group, ascending. -/
def allSlots : List NoticeRef :=
  (List.finRange 8).flatMap (fun g => (List.finRange 4).map (fun k => ⟨g, k⟩))

/-! ## Expiry memory (R97) -/

/-- Add an entry at the front of a port's expiry memory, dropping a ninth. -/
def State.addExpiry (s : State) (o : Order) : State :=
  { s with reclaim := { s.reclaim with
      expiry := s.reclaim.expiry.modify o.port (fun l => ((o.unit, o.number) :: l).take Config.expiryLimit) } }

/-! ## Notices (R95, R158) -/

/-- Change the notices that wait for a port. -/
def State.modNotices (s : State) (p : MasterId) (f : List NoticeRef → List NoticeRef) : State :=
  { s with reclaim := { s.reclaim with notices := s.reclaim.notices.modify p f } }

/-- Write the notice of an order slot into a port's ring (R95): a RELOCATE-ORDER makes its order ISSUED, and an ORDER-EXPIRED
frees its slot. -/
def State.writeNotice (s : State) (p : MasterId) (r : NoticeRef) : State :=
  match s.order r with
  | none => s
  | some o =>
    match o.phase with
    | .issued _ => s
    | .pending =>
      let valid := ((s.unit? o.unit).map (·.valid)).getD 0
      let s := s.modRing (.master p) (fun q =>
        q.writeRecord .notice (noticeRecord kindRelocateOrder (relocateOrderBody o r valid)) [])
      s.setOrder r (some { o with phase := .issued s.orderTicks })
    | .closing cause =>
      (s.modRing (.master p) (fun q =>
        q.writeRecord .notice (noticeRecord kindOrderExpired (orderExpiredBody o r cause)) [])).setOrder r none

/-- Whether a notice may be written to a port: it is ACTIVE, no fence of it is due (R159; log entry 41), and its notice holdings are
below 8 (R158). -/
def State.noticePlace (s : State) (p : MasterId) : Bool :=
  decide ((s.masters.get p).state = .active) && !(s.masters.get p).fenceDue &&
  decide ((s.masters.get p).ring.noticeHoldings < Config.noticeLimit)

/-- Write the oldest notice that waits for a port, if there is one and a notice slot is free (R95). -/
def State.writeOldest (s : State) (p : MasterId) : State :=
  match s.reclaim.notices.get p with
  | [] => s
  | r :: rest => if s.noticePlace p then (s.modNotices p (fun _ => rest)).writeNotice p r else s

/-- Write waiting notices of a port while notice slots are free; the first argument bounds them. -/
def State.flushNotices : Nat → State → MasterId → State
  | 0, s, _ => s
  | n + 1, s, p => State.flushNotices n (s.writeOldest p) p

/-- Offer a notice to a port (R95): it is written at once if a notice slot is free, and waits otherwise. -/
def State.offerNotice (s : State) (p : MasterId) (r : NoticeRef) : State :=
  State.flushNotices Config.noticeLimit (s.modNotices p (· ++ [r])) p

/-- Remove the notice of an order slot from a port's waiting notices, unwritten. -/
def State.dropNotice (s : State) (p : MasterId) (r : NoticeRef) : State :=
  s.modNotices p (fun l => l.filter (fun x => decide (x ≠ r)))

/-! ## How orders end -/

/-- An ISSUED order ends by its timer or by cancellation (R96, R103): the unit returns to SEALED, the order goes to CLOSING, the
expiry memory takes it and ORDER-EXPIRED is offered. -/
def State.closeOrder (s : State) (r : NoticeRef) (o : Order) (cause : OrderCause) : State :=
  let s := s.returnToSealed o.unit
  let s := s.setOrder r (some { o with phase := .closing cause })
  (s.addExpiry o).offerNotice o.port r

/-- A PENDING order is withdrawn (R103, R104, R105): the unit returns to SEALED, the notice is removed and the slot is FREE. -/
def State.withdrawOrder (s : State) (r : NoticeRef) (o : Order) : State :=
  ((s.returnToSealed o.unit).dropNotice o.port r).setOrder r none

/-- CANCEL-ORDERS on one slot (R103). -/
def State.cancelSlot (s : State) (r : NoticeRef) : State :=
  match s.order r with
  | none => s
  | some o => match o.phase with
    | .pending => s.withdrawOrder r o
    | .issued _ => s.closeOrder r o .cancelled
    | .closing _ => s

/-- The occupied slots in a phase (the phase given by its slot code). -/
def State.countOrders (s : State) (code : Nat) : Nat :=
  (allSlots.filter (fun r => decide (orderSlotCode (s.order r) = code))).length

/-- The end of one slot's order at a fence of its port (R104). -/
def State.fenceSlot (s : State) (p : MasterId) (r : NoticeRef) : State :=
  match s.order r with
  | none => s
  | some o =>
    if o.port = p then
      match o.phase with
      | .pending => s.withdrawOrder r o
      | .issued _ => (s.returnToSealed o.unit).setOrder r none
      | .closing _ => (s.dropNotice p r).setOrder r none
    else s

/-- Every order given to a port ends, and its waiting notices and expiry memory are emptied (R104). -/
def State.fenceOrders (s : State) (p : MasterId) : State :=
  let s := allSlots.foldl (fun s r => s.fenceSlot p r) s
  let s := s.modNotices p (fun _ => [])
  { s with reclaim := { s.reclaim with expiry := s.reclaim.expiry.set p [] } }

/-- The end of one slot's order at a SET-GROUP (R105), which writes no notice. -/
def State.resetSlot (s : State) (r : NoticeRef) : State :=
  match s.order r with
  | none => s
  | some o => match o.phase with
    | .pending => s.withdrawOrder r o
    | .issued _ => ((s.returnToSealed o.unit).addExpiry o).setOrder r none
    | .closing _ => (s.dropNotice o.port r).setOrder r none

/-- A group's orders end without notices (R105). -/
def State.resetOrders (s : State) (g : GroupId) : State :=
  (List.finRange 4).foldl (fun s k => s.resetSlot ⟨g, k⟩) s

/-- A reclaim record newly built: inactive, IDLE, flags clear and every order slot FREE (R105). -/
def ReclaimRecord.fresh (slots : Nat) : ReclaimRecord where
  active := false
  search := .idle
  cursor := none
  candidate := none
  zeroScore := false
  missedChange := false
  chosen := none
  discard := false
  slots := List.replicate slots none

/-! ## The search (R90, R91) -/

/-- Whether a group begins a search (R90). -/
def State.startsSearch (s : State) (r : ReclaimRecord) : Bool :=
  r.active && r.freeSlot.isSome && s.mayIssue && decide (r.search = .idle)

/-- The record as a search begins at the group's lowest unit (R90). -/
def ReclaimRecord.begin (r : ReclaimRecord) (lowest : Nat) : ReclaimRecord :=
  { r with
    search := .searching
    cursor := some lowest
    candidate := none
    zeroScore := false
    missedChange := false
    chosen := none
    discard := false }

/-- The candidate that an eligible unit makes, or none for a unit of score 0 that is not retire-pending (R86, R89). -/
def State.candidateOf (s : State) (u : Nat) (r : UnitRecord) : Option Candidate :=
  if r.retirePending then some (.retire u (s.age r))
  else if s.score r = 0 then none
  else some (.scored u (s.score r) r.eraseCount)

/-- The better of the candidate so far and a new one (R89). -/
def better (old : Option Candidate) (new : Candidate) : Candidate :=
  match old with
  | none => new
  | some c => if new.before c then new else c

/-- The record after a unit is examined, before the cursor moves (R90): every eligible unit with score 0 sets the zero-score flag, a
retire-pending one too (R83, R86), and an eligible unit that may be chosen meets the candidate (R89). -/
def State.examined (s : State) (u : Nat) (k : ReclaimRecord) : ReclaimRecord :=
  match s.unit? u with
  | none => k
  | some r =>
    if s.victimEligible u then
      { k with
        zeroScore := k.zeroScore || decide (s.score r = 0)
        candidate := match s.candidateOf u r with
          | some c => some (better k.candidate c)
          | none => k.candidate }
    else k

/-- The check again of a candidate (R91). -/
def State.stillVictim (s : State) (c : Candidate) : Bool :=
  match c, s.unit? c.unit with
  | .retire u _, some _ => s.victimEligible u
  | .scored u _ _, some r => s.victimEligible u && decide (0 < s.score r)
  | _, none => false

/-- Whether a search may use its result: the group is active and orders may be issued, and neither has stopped since the search began
(R84, R85, R91). -/
def State.mayUse (s : State) (k : ReclaimRecord) : Bool := k.active && s.mayIssue && !k.discard

/-- The record after a search has examined the group's highest unit (R91). -/
def State.searchEnded (s : State) (k : ReclaimRecord) : ReclaimRecord :=
  if s.mayUse k then
    match k.candidate with
    | none => if k.missedChange then k.toIdle else { k.toIdle with search := .waiting }
    | some c =>
      match s.stillVictim c, k.freeSlot with
      | true, some slot => { k with cursor := none, chosen := some slot }
      | _, _ => k.toIdle
  else k.toIdle

/-- Examine the record at the cursor of a group's search, move on, and end the search after the highest unit (R90, R91). -/
def State.searchStep (s : State) (c : GroupConfig) (k : ReclaimRecord) : ReclaimRecord :=
  match k.cursor with
  | none => k
  | some u =>
    let k := s.examined u k
    if u + 1 < (c.last + 1) * s.bpd then { k with cursor := some (u + 1) } else s.searchEnded k

end Sys2Proof.Machine
end

