-- ==== Sys2Proof/Machine/FenceOps.lean ====
section
/-!
DEFINITION. The end of a request (R62, R67), the end of a drain (R29), the parking of a stream (R31) and the fence of a master
port (R160), with the parts of the fence that each block owns (R66, R80, R104, R127, R161); and the taking of a request by its kind
(R152, R169), which a fence that is due comes before (R159).
-/

namespace Sys2Proof.Machine

/-! ## The end of a request (R62) -/

/-- The body of a WRITE reply: n, the failed page count and the source skew count (R62, R189). -/
def WriteContext.replyBody (x : WriteContext) : List Byte :=
  leBytes 1 x.pages.length ++ leBytes 1 x.failed ++ leBytes 1 x.skew

/-- The reply status of a request that has ended (R62). -/
def WriteContext.status (x : WriteContext) : Status :=
  if 0 < x.failed then .partialWrite else if 0 < x.skew then .countSkew else .ok

/-- Release a reservation of a master port without a reply (R153, R161). -/
def State.releaseSlot (s : State) (p : MasterId) (slot : ReplySlot) : State :=
  s.modRing (.master p) (fun r => r.release slot)

/-- Write the reply of a request that ended, or release its reservation if its context is orphaned (R62, R67). -/
def State.answerWrite (s : State) (x : WriteContext) : State :=
  if x.orphaned then s.releaseSlot x.id.port x.id.slot
  else s.reply (.master x.id.port) x.id.slot kindWrite x.tag x.status x.replyBody x.addressList

/-- Release the place in its port's share, where the request still holds it: it is not orphaned and has a fresh page left
(R53, R77). -/
def State.leaveShare (s : State) (x : WriteContext) : State :=
  if !x.orphaned && decide (x.nextFresh < x.pages.length) then s.releaseShare x.id.port else s

/-- The outstanding request count of a stream falls by 1; a PARKED stream whose count is then 0 has its open units short-sealed
(R25, R32). -/
def State.requestGone (s : State) (st : StreamId) : State :=
  let s := s.modStream st (fun r => { r with outstanding := r.outstanding - 1 })
  let r := s.streams.get st
  if r.state = .parked ∧ r.outstanding = 0 then s.sealAllSlots st else s

/-- Remove a write context. -/
def State.dropContext (s : State) (c : ContextId) : State :=
  { s with contexts := s.contexts.filter (fun x => decide (x.id ≠ c)) }

/-- A request ends (R62). -/
def State.endRequest (s : State) (x : WriteContext) : State :=
  (((s.answerWrite x).leaveShare x).dropContext x.id).requestGone x.stream

/-! ## The end of a drain (R29) -/

/-- A drain ends: the stream's open units are short-sealed, it becomes QUIESCED and the DRAINED reply is written. -/
def State.endDrain (s : State) (st : StreamId) : State :=
  let s := s.sealAllSlots st
  let r := s.streams.get st
  let s := s.modStream st (fun r => { r with state := .quiesced, drain := none })
  match r.port, r.drain with
  | some p, some pl => s.reply (.master p) pl.slot kindDrainStream pl.tag .drained [] []
  | _, _ => s

/-! ## The fence (R160) -/

/-- Park one stream of a fenced port (R31): its open units are short-sealed, its young list is emptied, and it becomes PARKED. A
drain is cut off, and its reservation is released without a reply (R29, R161). -/
def State.parkStream (s : State) (st : StreamId) : State :=
  let s := (s.sealAllSlots st).emptyYoung st
  let r := s.streams.get st
  let s := s.modStream st (fun r => { r with state := .parked, port := none, drain := none })
  match r.port, r.drain with
  | some p, some pl => s.releaseSlot p pl.slot
  | _, _ => s

/-- The streams bound to a port, ascending. -/
def State.boundStreams (s : State) (p : MasterId) : List StreamId :=
  s.streams.indices (fun r => decide (r.port = some p))

/-- The write contexts of a port that are not orphaned yet. -/
def State.liveContexts (s : State) (p : MasterId) : List WriteContext :=
  s.contexts.filter (fun x => decide (x.id.port = p) && !x.orphaned)

/-- Orphan a port's contexts: each leaves its line and is marked (R66, R67). -/
def State.orphanContexts (s : State) (p : MasterId) : State :=
  let s := (s.liveContexts p).foldl (fun s x => s.leaveLines x.stream x.id) s
  { s with contexts := s.contexts.map (fun x => if x.id.port = p then { x with orphaned := true } else x) }

/-- End the orphaned contexts of a port that nothing holds open (R66, R67). -/
def State.endOrphans (s : State) (p : MasterId) : State :=
  (s.contexts.filter (fun x => decide (x.id.port = p) && x.orphaned && s.requestEnded x)).foldl
    State.endRequest s

/-- Remove a port's entries from the credit wait list, with its share count 0, and examine the remaining CREDIT entries of each
tenant that lost entries (R80). -/
def State.fenceCredit (s : State) (p : MasterId) : State :=
  let lost := s.credit.waitList.filter (fun e => decide (e.ctx.port = p))
  let s := s.modWaitList (fun l => l.filter (fun e => decide (e.ctx.port ≠ p)))
  let s := { s with credit := { s.credit with shares := s.credit.shares.set p 0 } }
  ((List.finRange 64).filter (fun t => lost.any (fun e => decide (e.tenant = t)))).foldl State.examineCredit s

/-- Close or remove one window of a fenced port; a WAITING request's reservation is released without a reply (R127, R161). -/
def State.fenceWindow (s : State) (p : MasterId) (d : DieId) : State :=
  let w := (s.dies.get d).windows.get p
  let s := s.modDie d (fun r => { r with
    windows := r.windows.set p .closed
    lapsed := r.lapsed.set p false })
  match w with
  | .waiting pl => s.releaseSlot p pl.slot
  | _ => s

/-- Empty a ring (R160, R163): the indices and their words are 0, no notice is held, and the reply holdings are the reservations
still held. -/
def Ring.emptied (r : Ring) : Ring :=
  let r := { r with
    requestTail := 0
    requestHead := 0
    replyTail := 0
    replyHead := 0
    replyHoldings := r.reservations.length
    noticeHoldings := 0 }
  (((r.putIndex requestTailOffset 0).putIndex requestHeadOffset 0).putIndex replyTailOffset 0).putIndex
    replyHeadOffset 0

/-- Fence a master port (R160). -/
def State.fence (s : State) (p : MasterId) (cause : FenceCause) : State :=
  let parked := (s.boundStreams p).length
  let orphaned := (s.liveContexts p).length
  let s := s.modMaster p (fun m => { m with state := .fenced, cause := cause, fenceDue := false })
  let s := s.flagFence p cause
  let s := (s.boundStreams p).foldl State.parkStream s
  let s := ((s.orphanContexts p).fenceCredit p).endOrphans p
  let s := s.fenceOrders p
  let s := (List.finRange 32).foldl (fun s d => s.fenceWindow p d) s
  let s := s.modRing (.master p) Ring.emptied
  let s := s.offerManagement kindPortFenced (portFencedBody p cause parked orphaned)
  s.serveSuspended

/-! ## A fence that is due (R159) -/

/-- Whether a tick has fenced a port and the fence's effects are still to be made (log entry 5). -/
def State.fencePending (s : State) (p : MasterId) : Bool :=
  (s.masters.get p).fenceDue && decide ((s.masters.get p).state = .active)

/-- Make the fence that a tick has made due on a port, if there is one (R159). -/
def State.dueFence (s : State) (p : MasterId) : State :=
  if s.fencePending p then s.fence p .inactivity else s

/-- Make the due fence of a port before an event of the port that the tick preceded; port M is never fenced (R159, R169; log
entry 41). -/
def State.settlePort (s : State) : PortId → State
  | .master p => s.dueFence p
  | .management => s

/-! ## Taking a request by its kind (R152, R169) -/

/-- Take the request at the head of a port's ring if it may be taken and its kind is accepted, and act on it. Otherwise the
command's event has not come about and nothing changes (log entry 4). Where a tick has fenced the port before, the fence comes first and
discards the record (R159). -/
def State.onRequest (s : State) (p : PortId) (accepts : Nat → Bool)
    (act : Request → State → State) : Result :=
  let s := s.settlePort p
  let r := s.headRequest p
  if s.mayTake p && accepts r.kind then .next (act r (s.taken p)) else .next s

end Sys2Proof.Machine
end

