-- ==== Sys2Proof/Machine/Completions.lean ====
section
/-!
DEFINITION. The meanings of the completions (chapters 3, 6 and 7): PROGRAM_DONE (R60), PROGRAM_FAIL (R63), ERASE_COMPLETION (R119,
R144), CHECK_COMPLETION (R120), SUSPEND_ANSWER (R122), RESUME_ANSWER (R124) and STRAY_COMPLETION (R147).
-/

namespace Sys2Proof.Machine

/-! ## Completion kind codes (R191) -/

/-- DONE. -/
def doneCode : Nat := 0
/-- FAIL. -/
def failCode : Nat := 1
/-- SUSPENDED. -/
def suspendedCode : Nat := 2
/-- BLANK. -/
def blankCode : Nat := 3
/-- NOT_BLANK. -/
def notBlankCode : Nat := 4

/-! ## Programs -/

/-- The die once a program has ended (R118): a current program leaves it IDLE, and a suspended one leaves it SUSPENDED. -/
def DieRecord.programEnded (r : DieRecord) (k : PageKey) : DieRecord :=
  if r.suspendedProgram = some k then { r with suspendedProgram := none, opTimer := none }
  else if r.current = some (.program k) then { r with state := .idle, current := none, opTimer := none }
  else r

/-- A program's completion is taken (R118): the outcome is reported for its page, and the die goes on. -/
def State.endProgram (s : State) (e : TagEntry) (report : PageKey → State → State) : State :=
  match e.page with
  | none => s
  | some k => ((report k s).modDie e.die (fun r => r.programEnded k)).serveSuspended

/-- PROGRAM_DONE (R60, R118). -/
def execProgramDone (c : Completion) (s : State) : Result :=
  s.onCompletion c .program [doneCode] (fun e s => s.endProgram e (fun k s => s.pageDone k))

/-- PROGRAM_FAIL (R63, R118), of either cause. -/
def execProgramFail (c : Completion) (s : State) : Result :=
  s.onCompletion c .program [failCode] (fun e s => s.endProgram e (fun k s => s.programFailed k))

/-! ## Erases and checks -/

/-- A die's erase has ended by a completion, or by a failed resumption (R119, R122, R144): the unit takes the outcome, the SUSPENDs and
RESUMEs of the erase are dealt with by `l` (R145, R146), and the die goes on. -/
def State.endErase (s : State) (d : DieId) (u : Nat) (done : Bool) (l : Link → Link) : State :=
  let s := { s with link := l s.link }
  let s := (s.dieAfterErase d).eraseOutcome u done
  (s.examineFreed u).serveSuspended

/-- ERASE_COMPLETION (R119, R122, R144). -/
def execEraseCompletion (c : Completion) (s : State) : Result :=
  s.onCompletion c .erase [doneCode, failCode] (fun e s =>
    s.endErase e.die e.unit (decide (c.kind.toNat = doneCode)) (fun l => l.endErase e.die e.unit))

/-- The outcome of a check for its unit (R15): FREE on BLANK, ERASING on NOT_BLANK, RETIRED on FAIL. -/
def State.checkOutcome (s : State) (u : Nat) (kind : Nat) : State :=
  match s.unit? u with
  | none => s
  | some r =>
    if kind = blankCode then s.enterFree u r.eraseCount
    else if kind = notBlankCode then s.enterErasing u
    else s.enterRetired u

/-- CHECK_COMPLETION (R120). -/
def execCheckCompletion (c : Completion) (s : State) : Result :=
  s.onCompletion c .check [failCode, blankCode, notBlankCode] (fun e s =>
    let s := (s.dieAfterErase e.die).checkOutcome e.unit c.kind.toNat
    (s.examineFreed e.unit).serveSuspended)

/-! ## Suspensions -/

/-- A suspension takes hold (R122): the erase's timer is paused, the WAITING windows are granted, and the die serves. -/
def State.holdErase (s : State) (d : DieId) : State :=
  let s := s.modDie d (fun r => { r with
    state := .suspended
    heldErase := r.opTimer
    opTimer := none
    programs := some 0 })
  (s.grantWindows d).serveSuspended

/-- A matched answer to a SUSPEND whose erase has not ended, taken in SUSPENDING (R122). DEDUCED (log entry 36): with purpose SERVE the level
of PLW_N counts as it is when SUSPENDED is taken, by R122's first two rows, so an assertion that was released before it leaves no trace. -/
def State.takeSuspend (s : State) (d : DieId) (kind : Nat) : State :=
  if (s.dies.get d).state = .suspending then
    if kind = suspendedCode then
      if (s.dies.get d).purpose = some .serve ∧ s.plwAsserted = false then s.holdErase d else s.abandonErase d
    else if kind = failCode then s.modDie d (fun r => { r with state := .erase, purpose := none })
    else s
  else s

/-- SUSPEND_ANSWER (R122). An answer for an erase that has ended is taken without effect (R144). -/
def execSuspendAnswer (c : Completion) (s : State) : Result :=
  s.onCompletion c .suspend [doneCode, failCode, suspendedCode] (fun e s =>
    if e.ended then s else s.takeSuspend e.die c.kind.toNat)

/-- RESUME_ANSWER (R124): DONE is taken without effect, and a FAIL before the erase's own completion ends the erase as failed. -/
def execResumeAnswer (c : Completion) (s : State) : Result :=
  s.onCompletion c .resume [doneCode, failCode] (fun e s =>
    if e.ended = false ∧ c.kind.toNat = failCode then
      s.endErase e.die e.unit false (fun l => l.releaseErase e.die e.unit)
    else s)

/-! ## Strays -/

/-- STRAY_COMPLETION (R147): the completion is discarded, the flag is set and a notice is offered to port M. A completion that
matches is not this command's event (log entry 4). -/
def execStrayCompletion (c : Completion) (s : State) : Result :=
  match s.matchCompletion c with
  | .matched _ => .next s
  | .stray reason e => .next (s.flagStray.offerManagement kindStrayCompletion (strayBody c reason e))

end Sys2Proof.Machine
end

