-- ==== Sys2Proof/Machine/Configuration.lean ====
section
/-!
DEFINITION. The meanings of the management requests that configure and restore (chapter 9): SET_GEOMETRY (R171), SET_GROUP
(R172), SET_TIMEBASE (R175), SET_TIMERS (R176), SET_TENANT (R177), SET_STREAM (R178), SET_FILTER (R87), SEEK_UNITS (R179) and
LOAD_UNITS (R180).
-/

namespace Sys2Proof.Machine

/-- Take a management request of one kind at port M (R169, R170). -/
def State.onManagement (s : State) (kind : Nat) (act : Request → State → State) : Result :=
  s.onRequest .management (fun k => decide (k = kind)) act

/-! ## SET-GEOMETRY (R171) -/

/-- Whether a geometry is in range (R171, check 2). -/
def Geometry.inRange (g : Geometry) : Bool :=
  decide (1 ≤ g.dies ∧ g.dies ≤ 32) && decide (64 ≤ g.bpd ∧ g.bpd ≤ 2048) &&
  decide (64 ≤ g.pages ∧ g.pages ≤ 1024 ∧ g.pages % 64 = 0) && decide (g.dies * g.bpd ≤ Config.maxUnits)

/-- Whether the device state and the tables allow a new geometry (R171, check 1). -/
def State.mayRebuild (s : State) : Bool :=
  match s.mgmt.device with
  | .unconfigured => true
  | .halted =>
    s.streams.items.all (fun r => decide (r.state = .closed)) && s.units.all (fun u => decide (u.state ≠ .reclaim))
  | .running => false
  | .halting => false

/-- A unit record as SET-GEOMETRY builds it (R20). -/
def UnitRecord.blank : UnitRecord where
  state := .free
  tenant := none
  owner := none
  writePointer := 0
  programmed := 0
  valid := 0
  eraseCount := 0
  sealEpoch := none
  hold := .noHold
  short := false
  retirePending := false
  orderSlot := none
  suspendCount := none

/-- A die record as SET-GEOMETRY leaves it (R136). -/
def DieRecord.rebuilt (r : DieRecord) : DieRecord :=
  { r with
    state := if r.state = .faulted then .idle else r.state
    passOver := Table.replicate 7 0
    queue := []
    waiting := []
    windows := Table.replicate 4 .closed
    lapsed := Table.replicate 4 false }

/-- The free list of a die of a new geometry: all of its units in ascending order (R20). -/
def Geometry.freeList (g : Geometry) (d : DieId) : List Nat :=
  if d.val < g.dies then (List.range g.bpd).map (· + d.val * g.bpd) else []

/-- The replacement of the geometry, the unit table and the groups in one event (R171). -/
def State.rebuild (s : State) (g : Geometry) : State :=
  { s with
    units := List.replicate (g.dies * g.bpd) UnitRecord.blank
    freeLists := Table.tabulate g.freeList
    groups := Table.replicate 8 none
    reclaim := { s.reclaim with notices := Table.replicate 4 [] }
    dies := s.dies.map DieRecord.rebuilt
    mgmt := { s.mgmt with device := .halted, geometry := some g, cursor := 0 } }

/-- SET-GEOMETRY once it is taken (R171). -/
def setGeometryRequest (r : Request) (s : State) : State :=
  if s.mayRebuild then
    if r.geometry.inRange then
      r.answer (s.rebuild r.geometry) .ok (leBytes 2 (r.geometry.dies * r.geometry.bpd))
    else r.answer s .badConfig
  else r.answer s .wrongState

/-- SET_GEOMETRY (R171). -/
def execSetGeometry (s : State) : Result := s.onManagement kindSetGeometry setGeometryRequest

/-! ## SET-GROUP (R172, R173) -/

/-- Whether a die range shares a die with the range of another configured group (R172). -/
def State.rangeShared (s : State) (g : GroupId) (first last : Nat) : Bool :=
  (List.finRange 8).any (fun h => decide (h ≠ g) &&
    match s.config h with
    | some c => decide (c.first ≤ last ∧ first ≤ c.last)
    | none => false)

/-- The ranges that R172 tests, apart from the group number and the other groups. -/
def GroupRequest.inRange (q : GroupRequest) (dies bpd : Nat) : Bool :=
  decide (q.first ≤ q.last ∧ q.last < dies ∧ q.last + 1 - q.first ≤ 8) &&
  decide (1 ≤ q.reserve ∧ q.reserve ≤ 64) &&
  decide (q.reserve < q.low ∧ q.low < q.high ∧ q.high ≤ (q.last + 1 - q.first) * bpd) &&
  decide (q.low ≤ 16383 ∧ q.high ≤ 16384) &&
  decide (1 ≤ q.orderSlots ∧ q.orderSlots ≤ 4) && decide (q.suspendLimit ≤ 15) &&
  decide (1 ≤ q.allowance ∧ q.allowance ≤ 32) && decide (q.relocLevel ≤ 7)

/-- A group's configuration from a request in range (R172). -/
def GroupRequest.config (q : GroupRequest) : GroupConfig where
  first := q.first
  last := q.last
  reserve := q.reserve
  low := q.low
  high := q.high
  orderSlots := q.orderSlots
  suspendLimit := q.suspendLimit
  allowance := q.allowance
  relocLevel := relocLevelOf q.relocLevel

/-- The configuration's fields as a SET-GROUP reply carries them (R173; log entry 10). -/
def GroupRequest.body (q : GroupRequest) : List Byte :=
  packFields false [(1, q.group), (1, q.first), (1, q.last), (1, q.reserve), (2, q.low), (2, q.high),
    (1, q.orderSlots), (1, q.suspendLimit), (1, q.allowance), (1, q.relocLevel)]

/-- Whether a configured group's range changes while a stream that names the group is not CLOSED (R172). -/
def State.rangeHeld (s : State) (g : GroupId) (first last : Nat) : Bool :=
  match s.config g with
  | none => false
  | some c =>
    !(decide (c.first = first) && decide (c.last = last)) &&
    s.streams.items.any (fun r => decide (r.group = some g) && decide (r.state ≠ .closed))

/-- A group's configuration is replaced and its reclaim record rebuilt; then its activity is evaluated (R105, R173). -/
def State.setGroup (s : State) (g : GroupId) (c : GroupConfig) : State :=
  let s := s.resetOrders g
  { s with groups := s.groups.set g (some ⟨c, ReclaimRecord.fresh c.orderSlots⟩) }.evaluateActivity g

/-- SET-GROUP once it is taken (R172). -/
def setGroupRequest (r : Request) (s : State) : State :=
  let q := r.groupRequest
  if s.mgmt.device ≠ .halted then r.answer s .wrongState
  else match asFin 8 q.group with
  | none => r.answer s .badConfig
  | some g =>
    if q.inRange s.dieCount s.bpd && !s.rangeShared g q.first q.last then
      if s.rangeHeld g q.first q.last then r.answer s .wrongState
      else r.answer (s.setGroup g q.config) .ok q.body
    else r.answer s .badConfig

/-- SET_GROUP (R172). -/
def execSetGroup (s : State) : Result := s.onManagement kindSetGroup setGroupRequest

/-! ## Time base and timers -/

/-- Whether SET-TIMEBASE's values are in range (R175). -/
def Request.timebaseInRange (r : Request) : Bool :=
  (match r.tickLength with | some t => decide (10 ≤ t ∧ t ≤ 10000) | none => true) &&
  (match r.epochLength with | some e => decide (e ≠ 0) | none => true)

/-- The Time Base with new values (R175): a present tick length sets the divider and clears the divider count. -/
def TimeBase.set (t : TimeBase) (tickLength epochLength : Option Nat) : TimeBase :=
  { t with
    divider := (tickLength.map (· * 100)).getD t.divider
    dividerCount := if tickLength.isSome then 0 else t.dividerCount
    epochLength := epochLength.getD t.epochLength }

/-- SET-TIMEBASE once it is taken (R175). -/
def setTimebaseRequest (r : Request) (s : State) : State :=
  if r.timebaseInRange then
    let t := s.time.set r.tickLength r.epochLength
    r.answer { s with time := t } .ok (packFields false [(2, t.divider / 100), (2, t.epochLength)])
  else r.answer s .badConfig

/-- SET_TIMEBASE (R175). -/
def execSetTimebase (s : State) : Result := s.onManagement kindSetTimebase setTimebaseRequest

/-- The limits with the present values written, a 0 for T_order, T_window or T_op stored as 1 (R176). -/
def Limits.set (l : Limits) (r : Request) : Limits where
  port := (r.limit 0).getD l.port
  idle := (r.limit 1).getD l.idle
  order := ((r.limit 2).map (max 1)).getD l.order
  window := ((r.limit 3).map (max 1)).getD l.window
  op := ((r.limit 4).map (max 1)).getD l.op

/-- The five limits as a reply carries them (R176; log entry 10). -/
def Limits.body (l : Limits) : List Byte :=
  packFields false [(2, l.port), (2, l.idle), (2, l.order), (2, l.window), (2, l.op)]

/-- SET-TIMERS once it is taken (R176). -/
def setTimersRequest (r : Request) (s : State) : State :=
  let l := s.limits.set r
  r.answer { s with limits := l } .ok l.body

/-- SET_TIMERS (R176). -/
def execSetTimers (s : State) : Result := s.onManagement kindSetTimers setTimersRequest

/-! ## Tenants, streams and the filter -/

/-- A tenant's record and balance take new values (R75, R177): the balance is clamped to the ceiling, and metering turned off admits
the tenant's CREDIT entries. The examination that a refill has made due comes first (R73; log entry 43). -/
def State.setTenant (s : State) (t : Tenant) (metered : Bool) (rate ceiling : Nat) : State :=
  let s := (s.settleCredit t).modTenant t (fun r => { r with metered := metered, rate := rate, ceiling := ceiling })
  let s := s.modBalance t (fun b => min b ceiling)
  if metered then s else s.admitTenant t

/-- SET-TENANT once it is taken (R177). -/
def setTenantRequest (r : Request) (s : State) : State :=
  match r.tenant with
  | none => r.answer s .badRequest
  | some t =>
    match r.metering with
    | none => r.answer s .badConfig
    | some m =>
      if r.ceiling ≤ 16777215 then
        let s := s.setTenant t m r.rate r.ceiling
        r.answer s .ok (leBytes 4 (balanceWord (s.credit.balances.get t)).toNat)
      else r.answer s .badConfig

/-- SET_TENANT (R177). -/
def execSetTenant (s : State) : Result := s.onManagement kindSetTenant setTenantRequest

/-- The fields of a SET-STREAM after its check 3 (R178): tenant in byte 5, group in byte 6, relocation target in byte 7, profile in
bytes 8 to 10. -/
structure StreamRequest where
  tenant : Tenant
  group : Option GroupId
  target : StreamId
  profile : Profile
deriving DecidableEq, Repr

/-- Check 3 of R178. -/
def Request.streamRequest (r : Request) : Option StreamRequest :=
  match asFin 64 (r.byte 5), r.streamGroup, asFin 256 (r.byte 7), r.streamProfile with
  | some t, some g, some x, some p => some ⟨t, g, x, p⟩
  | _, _, _, _ => none

/-- Check 4 of R178, the tenant rules of R37. -/
def State.tenantMismatch (s : State) (st : StreamId) (q : StreamRequest) : Bool :=
  (decide (q.target ≠ st) && decide ((s.streams.get q.target).tenant ≠ q.tenant)) ||
  (decide (q.tenant ≠ (s.streams.get st).tenant) &&
    (List.finRange 256).any (fun x => decide (x ≠ st) && decide ((s.streams.get x).target = st)))

/-- A CLOSED stream takes its configuration; a change of relocation target wakes every group (R178). -/
def State.setStream (s : State) (st : StreamId) (q : StreamRequest) : State :=
  let old := (s.streams.get st).target
  let s := (s.modStream st (fun x => { x with tenant := q.tenant, group := q.group, target := q.target })).takeProfile
    st q.profile
  if old = q.target then s else s.wakeAll

/-- SET-STREAM once it is taken (R178). -/
def setStreamRequest (r : Request) (s : State) : State :=
  match asFin 256 r.first with
  | none => r.answer s .badRequest
  | some st =>
    if (s.streams.get st).state ≠ .closed then r.answer s .wrongState
    else match r.streamRequest with
    | none => r.answer s .badConfig
    | some q =>
      if s.tenantMismatch st q then r.answer s .tenantMismatch else r.answer (s.setStream st q) .ok

/-- SET_STREAM (R178). -/
def execSetStream (s : State) : Result := s.onManagement kindSetStream setStreamRequest

/-- SET-FILTER once it is taken (R87): compare in byte 4 and care in byte 5, of which the upper two bits are ignored. -/
def setFilterRequest (r : Request) (s : State) : State :=
  let s := { s with reclaim := { s.reclaim with
    compare := BitVec.ofNat 6 (r.byte 4)
    care := BitVec.ofNat 6 (r.byte 5) } }
  r.answer s.wakeAll .ok

/-- SET_FILTER (R87). -/
def execSetFilter (s : State) : Result := s.onManagement kindSetFilter setFilterRequest

/-! ## Restore -/

/-- SEEK-UNITS once it is taken (R179). -/
def seekUnitsRequest (r : Request) (s : State) : State :=
  if s.mgmt.device ≠ .halted then r.answer s .wrongState
  else if r.managedUnit < s.units.length then
    r.answer (s.modMgmt (fun m => { m with cursor := r.managedUnit })) .ok
  else r.answer s .badRequest

/-- SEEK_UNITS (R179). -/
def execSeekUnits (s : State) : Result := s.onManagement kindSeekUnits seekUnitsRequest

/-- A loaded seal epoch, taken down to the epoch counter (R21). -/
def State.loadedEpoch (s : State) (e : Word) : Word := if s.time.epoch.toNat < e.toNat then s.time.epoch else e

/-- A loaded record of an OPEN, SEALED or RECLAIM unit (R21, R190): SEALED and HELD, settled, with a seal epoch. -/
def LoadedRecord.toSealed (l : LoadedRecord) (pages : Nat) (epoch : Word) (t : Tenant) : UnitRecord :=
  let programmed := min l.programmed (min l.writePointer pages)
  { state := .sealed
    tenant := some t
    owner := some (Fin.ofNat 256 l.owner)
    writePointer := programmed
    programmed := programmed
    valid := min l.valid programmed
    eraseCount := l.eraseCount
    sealEpoch := some epoch
    hold := .held
    short := decide (programmed < pages)
    retirePending := l.retirePending
    orderSlot := none
    suspendCount := none }

/-- A loaded record in a state without tenant (R21, R190), with its counts brought into order. -/
def LoadedRecord.toPlain (l : LoadedRecord) (pages : Nat) (st : UnitState) : UnitRecord :=
  let pointer := min l.writePointer pages
  let programmed := min l.programmed pointer
  { UnitRecord.blank with
    state := st
    writePointer := pointer
    programmed := programmed
    valid := if st = .retired then min l.valid programmed else 0
    eraseCount := l.eraseCount
    short := decide (st = .retired) && l.short
    retirePending := l.retirePending }

/-- The record a loaded record becomes (R21), or none where it fails the first test of R180. -/
def State.loadedUnit (s : State) (l : LoadedRecord) : Option UnitRecord :=
  match unitStateOf l.stateCode with
  | none => none
  | some .free => some { UnitRecord.blank with eraseCount := l.eraseCount }
  | some .opened => (asFin 64 l.tenant).map (l.toSealed s.pages s.time.epoch)
  | some .sealed => (asFin 64 l.tenant).map (l.toSealed s.pages (s.loadedEpoch l.sealEpoch))
  | some .reclaim => (asFin 64 l.tenant).map (l.toSealed s.pages (s.loadedEpoch l.sealEpoch))
  | some .erasing => some (l.toPlain s.pages .unknown)
  | some .unknown => some (l.toPlain s.pages .unknown)
  | some .retired => some (l.toPlain s.pages .retired)

/-- Whether a unit's record may not be rewritten: it is OPEN or RECLAIM, or SEALED and not settled (R180). -/
def UnitRecord.locked (r : UnitRecord) : Bool :=
  decide (r.state = .opened) || decide (r.state = .reclaim) || (decide (r.state = .sealed) && !r.settled)

/-- A loaded record is applied to a unit (R21): the unit leaves its lists, its record is replaced, and it joins its free list or its die's
waiting units. A hold that returns to NONE wakes the group (R17, R19, R92). DEDUCED (log entry 35): a record applied as SEALED wakes none. -/
def State.applyRecord (s : State) (u : Nat) (r : UnitRecord) : State :=
  let s := ((s.removeFree u).leaveYoung u).dropBackground u
  let s := s.replaceUnit u r
  let s := match r.state with
    | .free => s.insertFree u
    | .unknown => s.handBackground u
    | _ => s
  s.reportCounts u

/-- What the reply carries for one record of LOAD-UNITS: the unit, the status, and the state given (R180). -/
structure LoadOutcome where
  unit : Nat
  status : Status
  state : Nat
deriving DecidableEq, Repr

/-- The restore cursor after a record, wrapping from the last unit to 0 (R179). -/
def State.advanceCursor (s : State) : State :=
  s.modMgmt (fun m => { m with cursor := if m.cursor + 1 < s.units.length then m.cursor + 1 else 0 })

/-- Apply one loaded record at the restore cursor, which then advances (R180). -/
def State.loadRecord (s : State) (l : LoadedRecord) : State × LoadOutcome :=
  let u := s.mgmt.cursor
  match s.loadedUnit l, s.unit? u with
  | none, _ => (s.advanceCursor, ⟨u, .badConfig, 0⟩)
  | some r, some old =>
    if old.locked then (s.advanceCursor, ⟨u, .wrongState, 0⟩)
    else ((s.applyRecord u r).advanceCursor, ⟨u, .ok, r.state.code⟩)
  | some _, none => (s.advanceCursor, ⟨u, .wrongState, 0⟩)

/-- The records of a request applied in order, with their outcomes. -/
def State.loadRecords : State → List LoadedRecord → State × List LoadOutcome
  | s, [] => (s, [])
  | s, l :: ls =>
    let (s, o) := s.loadRecord l
    let (s, os) := State.loadRecords s ls
    (s, o :: os)

/-- The reply status: that of the first record that is not OK, else OK (R180). -/
def loadStatus (os : List LoadOutcome) : Status :=
  ((os.find? (fun o => decide (o.status ≠ .ok))).map (·.status)).getD .ok

/-- The body of a LOAD-UNITS reply: unit, status and state for each record, then the cursor (R180; log entry 10). -/
def loadBody (os : List LoadOutcome) (cursor : Nat) : List Byte :=
  packFields false (os.flatMap (fun o => [(2, o.unit), (1, o.status.code), (1, o.state)]) ++ [(2, cursor)])

/-- LOAD-UNITS once it is taken (R180). -/
def loadUnitsRequest (r : Request) (s : State) : State :=
  if s.mgmt.device ≠ .halted then r.answer s .wrongState
  else if r.count = 0 ∨ 2 < r.count then r.answer s .badRequest
  else
    let (s, os) := s.loadRecords r.loadedRecords
    r.answer s (loadStatus os) (loadBody os s.mgmt.cursor)

/-- LOAD_UNITS (R180). -/
def execLoadUnits (s : State) : Result := s.onManagement kindLoadUnits loadUnitsRequest

end Sys2Proof.Machine
end

