-- ==== Sys2Proof/Machine/DieCommands.lean ====
section
/-!
DEFINITION. The meanings of the part's own commands of reclaim, the dies and the link: SEARCH_EXAMINE (R90), ORDER_ISSUE (R94),
ARBITRATE (R116), QUEUE_FILL (R113), WAITING_DIE_OFFER (R140) and DESCRIPTOR_SEND (R141).
-/

namespace Sys2Proof.Machine

/-! ## Reclaim -/

/-- SEARCH_EXAMINE (R90): an IDLE group that may begins a search, and a search in progress examines the record at its cursor; after
the highest unit the search ends (R91). -/
def execSearchExamine (g : GroupId) (s : State) : Result :=
  match s.groups.get g with
  | none => .next s
  | some r =>
    if s.startsSearch r.reclaim then
      .next (s.modReclaim g (fun k => s.searchStep r.config (k.begin (r.config.first * s.bpd))))
    else if r.reclaim.search = .searching ∧ r.reclaim.chosen = none then
      .next (s.modReclaim g (fun k => s.searchStep r.config k))
    else .next s

/-- What a checked candidate's order is issued with: the unit, its tenant, the target stream and the port to which the target is
bound (R94). -/
structure IssuePlan where
  unit : Nat
  tenant : Tenant
  target : StreamId
  port : MasterId
deriving DecidableEq, Repr

/-- The plan for a unit in no young list (R38) that the Unit Table accepts (R10) and whose route is still usable, or none: the move is
requested only for a unit in no young list, as it stands when the move is asked for (log entry 15). -/
def State.issuePlan (s : State) (u : Nat) : Option IssuePlan :=
  match s.unit? u with
  | none => none
  | some r =>
    if r.movable && (s.youngOwner u).isNone then
      match r.tenant, s.usableRoute r with
      | some t, some st => ((s.streams.get st).port).map (fun p => ⟨u, t, st, p⟩)
      | _, _ => none
    else none

/-- An order is issued (R94): the unit moves to RECLAIM, the slot takes the order PENDING with the next order number, the search is
IDLE, and the RELOCATE-ORDER notice is offered. -/
def State.issueOrder (s : State) (g : GroupId) (k : OrderSlotId) (q : IssuePlan) : State :=
  let s := s.moveToReclaim q.unit k
  let number := s.reclaim.orderNumber
  let s := { s with reclaim := { s.reclaim with orderNumber := number + 1 } }
  let s := s.modReclaim g ReclaimRecord.toIdle
  (s.setOrder ⟨g, k⟩ (some ⟨q.unit, q.tenant, q.target, q.port, number, .pending⟩)).offerNotice q.port ⟨g, k⟩

/-- ORDER_ISSUE (R94): the candidate that has passed its check is moved to RECLAIM, or the move is refused and the search state
becomes IDLE (R91). While the Reclaim Controller may not issue, no unit is moved, and where activity or issuing has stopped since the search
began its result is discarded (R84, R85; log entry 31). -/
def execOrderIssue (g : GroupId) (s : State) : Result :=
  match s.reclaimOf g with
  | none => .next s
  | some r =>
    match r.chosen, r.candidate with
    | some k, some c =>
      if s.mayIssue && !r.discard then
        match s.issuePlan c.unit with
        | some q => .next (s.issueOrder g k q)
        | none => .next (s.modReclaim g ReclaimRecord.toIdle)
      else .next (s.modReclaim g ReclaimRecord.toIdle)
    | _, _ => .next s

/-! ## Dies -/

/-- ARBITRATE (R116) of an IDLE die. -/
def execArbitrate (d : DieId) (s : State) : Result :=
  if (s.dies.get d).state = .idle then .next (s.arbitrateDie d false) else .next s

/-- QUEUE_FILL (R113). -/
def execQueueFill (d : DieId) (s : State) : Result := .next (s.fillQueue d)

/-! ## The link -/

/-- A die in ERASE makes its decision again (R128, R140): a pending abandonment hands its SUSPEND over; otherwise a suspension to serve
is requested. DEDUCED (log entry 38): the die still wants it while any window waits or any page is eligible, whichever of them was the trigger
and even where it is gone. -/
def State.offerErase (s : State) (d : DieId) : State :=
  let r := s.dies.get d
  match r.purpose, r.erasingUnit with
  | some .abandon, some u => s.suspendToAbandon d u
  | _, _ => if r.windowWaiting || s.hasEligible d then s.trigger d true else s

/-- A die that is offered a place and a tag makes its decision again from its state as it stands (R140). -/
def State.offerDie (s : State) (d : DieId) : State :=
  match (s.dies.get d).state with
  | .idle => s.arbitrateDie d true
  | .erase => s.offerErase d
  | .suspended => s.serveDie d true
  | .program => s
  | .suspending => s
  | .check => s
  | .faulted => s

/-- WAITING_DIE_OFFER (R140): the die at the head of the list is offered a place and a tag that are free, and leaves the list. -/
def execWaitingDieOffer (s : State) : Result :=
  match s.link.waiting with
  | [] => .next s
  | d :: rest =>
    if s.link.hasPlace then .next ({ s with link := { s.link with waiting := rest } }.offerDie d) else .next s

/-- The table with the phase of one tag SENT (R139). -/
def Link.markSent (l : Link) (t : Byte) : List TagEntry :=
  l.tags.map (fun e => if e.tag = t then { e with phase := .sent } else e)

/-- DESCRIPTOR_SEND (R141): with the link ready, the descriptor at the head of the queue is sent and its tag entry becomes SENT. -/
def execDescriptorSend (s : State) : Result :=
  match s.link.queue with
  | [] => .next s
  | x :: rest =>
    .next { s with link := { s.link with
      queue := rest
      tags := s.link.markSent x.tag
      lastSent := x.encode } }

end Sys2Proof.Machine
end

