-- ==== Sys2Proof/Machine/Lines.lean ====
section
/-!
DEFINITION. The meanings of the line commands: DEVICE_RESET (R185), PLW_N_ASSERTED (R128) and PLW_N_DEASSERTED (R129).
-/

namespace Sys2Proof.Machine

/-- DEVICE_RESET (R185): every block takes its reset values. The input lines keep their levels, and PLW_N found asserted is taken
as an assertion at that moment. The commands that wait are the drive's and stay. -/
def execDeviceReset (s : State) : Result :=
  let r := { State.reset with inputs := s.inputs, pending := s.pending }
  .next (if s.plwAsserted then r.flagPlw else r)

/-- One die's response to PLW_N asserted (R128), less the units of its queue and waiting list. -/
def State.plwDie (s : State) (d : DieId) : State :=
  let r := s.dies.get d
  match r.state, r.erasingUnit with
  | .erase, some u =>
    if s.mayHandOver false then s.suspendToAbandon d u
    else (s.modDie d (fun r => { r with purpose := some .abandon })).joinWaiting d
  | .suspended, some _ => s.abandonErase d
  | _, _ => s

/-- The ERASING units of a die that are queued or waiting become UNKNOWN waiting units, and the ERASE entries leave the queue
(R128). -/
def State.plwQueue (s : State) (d : DieId) : State :=
  let r := s.dies.get d
  let queued := (r.queue.filter (fun e => decide (e.kind = .erase))).map (·.unit)
  let s := s.modDie d (fun r => { r with
    queue := r.queue.filter (fun e => decide (e.kind ≠ .erase))
    waiting := queued.foldr insertNat r.waiting })
  s.abandonUnits (queued ++ r.waiting)

/-- Issuing stops: every search in progress runs to its end, and its result is discarded (R85). -/
def State.stopIssue (s : State) : State :=
  { s with groups := s.groups.map (Option.map (fun r => { r with reclaim := r.reclaim.stop })) }

/-- PLW_N_ASSERTED (R85, R128). A line that is asserted already is not asserted again. -/
def execPlwNAsserted (s : State) : Result :=
  if s.plwAsserted then .next s
  else
    let s := { s with inputs := { s.inputs with plwN := .low } }
    let s := s.flagPlw.stopIssue
    .next ((List.finRange 32).foldl (fun s d => (s.plwDie d).plwQueue d) s)

/-- Every WAITING group goes to IDLE, as issuing becomes possible again (R85). -/
def State.issueAgain (s : State) : State :=
  if s.mayIssue then
    { s with groups := s.groups.map (Option.map (fun r =>
        { r with reclaim := if r.reclaim.search = .waiting then r.reclaim.toIdle else r.reclaim })) }
  else s

/-- Fill every die's background queue from its waiting units, as far as the queues are open (R113). -/
def State.fillQueues (s : State) : State := (List.finRange 32).foldl State.fillQueue s

/-- PLW_N_DEASSERTED (R129). -/
def execPlwNDeasserted (s : State) : Result :=
  if s.plwAsserted then
    let s := { s with inputs := { s.inputs with plwN := .high } }
    .next s.fillQueues.issueAgain
  else .next s

end Sys2Proof.Machine
end

