-- ==== Sys2Proof/Machine/WindowRequests.lean ====
section
/-!
DEFINITION. The meanings of the read window commands (section 6.7): READ_WINDOW and WINDOW_GRANT (R125), and END_WINDOW (R126).
-/

namespace Sys2Proof.Machine

/-- The die a window request names, where it is configured (R125, R126). -/
def State.configuredDie (s : State) (d : Nat) : Option DieId :=
  if d < s.dieCount then asFin 32 d else none

/-- The die states in which a read window is granted at once (R125). -/
def DieState.grantsWindow : DieState → Bool
  | .idle => true
  | .program => true
  | .suspended => true
  | .faulted => true
  | .erase => false
  | .suspending => false
  | .check => false

/-- Write one port's window entry on a die, with its lapsed flag cleared (R125). -/
def State.setWindow (s : State) (d : DieId) (p : MasterId) (w : Window) : State :=
  s.modDie d (fun r => { r with windows := r.windows.set p w, lapsed := r.lapsed.set p false })

/-- READ-WINDOW once it is taken (R125): granted at once, or left WAITING, which is a trigger for a die in ERASE (R121). -/
def readWindowRequest (p : MasterId) (r : Request) (s : State) : State :=
  match s.configuredDie r.windowDie with
  | none => r.answer s .badRequest
  | some d =>
    match (s.dies.get d).windows.get p with
    | .closed =>
      if (s.dies.get d).state.grantsWindow then
        r.answer (s.setWindow d p (.opened s.windowTicks)) .granted
      else (s.setWindow d p (.waiting ⟨r.slot, r.tag⟩)).trigger d false
    | _ => r.answer s .busy

/-- READ_WINDOW (R125). -/
def execReadWindow (p : MasterId) (s : State) : Result :=
  s.onRequest (.master p) (fun k => decide (k = kindReadWindow)) (readWindowRequest p)

/-- WINDOW_GRANT (R125): every WAITING window of a die that does not run an erase or check is granted. -/
def execWindowGrant (d : DieId) (s : State) : Result :=
  if (s.dies.get d).state.grantsWindow then .next (s.grantWindows d) else .next s

/-- END-WINDOW once it is taken (R126); a SUSPENDED die re-evaluates as a window closes (R127). -/
def endWindowRequest (p : MasterId) (r : Request) (s : State) : State :=
  match s.configuredDie r.windowDie with
  | none => r.answer s .badRequest
  | some d =>
    match (s.dies.get d).windows.get p with
    | .opened _ =>
      r.answer (s.modDie d (fun x => { x with windows := x.windows.set p .closed })).serveSuspended .ok
    | .waiting _ => r.answer s .busy
    | .closed =>
      if (s.dies.get d).lapsed.get p then
        r.answer (s.modDie d (fun x => { x with lapsed := x.lapsed.set p false })) .tooLate
      else r.answer s .stale

/-- END_WINDOW (R126). -/
def execEndWindow (p : MasterId) (s : State) : Result :=
  s.onRequest (.master p) (fun k => decide (k = kindEndWindow)) (endWindowRequest p)

end Sys2Proof.Machine
end

