-- ==== Sys2Proof/Machine/Management.lean ====
section
/-!
DEFINITION. The meanings of the management requests that read back and steer the part (chapter 9): READ_UNIT, READ_STREAM and
READ_TENANT (R181), GET_STATUS (R182), CLEAR_STATUS (R184), RUN (R167), HALT and HALT_COMPLETE (R168), FENCE_PORT (R162),
REVIVE_PORT (R163), CLEAR_DIE_FAULT (R133), CANCEL_ORDERS (R103) and UNKNOWN_MGMT_REQUEST (R170).
-/

namespace Sys2Proof.Machine

/-! ## Reading back -/

/-- The words of a READ-UNIT reply beyond the record: the young list, and where an ERASING or UNKNOWN unit stands (R181). -/
def State.readUnitWords (s : State) (u : Nat) : List Word := s.youngWords u ++ [optionWord (s.unitPlace u)]

/-- READ-UNIT once it is taken (R181, R190). -/
def readUnitRequest (r : Request) (s : State) : State :=
  if s.mgmt.device = .unconfigured then r.answer s .wrongState
  else match s.unit? r.managedUnit with
  | none => r.answer s .badRequest
  | some x =>
    let words := s.readUnitWords r.managedUnit
    r.answer s .ok (unitBody r.managedUnit x words.length) words

/-- READ_UNIT (R181). -/
def execReadUnit (s : State) : Result := s.onManagement kindReadUnit readUnitRequest

/-- READ-STREAM once it is taken (R181). -/
def readStreamRequest (r : Request) (s : State) : State :=
  match asFin 256 r.first with
  | none => r.answer s .badRequest
  | some st => r.answer s .ok (countBody (s.streamWords st)) (s.streamWords st)

/-- READ_STREAM (R181). -/
def execReadStream (s : State) : Result := s.onManagement kindReadStream readStreamRequest

/-- READ-TENANT once it is taken (R181). -/
def readTenantRequest (r : Request) (s : State) : State :=
  match asFin 64 r.first with
  | none => r.answer s .badRequest
  | some t => r.answer s .ok (countBody (s.tenantWords t)) (s.tenantWords t)

/-- READ_TENANT (R181). -/
def execReadTenant (s : State) : Result := s.onManagement kindReadTenant readTenantRequest

/-- GET-STATUS once it is taken, with RETAIN_N at a level: section in byte 4, index in byte 5 (R182, R188). -/
def getStatusRequest (level : LineLevel) (r : Request) (s : State) : State :=
  let s := { s with inputs := { s.inputs with retainN := level } }
  match s.statusWords r.first (r.byte 5) with
  | none => r.answer s .badRequest
  | some words => r.answer s .ok (countBody words) words

/-- GET_STATUS (R182). -/
def execGetStatus (level : LineLevel) (s : State) : Result :=
  s.onManagement kindGetStatus (getStatusRequest level)

/-- CLEAR-STATUS once it is taken (R184): the reply carries the sticky status as it stood, and every item is cleared. That its words lie
in the address list with their number in bytes 8 and 9, as in the replies that report tables, is the model's choice (log entry 33). -/
def clearStatusRequest (r : Request) (s : State) : State :=
  let words := s.mgmt.sticky.words
  r.answer (s.modSticky (fun _ => Sticky.reset)) .ok (countBody words) words

/-- CLEAR_STATUS (R184). -/
def execClearStatus (s : State) : Result := s.onManagement kindClearStatus clearStatusRequest

/-! ## RUN and HALT -/

/-- Whether some group is configured and every configured die lies in one (R167). -/
def State.allDiesGrouped (s : State) : Bool :=
  s.groups.items.any Option.isSome && (List.range s.dieCount).all (fun d => (s.groupOfDie d).isSome)

/-- Set the device state. -/
def State.setDevice (s : State) (d : DeviceState) : State := s.modMgmt (fun m => { m with device := d })

/-- The part goes to RUNNING (R167): the queues are filled, WAITING groups go to IDLE, and the waiting work is examined. -/
def State.startRunning (s : State) : State :=
  ((s.setDevice .running).fillQueues.issueAgain.examineWork (fun _ => true)).serveSuspended

/-- RUN once it is taken (R167). -/
def runRequest (r : Request) (s : State) : State :=
  if s.mgmt.device ≠ .halted then r.answer s .wrongState
  else if s.allDiesGrouped then r.answer s.startRunning .ok
  else r.answer s .badConfig

/-- RUN (R167). -/
def execRun (s : State) : Result := s.onManagement kindRun runRequest

/-- The body of a HALT reply: the tick counter (R168; log entry 10). -/
def State.haltBody (s : State) : List Byte := leBytes 4 s.time.tick.toNat

/-- A halt ends (R168): the state is HALTED and the HALT reply is written. DEDUCED (log entry 39): the reply of a halt that ends at once
carries the tick counter too. -/
def State.endHalt (s : State) (pl : Pledge) : State :=
  ((s.setDevice .halted).modMgmt (fun m => { m with haltReply := none })).reply .management pl.slot kindHalt pl.tag .ok
    s.haltBody []

/-- A halt begins (R85, R134, R168): issuing stops, the request keeps its reply slot, SUSPENDED dies decide again, and the halt ends at once when every
configured die is at rest. -/
def State.startHalt (s : State) (pl : Pledge) : State :=
  let rest := s.allAtRest
  let s := (s.stopIssue.setDevice .halting).modMgmt (fun m => { m with haltReply := some pl })
  if rest then s.endHalt pl else s.serveSuspended

/-- HALT once it is taken (R168). -/
def haltRequest (r : Request) (s : State) : State :=
  match s.mgmt.device with
  | .running => s.startHalt ⟨r.slot, r.tag⟩
  | .halting => r.answer s .busy
  | .halted => r.answer s .wrongState
  | .unconfigured => r.answer s .wrongState

/-- HALT (R168). -/
def execHalt (s : State) : Result := s.onManagement kindHalt haltRequest

/-- HALT_COMPLETE (R168): every configured die is at rest while the state is HALTING. -/
def execHaltComplete (s : State) : Result :=
  match s.mgmt.haltReply with
  | some pl => if s.mgmt.device = .halting ∧ s.allAtRest then .next (s.endHalt pl) else .next s
  | none => .next s

/-! ## Ports, dies and orders -/

/-- FENCE-PORT once it is taken (R162). An inactivity fence that a tick has made due on the port comes first, and the request is then
refused. -/
def fencePortRequest (r : Request) (s : State) : State :=
  match r.masterPort with
  | none => r.answer s .badRequest
  | some p =>
    let s := s.dueFence p
    if (s.masters.get p).state = .fenced then r.answer s .wrongState
    else r.answer (s.fence p .management) .ok

/-- FENCE_PORT (R162). -/
def execFencePort (s : State) : Result := s.onManagement kindFencePort fencePortRequest

/-- A FENCED port returns to ACTIVE (R163): its ring is empty, its inactivity count 0, and its fence cause and index refusals are
kept. -/
def State.revive (s : State) (p : MasterId) : State :=
  s.modMaster p (fun m => { m with state := .active, ring := m.ring.emptied, inactivity := 0, fenceDue := false })

/-- REVIVE-PORT once it is taken (R163). An inactivity fence that a tick has made due on the port comes first. -/
def revivePortRequest (r : Request) (s : State) : State :=
  match r.masterPort with
  | none => r.answer s .badRequest
  | some p =>
    let s := s.dueFence p
    if (s.masters.get p).state = .active then r.answer s .wrongState
    else r.answer (s.revive p) .ok

/-- REVIVE_PORT (R163). -/
def execRevivePort (s : State) : Result := s.onManagement kindRevivePort revivePortRequest

/-- A FAULTED die returns to IDLE (R133): its queue is filled, its group is woken (R92), and the group's waiting work is examined
(R55). -/
def State.clearFault (s : State) (d : DieId) : State :=
  let s := s.modDie d (fun r => { r with
    state := .idle
    backlogs := Table.replicate 7 []
    passOver := Table.replicate 7 0
    queue := [] })
  let s := s.fillQueue d
  match s.groupOfDie d.val with
  | some g => ((s.wakeGroup g).examineGroup g).serveSuspended
  | none => s

/-- CLEAR-DIE-FAULT once it is taken (R133). -/
def clearDieFaultRequest (r : Request) (s : State) : State :=
  match s.configuredDie r.first with
  | none => r.answer s .badRequest
  | some d =>
    if (s.dies.get d).state = .faulted then r.answer (s.clearFault d) .ok else r.answer s .wrongState

/-- CLEAR_DIE_FAULT (R133). -/
def execClearDieFault (s : State) : Result := s.onManagement kindClearDieFault clearDieFaultRequest

/-- CANCEL-ORDERS once it is taken (R103): the reply carries the number of orders withdrawn and the number cancelled (log
entry 10). -/
def cancelOrdersRequest (r : Request) (s : State) : State :=
  if s.mgmt.device = .unconfigured then r.answer s .wrongState
  else
    let withdrawn := s.countOrders 1
    let cancelled := s.countOrders 2
    r.answer (allSlots.foldl State.cancelSlot s) .ok (leBytes 1 withdrawn ++ leBytes 1 cancelled)

/-- CANCEL_ORDERS (R103). -/
def execCancelOrders (s : State) : Result := s.onManagement kindCancelOrders cancelOrdersRequest

/-- UNKNOWN_MGMT_REQUEST (R170). -/
def execUnknownMgmtRequest (s : State) : Result :=
  s.onRequest .management (fun k => !isManagementKind k) (fun r s => r.answer s .badRequest)

end Sys2Proof.Machine
end

