-- ==== Sys2Proof/Machine/PortMemory.lean ====
section
/-!
DEFINITION. The meanings of the commands that write port memory: REQUEST_TAIL_WRITE (R151), REPLY_HEAD_WRITE (R155),
OTHER_MEMORY_WRITE (R187), and the notices that a freed slot lets through, NOTICE_WRITE (R158).
-/

namespace Sys2Proof.Machine

/-- A refused index write: the index refusals count rises, saturating (R150). -/
def Ring.refuse (r : Ring) : Ring := { r with refusals := min Config.count16 (r.refusals + 1) }

/-- An index word as a master has written it: byte 0 and the bytes of the word that the write carries after it. The memory holds what was
last written, whether or not the part takes the index (R187; log entry 6). -/
def Ring.holdIndex (r : Ring) (offset : Nat) (w : IndexWrite) : Ring :=
  { r with mem := r.mem.write offset (w.index :: w.rest.take 3) }

/-- The request tail write on a ring in service (R151): the value is taken as the tail, or refused and counted. -/
def Ring.writeTail (r : Ring) (value : Byte) : Ring :=
  let v := value.setWidth 6
  if (v - r.requestHead).toNat ≤ Config.requestSlots then { r with requestTail := v } else r.refuse

/-- REQUEST_TAIL_WRITE (R151, R169). A write while the port is FENCED is not taken and not counted; a fence that a tick has made due comes
before the write (R159; log entry 41). -/
def execRequestTailWrite (p : PortId) (value : IndexWrite) (s : State) : Result :=
  let s := s.settlePort p
  let s := s.modRing p (fun r => r.holdIndex requestTailOffset value)
  if s.inService p then .next (s.modRing p (fun r => r.writeTail value.index)) else .next s

/-- The passed slots of a class. -/
def Ring.passedOf (r : Ring) (advance : Nat) (cls : SlotClass) : Nat :=
  ((r.passed advance).filter (fun c => decide (c = cls))).length

/-- A reply head write that is taken: the head moves and the records passed are released (R155). -/
def Ring.advanceHead (r : Ring) (w : BitVec 7) : Ring :=
  let n := (w - r.replyHead).toNat
  { r with
    replyHead := w
    replyHoldings := r.replyHoldings - r.passedOf n .reply
    noticeHoldings := r.noticeHoldings - r.passedOf n .notice }

/-- A freed notice slot of a master port lets its waiting notices be written in the same event (R155, R158). -/
def State.noticesFreed (s : State) : PortId → State
  | .master p => State.flushNotices Config.noticeLimit s p
  | .management => s

/-- A taken head write sets a master port's inactivity count to 0 (R155). -/
def State.heard (s : State) : PortId → State
  | .master p => s.modMaster p (fun m => { m with inactivity := 0 })
  | .management => s

/-- REPLY_HEAD_WRITE (R155, R169). A write while the port is FENCED is not taken and not counted; a fence that a tick has made due comes
before the write (R159; log entry 41). -/
def execReplyHeadWrite (p : PortId) (value : IndexWrite) (s : State) : Result :=
  let s := s.settlePort p
  let s := s.modRing p (fun r => r.holdIndex replyHeadOffset value)
  if s.inService p then
    let r := s.ring p
    let w := value.index.setWidth 7
    if (w - r.replyHead).toNat ≤ r.unread then
      .next (((s.modRing p (fun r => r.advanceHead w)).heard p).noticesFreed p)
    else .next (s.modRing p Ring.refuse)
  else .next s

/-- Whether a run of bytes includes byte 0 of the request tail word or of the reply head word, whose write is an event of its own
(R187). -/
def touchesIndex (offset n : Nat) : Bool :=
  decide (offset ≤ requestTailOffset ∧ requestTailOffset < offset + n) ||
  decide (offset ≤ replyHeadOffset ∧ replyHeadOffset < offset + n)

/-- OTHER_MEMORY_WRITE (R187): the memory takes the bytes, and no index, holding or record changes. A write past the block faults;
a write that includes an index byte is the index command's event, not this one's (log entry 4). -/
def execOtherMemoryWrite (p : PortId) (offset : Nat) (bytes : List Byte) (s : State) : Result :=
  if Config.portBytes < offset + bytes.length then .fault (.outsidePortMemory offset)
  else if touchesIndex offset bytes.length then .next s
  else .next (s.modRing p (fun r => { r with mem := r.mem.writeByMaster offset offset bytes }))

/-- NOTICE_WRITE (R158): the oldest notice that waits for a port is written, when a notice slot is free. -/
def execNoticeWrite (p : MasterId) (s : State) : Result := .next (s.writeOldest p)

end Sys2Proof.Machine
end

