-- ==== Sys2Proof/Machine/StreamRequests.lean ====
section
/-!
DEFINITION. The meanings of the stream requests of a master (chapter 2): OPEN_STREAM (R26), CLOSE_STREAM (R27), DRAIN_STREAM
(R28), DRAIN_END (R29), RESUME_STREAM (R30) and SET_PROFILE (R34).
-/

namespace Sys2Proof.Machine

/-- Set a stream's last activity tick (R25). -/
def State.touchStream (s : State) (st : StreamId) : State :=
  s.modStream st (fun r => { r with lastActivity := s.time.tick })

/-- The checks of R24 on a request that names a stream: the stream bound to the requesting port, or the status of the refusal. -/
def State.boundStream (s : State) (p : MasterId) (r : Request) : Except Status StreamId :=
  match r.stream with
  | none => .error .badStream
  | some st => if (s.streams.get st).port = some p then .ok st else .error .notBound

/-- A stream request after the checks of R24: a refusal is answered at once; otherwise the last activity tick is set and the request
goes on to its own rule (R24, R25). -/
def State.onBoundStream (s : State) (p : MasterId) (r : Request) (act : StreamId → State → State) : State :=
  match s.boundStream p r with
  | .error e => r.answer s e
  | .ok st => act st (s.touchStream st)

/-- Open a stream and bind it to a port; the opening is reported to every group (R26, R92). -/
def State.openStream (s : State) (p : MasterId) (st : StreamId) : State :=
  ((s.touchStream st).modStream st (fun r => { r with state := .opened, port := some p })).wakeAll

/-- OPEN-STREAM once it is taken (R26). -/
def openStreamRequest (p : MasterId) (r : Request) (s : State) : State :=
  match r.stream with
  | none => r.answer s .badStream
  | some st =>
    let x := s.streams.get st
    if x.state.bound then
      if x.port = some p then r.answer s .streamState else r.answer s .boundElsewhere
    else if s.placeable st then r.answer (s.openStream p st) .ok
    else r.answer s .badStream

/-- OPEN_STREAM (R26). -/
def execOpenStream (p : MasterId) (s : State) : Result :=
  s.onRequest (.master p) (fun k => decide (k = kindOpenStream)) (openStreamRequest p)

/-- Close a stream: short-seal its open units, empty its young list and unbind it (R27). -/
def State.closeStream (s : State) (st : StreamId) : State :=
  ((s.sealAllSlots st).emptyYoung st).modStream st (fun r => { r with state := .closed, port := none })

/-- Whether CLOSE-STREAM closes a stream: it is QUIESCED, or OPEN with no outstanding request (R27). -/
def StreamRecord.closable (r : StreamRecord) : Bool :=
  decide (r.state = .quiesced) || (decide (r.state = .opened) && decide (r.outstanding = 0))

/-- CLOSE-STREAM once it is taken (R24, R27). -/
def closeStreamRequest (p : MasterId) (r : Request) (s : State) : State :=
  s.onBoundStream p r (fun st s =>
    if (s.streams.get st).closable then r.answer (s.closeStream st) .ok else r.answer s .streamState)

/-- CLOSE_STREAM (R27). -/
def execCloseStream (p : MasterId) (s : State) : Result :=
  s.onRequest (.master p) (fun k => decide (k = kindCloseStream)) (closeStreamRequest p)

/-- An OPEN stream becomes DRAINING: the request keeps its reply slot, and the stream's CREDIT entries are admitted (R28, R79), those left
by the examination that a refill has made due (R79; log entry 43). -/
def State.startDrain (s : State) (st : StreamId) (pl : Pledge) : State :=
  ((s.settleCredit (s.streams.get st).tenant).modStream st (fun r => { r with state := .draining, drain := some pl })).admitStream st

/-- DRAIN-STREAM once it is taken (R24, R28): with no outstanding request the drain ends at once. -/
def drainStreamRequest (p : MasterId) (r : Request) (s : State) : State :=
  s.onBoundStream p r (fun st s =>
    if (s.streams.get st).state = .opened then
      let s := s.startDrain st ⟨r.slot, r.tag⟩
      if (s.streams.get st).outstanding = 0 then s.endDrain st else s
    else r.answer s .streamState)

/-- DRAIN_STREAM (R28). -/
def execDrainStream (p : MasterId) (s : State) : Result :=
  s.onRequest (.master p) (fun k => decide (k = kindDrainStream)) (drainStreamRequest p)

/-- DRAIN_END (R29) of a DRAINING stream whose outstanding request count is 0. -/
def execDrainEnd (st : StreamId) (s : State) : Result :=
  let r := s.streams.get st
  if r.state = .draining ∧ r.outstanding = 0 then .next (s.endDrain st) else .next s

/-- RESUME-STREAM once it is taken (R24, R30): the opening is reported to every group (R92). -/
def resumeStreamRequest (p : MasterId) (r : Request) (s : State) : State :=
  s.onBoundStream p r (fun st s =>
    if (s.streams.get st).state = .quiesced then
      r.answer (s.modStream st (fun x => { x with state := .opened })).wakeAll .ok
    else r.answer s .streamState)

/-- RESUME_STREAM (R30). -/
def execResumeStream (p : MasterId) (s : State) : Result :=
  s.onRequest (.master p) (fun k => decide (k = kindResumeStream)) (resumeStreamRequest p)

/-- The three cases of R34: at once on a stream with no open unit; after the seals of seal-now; or stored as pending. -/
def State.setProfile (s : State) (st : StreamId) (p : Profile) (sealNow : Bool) : State :=
  if (s.streams.get st).noOpenUnit then s.takeProfile st p
  else if sealNow then
    ((s.modStream st (fun r => { r with pendingProfile := none })).sealAllSlots st).takeProfile st p
  else s.modStream st (fun r => { r with pendingProfile := some p })

/-- The work that a profile in force calls for is examined: the stream's waiting re-placement list and SPACE entries (R55). -/
def State.examineStream (s : State) (st : StreamId) : State := s.examineWork (fun x => decide (x = st))

/-- SET-PROFILE once it is taken (R24, R34). A profile that takes effect is an event of R55. -/
def setProfileRequest (p : MasterId) (r : Request) (s : State) : State :=
  s.onBoundStream p r (fun st s =>
    match r.profile with
    | none => r.answer s .badRequest
    | some pr =>
      let s := s.setProfile st pr r.sealNow
      let s := if (s.streams.get st).pendingProfile.isNone then s.examineStream st else s
      r.answer s.serveSuspended .ok)

/-- SET_PROFILE (R34). -/
def execSetProfile (p : MasterId) (s : State) : Result :=
  s.onRequest (.master p) (fun k => decide (k = kindSetProfile)) (setProfileRequest p)

end Sys2Proof.Machine
end

