-- ==== Sys2Proof/Machine/Time.lean ====
section
/-!
DEFINITION. The meanings of the commands that time brings: TICK and EPOCH_ADVANCE (R174), CREDIT_ADMISSION (R73), IDLE_SEAL
(R57), ORDER_EXPIRY (R96), WINDOW_EXPIRY (R126), DIE_FAULT (R131) and INACTIVITY_FENCE (R159). A tick counts; what a count that has
run out brings about is a command of its own, which acts only when its count has run out (log entry 5).
-/

namespace Sys2Proof.Machine

/-! ## The tick -/

/-- The Time Base at a tick (R174): both counts rise by 1, and the epoch is due when its tick count has reached the epoch length. DESIGN
CHOICE (log entry 41): an epoch that is due stays due, whatever the epoch length becomes. -/
def TimeBase.tickOn (t : TimeBase) : TimeBase :=
  let n := min Config.count16 (t.epochTicks + 1)
  { t with
    dividerCount := 0
    tick := t.tick + 1
    epochTicks := n
    epochDue := t.epochDue || decide (t.epochLength ≤ n) }

/-- An occupied slot at a tick (R36, R57): the idle ticks rise by 1, and the seal is due at T_idle. A seal that a tick has made due stays due,
whatever T_idle becomes, since the tick has sealed the unit (log entry 41). -/
def OpenSlot.tickOn (idleLimit : Nat) (o : OpenSlot) : OpenSlot :=
  let n := min Config.count16 (o.idle + 1)
  { o with idle := n, sealDue := o.sealDue || decide (idleLimit ≠ 0 ∧ idleLimit ≤ n) }

/-- An order at a tick: an ISSUED order's remaining ticks fall by 1 (R96). -/
def Order.tickOn (o : Order) : Order :=
  match o.phase with
  | .issued n => { o with phase := .issued (n - 1) }
  | _ => o

/-- A window entry at a tick: an OPEN window's remaining ticks fall by 1 (R126). -/
def Window.tickOn : Window → Window
  | .opened n => .opened (n - 1)
  | w => w

/-- A die at a tick: its windows' counts fall by 1, and so does the operation timer that runs (R126, R130). -/
def DieRecord.tickOn (r : DieRecord) : DieRecord :=
  { r with
    windows := r.windows.map Window.tickOn
    opTimer := r.opTimer.map (· - 1) }

/-- A master port at a tick (R159): the inactivity count rises by 1 where silence is counted, and the fence is due at T_port. No
tick counts on a port whose fence is due, so the fence stays due, whatever T_port becomes (log entry 41). -/
def MasterPort.tickOn (limit : Nat) (counts : Bool) (m : MasterPort) : MasterPort :=
  if counts then
    let n := min Config.count16 (m.inactivity + 1)
    { m with inactivity := n, fenceDue := decide (limit ≤ n) }
  else m

/-- TICK (R174): every block that counts in ticks applies the tick to its own counts: tenant refill (R72), idle ticks (R57), order
timers (R96), window timers (R126), operation timers (R130) and inactivity counts (R159). What the refills before have made due is
examined first (R73; log entry 43). -/
def execTick (s : State) : Result :=
  let s := s.settleRefills
  .next { s with
    time := s.time.tickOn
    credit := { s.credit with balances := Table.tabulate s.refill }
    streams := s.streams.map (fun r =>
      { r with slots := r.slots.map (Option.map (OpenSlot.tickOn s.limits.idle)) })
    groups := s.groups.map (Option.map (fun g =>
      { g with reclaim := { g.reclaim with slots := g.reclaim.slots.map (Option.map Order.tickOn) } }))
    dies := s.dies.map DieRecord.tickOn
    masters := Table.tabulate (fun p => (s.masters.get p).tickOn s.limits.port (s.countsSilence p)) }

/-- One REFCLK period (R174): the divider count rises by 1, and a tick is produced when it reaches the divider. This is what passes while
no command waits (log entry 2). -/
def State.clockPeriod (s : State) : Result :=
  if s.time.dividerCount + 1 < s.time.divider then
    .next { s with time := { s.time with dividerCount := s.time.dividerCount + 1 } }
  else execTick s

/-- EPOCH_ADVANCE (R174, R92): the epoch tick count becomes 0, the epoch counter rises by 1, and the groups whose search has set
the zero-score flag are woken. A SEARCHING group has its missed-change flag set only where the search that runs has set its zero-score
flag already: the model's choice (log entry 32). -/
def execEpochAdvance (s : State) : Result :=
  if s.time.epochDue then
    .next { s with
      time := { s.time with epochTicks := 0, epoch := s.time.epoch + 1, epochDue := false }
      groups := s.groups.map (Option.map (fun g =>
        { g with reclaim := if g.reclaim.zeroScore then g.reclaim.wake else g.reclaim })) }
  else .next s

/-- CREDIT_ADMISSION (R73) of one tenant, whose examination a refill has made due. -/
def execCreditAdmission (t : Tenant) (s : State) : Result := .next (s.examineCredit t)

/-- IDLE_SEAL (R57) of one open slot whose seal a tick has made due. -/
def execIdleSeal (st : StreamId) (q : Position) (s : State) : Result := .next (s.dueSeal st q)

/-- ORDER_EXPIRY (R96) of an ISSUED order whose remaining ticks are 0. -/
def execOrderExpiry (g : GroupId) (k : OrderSlotId) (s : State) : Result :=
  match s.order ⟨g, k⟩ with
  | some o => if o.phase = .issued 0 then .next (s.closeOrder ⟨g, k⟩ o .timer) else .next s
  | none => .next s

/-- WINDOW_EXPIRY (R126) of an OPEN window whose remaining ticks are 0; a SUSPENDED die re-evaluates (R127). -/
def execWindowExpiry (d : DieId) (p : MasterId) (s : State) : Result :=
  if (s.dies.get d).windows.get p = .opened 0 then
    .next (s.modDie d (fun r => { r with
      windows := r.windows.set p .closed
      lapsed := r.lapsed.set p true })).serveSuspended
  else .next s

/-! ## The die fault (R131) -/

/-- The operation whose timer has run out: the suspended program where one is outstanding, else the current operation (R131). -/
def DieRecord.timedOperation (r : DieRecord) : Option Operation :=
  match r.suspendedProgram with
  | some k => some (.program k)
  | none => r.current

/-- The fault cause an operation gives (R184). -/
def Operation.cause : Operation → FaultCause
  | .program _ => .program
  | .erase _ => .erase
  | .check _ => .check

/-- The page index an operation names: that of a PROGRAM, 0 otherwise (R131, R189). -/
def Operation.page : Operation → Nat
  | .program k => k.index
  | .erase _ => 0
  | .check _ => 0

/-- The die record as it goes FAULTED (R131). -/
def DieRecord.fault (r : DieRecord) : DieRecord :=
  { r with
    state := .faulted
    passOver := Table.replicate 7 0
    current := none
    suspendedProgram := none
    purpose := none
    programs := none
    opTimer := none
    heldErase := none }

/-- R59 for one unit of a faulted die: its lowest ALLOCATED page is a failed program; an open unit with no ALLOCATED page is
short-sealed. -/
def State.faultUnit (s : State) (u : Nat) : State :=
  match (s.unitEntries u).head? with
  | some e => s.programFailed e.key
  | none =>
    match s.unit? u with
    | some r =>
      if r.state = .opened then
        match r.owner with
        | some st =>
          match s.slotOf st u with
          | some q => s.sealSlot st q
          | none => s
        | none => s
      else s
    | none => s

/-- The erases and checks of a faulted die (R131): every ERASING unit becomes UNKNOWN, and the queue's units and the unit of the
operation it had join the waiting units. -/
def State.faultBackground (s : State) (d : DieId) (running : Option Nat) : State :=
  let erasing := s.erasingUnits d
  let s := s.modDie d (fun r => { r with
    queue := []
    waiting := (running.toList ++ r.queue.map (·.unit)).foldr insertNat r.waiting })
  s.abandonUnits erasing

/-- The unit of an erase or check. -/
def Operation.background : Operation → Option Nat
  | .program _ => none
  | .erase u => some u
  | .check u => some u

/-- A die goes FAULTED (R131). -/
def State.faultDie (s : State) (d : DieId) (op : Operation) : State :=
  let running := (s.dies.get d).current.bind Operation.background
  let s := s.modDie d DieRecord.fault
  let s := { s with link := s.link.releaseDie d }
  let s := (s.dieUnits d).foldl State.faultUnit s
  let s := (s.faultBackground d running).grantWindows d
  let s := s.flagDieFault d op.cause
  s.offerManagement kindDieFaulted (dieFaultedBody d op.cause op.unit op.page)

/-- DIE_FAULT (R131) of a die whose operation timer has run out. -/
def execDieFault (d : DieId) (s : State) : Result :=
  let r := s.dies.get d
  match r.timedOperation with
  | some op =>
    if r.opTimer = some 0 ∧ r.state ≠ .faulted then .next (s.faultDie d op) else .next s
  | none => .next s

/-- INACTIVITY_FENCE (R159) of a port whose fence a tick has made due. -/
def execInactivityFence (p : MasterId) (s : State) : Result := .next (s.dueFence p)

end Sys2Proof.Machine
end

