-- ==== Sys2Proof/Machine/UnitRequests.lean ====
section
/-!
DEFINITION. The meanings of the unit requests of a master and of the requests a master port answers by itself: INVALIDATE (R99),
UNIT_DRAINED (R101), HOLD and FIX (R18), RELEASE (R19), PING and QUERY_UNIT (R157), UNKNOWN_MASTER_REQUEST (R156).
-/

namespace Sys2Proof.Machine

/-! ## INVALIDATE -/

/-- The outcome of one pair: its status and residual (R99, R100). -/
structure PairOutcome where
  status : Status
  residual : Nat
deriving DecidableEq, Repr

/-- A state in which a pair lowers the valid count (R99). -/
def UnitState.counted : UnitState → Bool
  | .opened => true
  | .sealed => true
  | .reclaim => true
  | .free => false
  | .erasing => false
  | .unknown => false
  | .retired => false

/-- Lower a unit's valid count by a pair's count, with the wake event and the empty-unit check of a SEALED unit (R92, R99). -/
def State.invalidateUnit (s : State) (u n : Nat) (r : UnitRecord) : State :=
  let s := s.lowerValid u n
  if r.state = .sealed then
    let s := if 0 < n ∧ 0 < r.valid then s.wakeUnit u else s
    s.checkEmpty u
  else s

/-- One pair applied to the unit record as it stands, with its outcome (R99, R100). -/
def State.invalidatePair (s : State) (u n : Nat) : State × PairOutcome :=
  match s.unit? u with
  | none => (s, ⟨.badRequest, 0⟩)
  | some r =>
    if r.state.counted then
      (s.invalidateUnit u n r, if n ≤ r.valid then ⟨.ok, r.valid - n⟩ else ⟨.countSkew, n - r.valid⟩)
    else (s, ⟨.stale, 0⟩)

/-- The pairs applied one after another, with their outcomes in pair order (R99). -/
def State.invalidatePairs : State → List (Nat × Nat) → State × List PairOutcome
  | s, [] => (s, [])
  | s, (u, n) :: rest =>
    let (s, o) := s.invalidatePair u n
    let (s, os) := State.invalidatePairs s rest
    (s, o :: os)

/-- The reply status: that of the first pair that is not OK, else OK (R100). -/
def pairsStatus (os : List PairOutcome) : Status :=
  ((os.find? (fun o => decide (o.status ≠ .ok))).map (·.status)).getD .ok

/-- The body of an INVALIDATE reply (R189). -/
def pairsBody (os : List PairOutcome) : List Byte :=
  os.flatMap (fun o => leBytes 1 o.status.code ++ leBytes 2 o.residual)

/-- INVALIDATE once it is taken (R99). -/
def invalidateRequest (r : Request) (s : State) : State :=
  if r.count = 0 ∨ 6 < r.count then r.answer s .badRequest
  else
    let (s, os) := s.invalidatePairs r.pairs
    r.answer s (pairsStatus os) (pairsBody os)

/-- INVALIDATE (R99). -/
def execInvalidate (p : MasterId) (s : State) : Result :=
  s.onRequest (.master p) (fun k => decide (k = kindInvalidate)) invalidateRequest

/-! ## UNIT-DRAINED -/

/-- The slot of an ISSUED order of a port that names a unit with an order number (R101). -/
def State.issuedOrder (s : State) (p : MasterId) (u : Nat) (n : Half) : Option NoticeRef :=
  allSlots.find? (fun k => match s.order k with
    | some o => decide (o.port = p) && decide (o.unit = u) && decide (o.number = n) &&
        (match o.phase with | .issued _ => true | _ => false)
    | none => false)

/-- The end of an order by UNIT-DRAINED (R11, R101): its slot is FREE, the unit's valid count 0, and the unit leaves for ERASING or
RETIRED. -/
def State.drainUnit (s : State) (k : NoticeRef) (u : Nat) : State :=
  ((s.setOrder k none).modUnit u (fun r => { r with valid := 0, orderSlot := none })).leaveForErase u

/-- UNIT-DRAINED once it is taken (R101). The reply carries the count that remained and the unit's state after the change (R189). -/
def unitDrainedRequest (p : MasterId) (r : Request) (s : State) : State :=
  match s.unit? r.unit with
  | none => r.answer s .badRequest
  | some x =>
    match s.issuedOrder p r.unit r.orderNumber with
    | some k =>
      let after : UnitState := if x.retirePending then .retired else .erasing
      r.answer (s.drainUnit k r.unit) (if x.valid = 0 then .ok else .countSkew)
        (leBytes 2 x.valid ++ leBytes 1 after.code)
    | none =>
      if (s.reclaim.expiry.get p).contains (r.unit, r.orderNumber) then r.answer s .tooLate
      else r.answer s .stale

/-- UNIT_DRAINED (R101). -/
def execUnitDrained (p : MasterId) (s : State) : Result :=
  s.onRequest (.master p) (fun k => decide (k = kindUnitDrained)) (unitDrainedRequest p)

/-! ## Holds -/

/-- HOLD and FIX once they are taken (R18): a SEALED unit's hold becomes what `f` makes of it. -/
def holdRequest (f : Hold → Hold) (r : Request) (s : State) : State :=
  match s.unit? r.unit with
  | none => r.answer s .badRequest
  | some x =>
    match x.state with
    | .sealed => r.answer (s.modUnit r.unit (fun y => { y with hold := f y.hold })) .ok
    | .reclaim => r.answer s .busyReclaim
    | _ => r.answer s .notSealed

/-- HOLD: a hold NONE becomes HELD, and a FIXED hold is not weakened (R18). -/
def Hold.raised : Hold → Hold
  | .noHold => .held
  | .held => .held
  | .fixed => .fixed

/-- HOLD (R18). -/
def execHold (p : MasterId) (s : State) : Result :=
  s.onRequest (.master p) (fun k => decide (k = kindHold)) (holdRequest Hold.raised)

/-- FIX (R18): the hold becomes FIXED. -/
def execFix (p : MasterId) (s : State) : Result :=
  s.onRequest (.master p) (fun k => decide (k = kindFix)) (holdRequest (fun _ => .fixed))

/-- A hold returns to NONE: a wake event for the unit's group and the empty-unit check (R9, R19, R92). -/
def State.liftHold (s : State) (u : Nat) : State :=
  ((s.modUnit u (fun r => { r with hold := .noHold })).wakeUnit u).checkEmpty u

/-- RELEASE once it is taken, with RETAIN_N at a level (R19). -/
def releaseRequest (level : LineLevel) (r : Request) (s : State) : State :=
  let s := { s with inputs := { s.inputs with retainN := level } }
  match s.unit? r.unit with
  | none => r.answer s .badRequest
  | some x =>
    match x.state, x.hold, level with
    | .sealed, .noHold, _ => r.answer s .ok
    | .sealed, .held, _ => r.answer (s.liftHold r.unit) .ok
    | .sealed, .fixed, .high => r.answer (s.liftHold r.unit) .ok
    | .sealed, .fixed, .low => r.answer s .retained
    | .reclaim, _, _ => r.answer s .busyReclaim
    | _, _, _ => r.answer s .notSealed

/-- RELEASE (R19). -/
def execRelease (p : MasterId) (level : LineLevel) (s : State) : Result :=
  s.onRequest (.master p) (fun k => decide (k = kindRelease)) (releaseRequest level)

/-! ## Requests the port answers -/

/-- The count of places a port holds in its share; port M has no share, and reports 0 (R169; log entry 10). -/
def State.shareOf (s : State) : PortId → Nat
  | .master p => s.credit.shares.get p
  | .management => 0

/-- The body of a PING reply (R157, R189): the value, then the device state, the tick and epoch counters, the reply holdings and the
share count, packed in that order (log entry 10). -/
def State.pingBody (s : State) (r : Request) : List Byte :=
  packFields false [(4, r.pingValue), (1, s.mgmt.device.code), (4, s.time.tick.toNat), (4, s.time.epoch.toNat),
    (1, (s.ring r.port).replyHoldings), (1, s.shareOf r.port)]

/-- PING (R157), taken on every port. -/
def execPing (p : PortId) (s : State) : Result :=
  s.onRequest p (fun k => decide (k = kindPing)) (fun r s => r.answer s .ok (s.pingBody r))

/-- QUERY-UNIT once it is taken (R157, R190). -/
def queryUnitRequest (r : Request) (s : State) : State :=
  match s.unit? r.unit with
  | none => r.answer s .badRequest
  | some x =>
    let words := s.youngWords r.unit
    r.answer s .ok (unitBody r.unit x words.length) words

/-- QUERY_UNIT (R157). -/
def execQueryUnit (p : MasterId) (s : State) : Result :=
  s.onRequest (.master p) (fun k => decide (k = kindQueryUnit)) queryUnitRequest

/-- UNKNOWN_MASTER_REQUEST (R156). -/
def execUnknownMasterRequest (p : MasterId) (s : State) : Result :=
  s.onRequest (.master p) (fun k => !isMasterKind k) (fun r s => r.answer s .badRequest)

end Sys2Proof.Machine
end

