-- ==== Sys2Proof/Machine/WriteCommands.lean ====
section
/-!
DEFINITION. The meanings of the commands of a write: WRITE (R45, R46), PLACE_PAGE (R48 to R50), REPLACE_PAGE (R65) and WRITE_END
(R62).
-/

namespace Sys2Proof.Machine

/-! ## Taking a WRITE -/

/-- What a WRITE that passes the checks of R45 is accepted with. -/
structure Accepted where
  stream : StreamId
  cls : WriteClass
  source : Option SourceUnit
deriving DecidableEq, Repr

/-- Checks 6 to 8 of R45 on the source unit of a RELOC WRITE, with the source fields of its context (R43). -/
def State.checkSource (s : State) (st : StreamId) (u : Nat) : Except Status SourceUnit :=
  match s.unit? u with
  | none => .error .badRequest
  | some r =>
    if r.state ≠ .sealed ∧ r.state ≠ .reclaim then .error .badSource
    else if r.tenant ≠ some (s.streams.get st).tenant then .error .tenantMismatch
    else .ok ⟨u, r.sealEpoch, r.eraseCount⟩

/-- The checks of R45, in their order. -/
def State.checkWrite (s : State) (p : MasterId) (r : Request) : Except Status Accepted :=
  match r.cls with
  | none => .error .badRequest
  | some cls =>
    if r.pageCount = 0 ∨ Config.maxWritePages < r.pageCount then .error .badRequest
    else match r.stream with
    | none => .error .badStream
    | some st =>
      let x := s.streams.get st
      if x.group = none then .error .badStream
      else if x.port ≠ some p then .error .notBound
      else if x.state ≠ .opened then .error .streamState
      else if s.placeable st = false then .error .badStream
      else match cls with
      | .host => .ok ⟨st, .host, none⟩
      | .reloc => (s.checkSource st r.source).map (fun src => ⟨st, .reloc, some src⟩)

/-- The write context of an accepted WRITE (R43, R46). -/
def Request.context (r : Request) (p : MasterId) (a : Accepted) : WriteContext where
  id := ⟨p, r.slot⟩
  tag := r.tag
  stream := a.stream
  cls := a.cls
  handle := r.handle
  source := a.source
  nextFresh := 0
  pages := List.replicate r.pageCount ⟨.unplaced, none, 0⟩
  failed := 0
  skew := 0
  orphaned := false

/-- Take one place of a port's share (R53, R77). -/
def State.takeShare (s : State) (p : MasterId) : State :=
  { s with credit := { s.credit with shares := s.credit.shares.modify p (· + 1) } }

/-- An accepted WRITE (R46): its context is created, the stream's outstanding request count rises, a place of the share is taken, and
it goes to the Credit Accountant (R71). -/
def State.acceptWrite (s : State) (x : WriteContext) : State :=
  let s := { s with contexts := s.contexts ++ [x] }
  let s := (s.touchStream x.stream).modStream x.stream (fun r => { r with outstanding := r.outstanding + 1 })
  (s.takeShare x.id.port).creditArrival x

/-- WRITE once it is taken (R45, R46). A refused WRITE has a body of 0 (R189). -/
def writeRequest (p : MasterId) (r : Request) (s : State) : State :=
  match s.checkWrite p r with
  | .error e => r.answer s e
  | .ok a => s.acceptWrite (r.context p a)

/-- WRITE (R45). -/
def execWrite (p : MasterId) (s : State) : Result :=
  s.onRequest (.master p) (fun k => decide (k = kindWrite)) (writeRequest p)

/-! ## Placing pages -/

/-- PLACE_PAGE (R48, R50, R54): the next fresh page of the head of a stream's line of a class is placed, or its request stops for
space. A unit opened for it calls for the stream's SPACE entries, whose pages the PLACE_PAGEs that follow place one by one (R55; log
entry 11). With no head, with a re-placement list that is not empty (R47), or while the head waits for space uncalled (R55), there is no
placement to make. The seals that a tick has made due on the stream's slots come first (R57; log entry 41). -/
def execPlacePage (st : StreamId) (cls : WriteClass) (s : State) : Result :=
  let s := s.settleSlots st
  match s.headContext st cls with
  | none => .next s
  | some x =>
    if s.mayPlaceFresh st x then
      .next (s.attemptFresh st x).1.serveSuspended
    else .next s

/-- REPLACE_PAGE (R65): the head of a stream's re-placement list is placed again, or the list begins to wait. The seals that a tick has
made due on the stream's slots come first (R57; log entry 41). -/
def execReplacePage (st : StreamId) (s : State) : Result :=
  let s := s.settleSlots st
  if (s.lines.get st).replace.isEmpty then .next s
  else if s.mayReplace st then
    .next (s.attemptReplace st).1.serveSuspended
  else .next s

/-- WRITE_END (R62) of the request that holds a reply slot of a port, once nothing holds it open. -/
def execWriteEnd (p : MasterId) (slot : ReplySlot) (s : State) : Result :=
  match s.context ⟨p, slot⟩ with
  | none => .next s
  | some x => if s.requestEnded x then .next (s.endRequest x) else .next s

end Sys2Proof.Machine
end

