-- ==== Sys2Proof/Machine/Dispatch.lean ====
section
/-!
DEFINITION. The one dispatch: each command's arm is a direct call of its meaning, in the order of spec/opcode_table.json.
-/

namespace Sys2Proof.Machine

/-- The effect of a command on everything but the queue of waiting commands. -/
def exec (i : Instr) (s : State) : Host.Outcome State Fault Refusal :=
  match i with
  | .deviceReset => Sys2Proof.Machine.execDeviceReset s
  | .plwNAsserted => Sys2Proof.Machine.execPlwNAsserted s
  | .plwNDeasserted => Sys2Proof.Machine.execPlwNDeasserted s
  | .tick => Sys2Proof.Machine.execTick s
  | .epochAdvance => Sys2Proof.Machine.execEpochAdvance s
  | .creditAdmission tenant => Sys2Proof.Machine.execCreditAdmission tenant s
  | .idleSeal stream position => Sys2Proof.Machine.execIdleSeal stream position s
  | .orderExpiry group slot => Sys2Proof.Machine.execOrderExpiry group slot s
  | .windowExpiry die port => Sys2Proof.Machine.execWindowExpiry die port s
  | .dieFault die => Sys2Proof.Machine.execDieFault die s
  | .inactivityFence port => Sys2Proof.Machine.execInactivityFence port s
  | .requestTailWrite port value => Sys2Proof.Machine.execRequestTailWrite port value s
  | .replyHeadWrite port value => Sys2Proof.Machine.execReplyHeadWrite port value s
  | .otherMemoryWrite port offset bytes => Sys2Proof.Machine.execOtherMemoryWrite port offset bytes s
  | .noticeWrite port => Sys2Proof.Machine.execNoticeWrite port s
  | .openStream port => Sys2Proof.Machine.execOpenStream port s
  | .closeStream port => Sys2Proof.Machine.execCloseStream port s
  | .drainStream port => Sys2Proof.Machine.execDrainStream port s
  | .drainEnd stream => Sys2Proof.Machine.execDrainEnd stream s
  | .resumeStream port => Sys2Proof.Machine.execResumeStream port s
  | .setProfile port => Sys2Proof.Machine.execSetProfile port s
  | .write port => Sys2Proof.Machine.execWrite port s
  | .placePage stream cls => Sys2Proof.Machine.execPlacePage stream cls s
  | .replacePage stream => Sys2Proof.Machine.execReplacePage stream s
  | .invalidate port => Sys2Proof.Machine.execInvalidate port s
  | .unitDrained port => Sys2Proof.Machine.execUnitDrained port s
  | .hold port => Sys2Proof.Machine.execHold port s
  | .fix port => Sys2Proof.Machine.execFix port s
  | .release port retainN => Sys2Proof.Machine.execRelease port retainN s
  | .readWindow port => Sys2Proof.Machine.execReadWindow port s
  | .windowGrant die => Sys2Proof.Machine.execWindowGrant die s
  | .endWindow port => Sys2Proof.Machine.execEndWindow port s
  | .ping port => Sys2Proof.Machine.execPing port s
  | .queryUnit port => Sys2Proof.Machine.execQueryUnit port s
  | .unknownMasterRequest port => Sys2Proof.Machine.execUnknownMasterRequest port s
  | .setGeometry => Sys2Proof.Machine.execSetGeometry s
  | .setGroup => Sys2Proof.Machine.execSetGroup s
  | .setTimebase => Sys2Proof.Machine.execSetTimebase s
  | .setTimers => Sys2Proof.Machine.execSetTimers s
  | .setTenant => Sys2Proof.Machine.execSetTenant s
  | .setStream => Sys2Proof.Machine.execSetStream s
  | .setFilter => Sys2Proof.Machine.execSetFilter s
  | .seekUnits => Sys2Proof.Machine.execSeekUnits s
  | .loadUnits => Sys2Proof.Machine.execLoadUnits s
  | .readUnit => Sys2Proof.Machine.execReadUnit s
  | .readStream => Sys2Proof.Machine.execReadStream s
  | .readTenant => Sys2Proof.Machine.execReadTenant s
  | .getStatus retainN => Sys2Proof.Machine.execGetStatus retainN s
  | .clearStatus => Sys2Proof.Machine.execClearStatus s
  | .run => Sys2Proof.Machine.execRun s
  | .halt => Sys2Proof.Machine.execHalt s
  | .haltComplete => Sys2Proof.Machine.execHaltComplete s
  | .fencePort => Sys2Proof.Machine.execFencePort s
  | .revivePort => Sys2Proof.Machine.execRevivePort s
  | .clearDieFault => Sys2Proof.Machine.execClearDieFault s
  | .cancelOrders => Sys2Proof.Machine.execCancelOrders s
  | .unknownMgmtRequest => Sys2Proof.Machine.execUnknownMgmtRequest s
  | .searchExamine group => Sys2Proof.Machine.execSearchExamine group s
  | .orderIssue group => Sys2Proof.Machine.execOrderIssue group s
  | .arbitrate die => Sys2Proof.Machine.execArbitrate die s
  | .queueFill die => Sys2Proof.Machine.execQueueFill die s
  | .waitingDieOffer => Sys2Proof.Machine.execWaitingDieOffer s
  | .descriptorSend => Sys2Proof.Machine.execDescriptorSend s
  | .programDone c => Sys2Proof.Machine.execProgramDone c s
  | .programFail c => Sys2Proof.Machine.execProgramFail c s
  | .writeEnd port slot => Sys2Proof.Machine.execWriteEnd port slot s
  | .eraseCompletion c => Sys2Proof.Machine.execEraseCompletion c s
  | .checkCompletion c => Sys2Proof.Machine.execCheckCompletion c s
  | .suspendAnswer c => Sys2Proof.Machine.execSuspendAnswer c s
  | .resumeAnswer c => Sys2Proof.Machine.execResumeAnswer c s
  | .strayCompletion c => Sys2Proof.Machine.execStrayCompletion c s

end Sys2Proof.Machine
end

