-- ==== Sys2Proof/WellFormed.lean ====
section
/-!
DEFINITION. Well-formed commands: the conditions that a row's summary sets on what the command may carry. An ill-formed command
still has a meaning (it changes nothing, or faults), so well-formedness restricts senders and not the machine.
-/

namespace Sys2Proof

/-- Byte 0 of the request tail word lies in a run of bytes (R186, R187). -/
def touchesTailWord (offset n : Nat) : Bool := decide (offset ≤ 0x0C00 ∧ 0x0C00 < offset + n)

/-- Byte 0 of the reply head word lies in a run of bytes (R186, R187). -/
def touchesHeadWord (offset n : Nat) : Bool := decide (offset ≤ 0x0C0C ∧ 0x0C0C < offset + n)

/-- The completion kinds a completion command may carry (R143, R191). -/
def Completion.isOneOf (c : Completion) (kinds : List Nat) : Bool := kinds.contains c.kind.toNat

/-- Well-formed commands: an index write carries at most the three bytes of its word after byte 0; another memory write carries at least
one byte, stays in the port's block and includes no index byte; a completion carries a kind that its row allows. -/
def Instr.wellFormed : Instr → Bool
  | .otherMemoryWrite _ offset bytes =>
    !bytes.isEmpty && decide (offset + bytes.length ≤ Config.portBytes) &&
    !touchesTailWord offset bytes.length && !touchesHeadWord offset bytes.length
  | .requestTailWrite _ w => decide (w.rest.length ≤ 3)
  | .replyHeadWrite _ w => decide (w.rest.length ≤ 3)
  | .programDone c => c.isOneOf [0]
  | .programFail c => c.isOneOf [1]
  | .eraseCompletion c => c.isOneOf [0, 1]
  | .checkCompletion c => c.isOneOf [1, 3, 4]
  | .suspendAnswer c => c.isOneOf [0, 1, 2]
  | .resumeAnswer c => c.isOneOf [0, 1]
  | .deviceReset => true
  | .plwNAsserted => true
  | .plwNDeasserted => true
  | .tick => true
  | .epochAdvance => true
  | .creditAdmission _ => true
  | .idleSeal _ _ => true
  | .orderExpiry _ _ => true
  | .windowExpiry _ _ => true
  | .dieFault _ => true
  | .inactivityFence _ => true
  | .noticeWrite _ => true
  | .openStream _ => true
  | .closeStream _ => true
  | .drainStream _ => true
  | .drainEnd _ => true
  | .resumeStream _ => true
  | .setProfile _ => true
  | .write _ => true
  | .placePage _ _ => true
  | .replacePage _ => true
  | .invalidate _ => true
  | .unitDrained _ => true
  | .hold _ => true
  | .fix _ => true
  | .release _ _ => true
  | .readWindow _ => true
  | .windowGrant _ => true
  | .endWindow _ => true
  | .ping _ => true
  | .queryUnit _ => true
  | .unknownMasterRequest _ => true
  | .setGeometry => true
  | .setGroup => true
  | .setTimebase => true
  | .setTimers => true
  | .setTenant => true
  | .setStream => true
  | .setFilter => true
  | .seekUnits => true
  | .loadUnits => true
  | .readUnit => true
  | .readStream => true
  | .readTenant => true
  | .getStatus _ => true
  | .clearStatus => true
  | .run => true
  | .halt => true
  | .haltComplete => true
  | .fencePort => true
  | .revivePort => true
  | .clearDieFault => true
  | .cancelOrders => true
  | .unknownMgmtRequest => true
  | .searchExamine _ => true
  | .orderIssue _ => true
  | .arbitrate _ => true
  | .queueFill _ => true
  | .waitingDieOffer => true
  | .descriptorSend => true
  | .writeEnd _ _ => true
  | .strayCompletion _ => true

end Sys2Proof
end

