-- ==== Sys2Proof/Safety.lean ====
section
/-!
DEFINITION. What counts as a safe run, and the terms that claims are written in: which parts of the state a command may change, what
an answered request leaves on its port, and the invariants that a step keeps.
-/

namespace Sys2Proof.Machine

/-! ## Safe runs -/

/-- The states that steps lead to from a state. -/
inductive Reaches : State → State → Prop where
  | refl (s : State) : Reaches s s
  | tail {s t u : State} : Reaches s t → step t = .next u → Reaches s u

/-- A run is safe when no state it reaches faults or refuses. -/
def Safe (s : State) : Prop := ∀ t, Reaches s t → ∃ u, step t = .next u

/-! ## Frames -/

/-- The fields of `State`, by name. -/
inductive Field where
  | units | freeLists | streams | tenants | contexts | lines | pool | waiters | credit | groups
  | reclaim | dies | link | masters | mport | time | limits | mgmt | inputs | pending
deriving DecidableEq, Repr

/-- Two states agree on a field. -/
def State.agrees (s t : State) : Field → Prop
  | .units => t.units = s.units
  | .freeLists => t.freeLists = s.freeLists
  | .streams => t.streams = s.streams
  | .tenants => t.tenants = s.tenants
  | .contexts => t.contexts = s.contexts
  | .lines => t.lines = s.lines
  | .pool => t.pool = s.pool
  | .waiters => t.waiters = s.waiters
  | .credit => t.credit = s.credit
  | .groups => t.groups = s.groups
  | .reclaim => t.reclaim = s.reclaim
  | .dies => t.dies = s.dies
  | .link => t.link = s.link
  | .masters => t.masters = s.masters
  | .mport => t.mport = s.mport
  | .time => t.time = s.time
  | .limits => t.limits = s.limits
  | .mgmt => t.mgmt = s.mgmt
  | .inputs => t.inputs = s.inputs
  | .pending => t.pending = s.pending

/-- State `t` differs from state `s` in the named fields only: every other field is unchanged. -/
def State.Only (s : State) (fs : List Field) (t : State) : Prop := ∀ f, f ∉ fs → s.agrees t f

/-- The units other than `u` are unchanged. -/
def State.OtherUnits (s : State) (u : Nat) (t : State) : Prop := ∀ v, v ≠ u → t.unit? v = s.unit? v

/-- The streams other than `st` are unchanged. -/
def State.OtherStreams (s : State) (st : StreamId) (t : State) : Prop :=
  ∀ x, x ≠ st → t.streams.get x = s.streams.get x

/-- The dies other than `d` are unchanged. -/
def State.OtherDies (s : State) (d : DieId) (t : State) : Prop := ∀ x, x ≠ d → t.dies.get x = s.dies.get x

/-- The master ports other than `p` are unchanged. -/
def State.OtherPorts (s : State) (p : MasterId) (t : State) : Prop :=
  ∀ q, q ≠ p → t.masters.get q = s.masters.get q

/-! ## Requests -/

/-- The next request of a port is of a kind and may be taken (R152, R169). -/
abbrev State.Ready (s : State) (p : PortId) (kind : Nat) : Prop :=
  s.mayTake p = true ∧ (s.headRequest p).kind = kind

/-- The number of the reply slot that the next record of a ring is written into (R154). -/
def Ring.nextSlot (r : Ring) : Nat := r.replyTail.toNat % 64

/-- Whether an offset lies among `n` bytes from another. -/
def within (a from_ n : Nat) : Prop := from_ ≤ a ∧ a < from_ + n

/-- The offsets that taking one request and writing one reply write: the request head word, the reply slot at the tail, its address
list, and the reply tail word (R152, R154). -/
def Ring.answerTouches (r : Ring) (a : Nat) : Prop :=
  within a requestHeadOffset 4 ∨ within a (replySlotOffset r.nextSlot) 32 ∨
  within a (addressListOffset r.nextSlot) 256 ∨ within a replyTailOffset 4

/-- The rings of a port once a request was taken and its reply written, from the rings before (R152 to R154): the indices, the holdings
and reservations, the record at the tail with its address list, and every other byte of memory as before. -/
structure Ring.Answered (r : Ring) (record : List Byte) (words : List Word) (r' : Ring) : Prop where
  requestTail : r'.requestTail = r.requestTail
  requestHead : r'.requestHead = r.requestHead + 1
  replyTail : r'.replyTail = r.replyTail + 1
  replyHead : r'.replyHead = r.replyHead
  reservations : r'.reservations = r.reservations
  replyHoldings : r'.replyHoldings = r.replyHoldings + 1
  noticeHoldings : r'.noticeHoldings = r.noticeHoldings
  refusals : r'.refusals = r.refusals
  classes : r'.classes = r.classes.set (Fin.ofNat 64 r.nextSlot) .reply
  headWord : r'.mem.readRange requestHeadOffset 4 = indexWord r'.requestHead.toNat
  tailWord : r'.mem.readRange replyTailOffset 4 = indexWord r'.replyTail.toNat
  record : r'.mem.readRange (replySlotOffset r.nextSlot) 32 = padTo 0 32 record
  words : r'.mem.readRange (addressListOffset r.nextSlot) 256 = (padTo 0 64 words).flatMap (fun w => leBytes 4 w.toNat)
  frame : ∀ a, ¬ r.answerTouches a → r'.mem.read a = r.mem.read a

/-- Port `p` after its next request was taken and answered with a status, a body and address list words: its rings as
`Ring.Answered` says, a master port's state and cause as before and its inactivity count 0, and every other port as before. -/
def State.Answered (s : State) (p : PortId) (status : Status) (body : List Byte) (words : List Word) (t : State) : Prop :=
  let q := s.headRequest p
  (s.ring p).Answered (replyRecord q.kind q.tag status body) words (t.ring p) ∧
  (∀ x, x ≠ p → t.ring x = s.ring x) ∧
  match p with
  | .management => t.masters = s.masters
  | .master m => s.OtherPorts m t ∧
      (t.masters.get m).state = (s.masters.get m).state ∧ (t.masters.get m).cause = (s.masters.get m).cause ∧
      (t.masters.get m).inactivity = 0

/-- Port `p` after its next request was taken and not answered yet: its reply slot is reserved (R152, R153). -/
def State.Pledged (s : State) (p : PortId) (t : State) : Prop :=
  t.ring p = (s.taken p).ring p ∧ ∀ x, x ≠ p → t.ring x = s.ring x

/-- Port `p` took its next request and answered it, and nothing else of the part changed. -/
def State.OnlyAnswered (s : State) (p : PortId) (status : Status) (body : List Byte) (words : List Word) (t : State) : Prop :=
  s.Answered p status body words t ∧ s.Only [.masters, .mport] t

/-- The ring once its head request is taken (R152): a reply slot is reserved, and the request head rises and is written to its word. -/
def Ring.take (r : Ring) : Ring :=
  { r.reserve with requestHead := r.requestHead + 1 }.putIndex requestHeadOffset (r.requestHead + 1).toNat

/-- The rings of M after a notice is offered to it (R183): the notice is written while M's notice holdings are below 8. -/
def Ring.offered (r : Ring) (record : List Byte) : Ring :=
  if r.noticeHoldings < Config.noticeLimit then r.writeRecord .notice record [] else r

/-- The sticky status after a notice is offered to M with its rings as they were (R183). -/
def Sticky.offered (k : Sticky) (r : Ring) : Sticky :=
  if r.noticeHoldings < Config.noticeLimit then k
  else { k with overrun := true, overrunCount := min Config.count16 (k.overrunCount + 1) }

/-! ## Descriptors -/

/-- A tag value is the first that is free at or after the cursor, ascending and wrapping (R138). -/
def Link.FirstFree (l : Link) (tag : Byte) : Prop :=
  ∃ n, n < 256 ∧ tag = l.cursor + BitVec.ofNat 8 n ∧ (∀ e ∈ l.tags, e.tag ≠ tag) ∧
    ∀ m, m < n → ∃ e ∈ l.tags, e.tag = l.cursor + BitVec.ofNat 8 m

/-- A descriptor was handed over (R138): under the first free tag, which gets its entry with phase QUEUED, it stands at the end of the
queue, and the cursor has moved past the tag. -/
def Link.HandedOver (l l' : Link) (kind : DescriptorKind) (d : DieId) (u block : Nat) (page : Option PageKey) (handle : Word) : Prop :=
  ∃ tag, l.FirstFree tag ∧ l' = { l with
    queue := l.queue ++ [⟨kind, d, tag, block, (page.map (·.index)).getD 0, handle⟩]
    tags := l.tags ++ [⟨tag, d, kind, u, page, .queued, false⟩]
    cursor := tag + 1 }

/-! ## What a die hands over -/

/-- The pass-over counts of a die after a grant of level `v` (R117). -/
abbrev State.PassedOver (s : State) (d : DieId) (v : Level) (t : State) : Prop :=
  ∀ m, (t.dies.get d).passOver.get m = if m = v then 0
    else if (s.oldestEligible d m).isSome then min 16 ((s.dies.get d).passOver.get m + 1) else 0

/-- An IDLE die issues the head entry of its background queue on the link `l` (R116, R130, R138). -/
abbrev State.StartsBackground (s : State) (l : Link) (d : DieId) (e : BackgroundEntry) (t : State) : Prop :=
  let r := s.dies.get d
  l.HandedOver t.link (match e.kind with | .erase => .erase | .check => .check) d e.unit (s.blockOf e.unit) none 0 ∧
  t.dies.get d = { r with
    state := match e.kind with | .erase => .erase | .check => .check
    current := some (match e.kind with | .erase => .erase e.unit | .check => .check e.unit)
    queue := r.queue.tail
    opTimer := some (max 1 s.limits.op) } ∧
  s.OtherDies d t ∧ s.Only [.dies, .link] t

/-- An IDLE die issues page `k` of level `v` on the link `l` (R116, R117, R130, R138). -/
abbrev State.StartsProgram (s : State) (l : Link) (d : DieId) (v : Level) (k : PageKey) (t : State) : Prop :=
  let r := s.dies.get d
  l.HandedOver t.link .program d k.unit (s.blockOf k.unit) (some k) (s.handleOf k) ∧
  t.dies.get d = { r with
    state := .program
    current := some (.program k)
    opTimer := some (max 1 s.limits.op)
    backlogs := r.backlogs.modify v (·.erase k)
    passOver := (t.dies.get d).passOver } ∧
  s.PassedOver d v t ∧ s.OtherDies d t ∧ s.Only [.dies, .link] t

/-- A SUSPENDED die whose record has become `r` issues page `k` of level `v` on the link `l`: it is the suspended program, counted, with a
timer of its own (R117, R123, R130, R138). -/
abbrev State.ServesProgram (s : State) (l : Link) (d : DieId) (r : DieRecord) (v : Level) (k : PageKey) (t : State) : Prop :=
  l.HandedOver t.link .program d k.unit (s.blockOf k.unit) (some k) (s.handleOf k) ∧
  t.dies.get d = { r with
    suspendedProgram := some k
    programs := some (r.programs.getD 0 + 1)
    opTimer := some (max 1 s.limits.op)
    backlogs := r.backlogs.modify v (·.erase k)
    passOver := (t.dies.get d).passOver } ∧
  s.PassedOver d v t

/-- A SUSPENDED die whose record has become `r` hands a RESUME over for the erase of unit `u` on the link `l`, and is in ERASE with its timer
running on from the held erase ticks (R124, R138). -/
abbrev Link.Resumes (l : Link) (d : DieId) (r : DieRecord) (u : Nat) (t : State) : Prop :=
  l.HandedOver t.link .resume d u 0 none 0 ∧
  t.dies.get d = { r with state := .erase, purpose := none, programs := none, opTimer := r.heldErase, heldErase := none }

/-- The conditions of R124 of which one has to hold for a RESUME: the allowance is used up, no page is eligible, the erase is urgent, or the
device is not RUNNING. -/
abbrev State.ResumeDue (s : State) (d : DieId) : Prop :=
  s.allowance d ≤ (s.dies.get d).programs.getD 0 ∨ s.grantChoice d = none ∨ s.urgent d = true ∨ s.mgmt.device ≠ .running

/-- The group whose configuration a die reads: of the configured groups that hold it, the lowest (they do not overlap, R172). -/
abbrev State.InGroup (s : State) (d : DieId) (c : GroupConfig) : Prop :=
  ∃ g, s.config g = some c ∧ c.first ≤ d.val ∧ d.val ≤ c.last ∧
    ∀ h, h < g → ∀ b, s.config h = some b → ¬ (b.first ≤ d.val ∧ d.val ≤ b.last)

/-! ## What an examination does (R55) -/

/-- One after another, in the order of a list, each thing acts on the state that the one before it left. -/
inductive InTurn {α : Type} (act : α → State → State → Prop) : List α → State → State → Prop where
  | nil (s : State) : InTurn act [] s s
  | cons {a : α} {l : List α} {s m t : State} : act a s m → InTurn act l m t → InTurn act (a :: l) s t

/-- The pages of a stream's re-placement list are placed in order (R55, R65): the head page is placed and leaves the list, and the next is its
head; where a page finds no position the list waits on, called for no longer. A page whose request is gone leaves the list unplaced. -/
inductive State.ListServed (st : StreamId) : State → State → Prop where
  | emptied {s : State} : (s.lines.get st).replace = [] → ListServed st s s
  | placed {s m t : State} {ref : PageRef} {x : WriteContext} :
      (s.lines.get st).replace.head? = some ref → s.context ref.ctx = some x →
      (s.applyPending st).tryPlace st .replacement x ref.page = some m →
      ListServed st (m.dropReplaceHead st) t → ListServed st s t
  | stopped {s : State} {ref : PageRef} {x : WriteContext} :
      (s.lines.get st).replace.head? = some ref → s.context ref.ctx = some x →
      (s.applyPending st).tryPlace st .replacement x ref.page = none →
      ListServed st s ((s.applyPending st).waitReplace st)
  | gone {s t : State} {ref : PageRef} :
      (s.lines.get st).replace.head? = some ref → s.context ref.ctx = none →
      ListServed st ((s.applyPending st).dropReplaceHead st) t → ListServed st s t

/-- A request stands at the head of its line behind no re-placement list (R47). -/
abbrev State.Heads (s : State) (e : WaitEntry) (x : WriteContext) : Prop :=
  s.headContext e.stream e.cls = some x ∧ x.id = e.ctx ∧ (s.lines.get e.stream).replace = []

/-- The remaining pages of a SPACE entry's request are placed in order (R54, R55), at most the number given: each page is placed while the
request stands at the head of its line behind no re-placement list; where one finds no position the request waits on in its place, called
for no longer. -/
inductive State.EntryServed (e : WaitEntry) : Nat → State → State → Prop where
  | enough {s : State} : EntryServed e 0 s s
  | passed {n : Nat} {s : State} : (∀ x, ¬ s.Heads e x) → EntryServed e n s s
  | placed {n : Nat} {s m t : State} {x : WriteContext} : s.Heads e x →
      (s.applyPending e.stream).tryPlace e.stream (freshKind x.cls) x x.nextFresh = some m →
      EntryServed e n (m.afterFresh e.stream x) t → EntryServed e (n + 1) s t
  | stopped {n : Nat} {s : State} {x : WriteContext} : s.Heads e x →
      (s.applyPending e.stream).tryPlace e.stream (freshKind x.cls) x x.nextFresh = none →
      EntryServed e (n + 1) s ((s.applyPending e.stream).waitForSpace x)

/-- A stream's re-placement list is served in an examination, the seals that a tick has made due on its slots made first (R57). -/
def State.ListTurn (w : ReplaceWaiter) (s t : State) : Prop := State.ListServed w.stream (s.settleSlots w.stream) t

/-- A SPACE entry is served in an examination, in the same way; a request has at most 64 pages (R45). -/
def State.EntryTurn (e : WaitEntry) (s t : State) : Prop := State.EntryServed e 64 (s.settleSlots e.stream) t

/-- What an examination of the waiting work of the streams that satisfy `p` does (R55): their waiting re-placement lists and SPACE entries are
called for; each of those lists is served, in the order in which they began to wait; then each of those entries, in arrival order; and
then once more the entries that an opening has called for meanwhile (R55; log entry 11). -/
def State.Examined (s : State) (p : StreamId → Bool) (t : State) : Prop :=
  ∃ u v : State,
    InTurn State.ListTurn (s.waiters.filter (fun w => p w.stream)) (s.callWork p) u ∧
    InTurn State.EntryTurn (s.credit.waitList.filter (fun e => decide (e.reason = .space) && p e.stream)) u v ∧
    InTurn State.EntryTurn (v.credit.waitList.filter (fun e => decide (e.reason = .space) && e.examine && p e.stream)) v t

/-- The streams of a group, as an examination of the group's work takes them (R55). -/
def State.ofGroup (s : State) (g : GroupId) (st : StreamId) : Bool := decide ((s.streams.get st).group = some g)

/-- A unit that has become FREE, in the state `m`, has the waiting work of its group examined, which leaves the state `n`; while the part is
HALTED, and for a unit of no group, nothing is examined (R55). -/
def State.ExaminesFreed (s : State) (u : Nat) (m n : State) : Prop :=
  (s.mgmt.device ≠ .halted → ∀ g, s.groupOfUnit u = some g → m.Examined (s.ofGroup g) n) ∧
  ((s.mgmt.device = .halted ∨ s.groupOfUnit u = none) → n = m)

/-! ## What comes before the refills of a tick (R72, R73) -/

/-- The tenants are examined one after another, in ascending number, each as CREDIT_ADMISSION does it (R73; log entries 7 and 43). -/
def State.TenantsExamined (s t : State) : Prop :=
  InTurn (fun (n : Tenant) (u v : State) => exec (.creditAdmission n) u = .next v) (List.finRange 64) s t

/-! ## Conditions that statements set -/

/-- No examination that a refill has made due is still to be made for a tenant (R73): its balance is at 0 or below, or none of its requests
waits for credit. -/
abbrev State.NoCreditDue (s : State) (n : Tenant) : Prop :=
  s.credit.balances.get n ≤ 0 ∨ ∀ e ∈ s.credit.waitList, ¬ (e.reason = .credit ∧ e.tenant = n)

/-- The requests that wait for credit on one stream are of one tenant (R70). -/
abbrev State.StreamsOneTenant (s : State) : Prop :=
  ∀ e ∈ s.credit.waitList, ∀ x ∈ s.credit.waitList, e.reason = .credit → x.reason = .credit → e.stream = x.stream → e.tenant = x.tenant

/-- No fence that a tick has made due is still to be made on a port (R159). -/
abbrev State.NoFenceDue (s : State) (p : PortId) : Prop :=
  ∀ m, p = .master m → (s.masters.get m).state = .active → (s.masters.get m).fenceDue = false

/-- No seal that a tick has made due is still to be made on a slot of a stream (R57). -/
abbrev State.NoSealDue (s : State) (st : StreamId) : Prop :=
  ∀ q, ((s.streams.get st).slots.get q).any (·.sealDue) = false

/-- No stream waits to place a page: no re-placement list waits, and no request waits for space (R54, R65). -/
abbrev State.NoWork (s : State) : Prop := s.waiters = [] ∧ ∀ e ∈ s.credit.waitList, e.reason ≠ .space

/-- No die is SUSPENDED. -/
abbrev State.NoneSuspended (s : State) : Prop := ∀ d, (s.dies.get d).state ≠ .suspended

/-- A completion names the sent descriptor of an entry: the entry of its tag is in phase SENT and names its die (R143). -/
abbrev State.Names (s : State) (c : Completion) (e : TagEntry) : Prop :=
  s.link.tags.find? (fun x => decide (x.tag = c.tag)) = some e ∧ e.phase = .sent ∧ c.die.toNat = e.die.val

/-- A master port `p` as a fence leaves it (R160): FENCED with the cause, its rings empty, and nothing of the part bound to it, waiting
for it or held by it any more. -/
structure State.Fenced (s : State) (p : MasterId) (cause : FenceCause) (t : State) : Prop where
  state : (t.masters.get p).state = .fenced
  recorded : (t.masters.get p).cause = cause
  sticky : t.mgmt.sticky.portFence.get p = cause
  indices : (t.masters.get p).ring.requestTail = 0 ∧ (t.masters.get p).ring.requestHead = 0 ∧
    (t.masters.get p).ring.replyTail = 0 ∧ (t.masters.get p).ring.replyHead = 0
  words : ∀ a, within a requestTailOffset 16 → (t.masters.get p).ring.mem.read a = 0
  memory : ∀ a, ¬ within a requestTailOffset 16 → (t.masters.get p).ring.mem.read a = (s.masters.get p).ring.mem.read a
  notices : (t.masters.get p).ring.noticeHoldings = 0
  holdings : (t.masters.get p).ring.replyHoldings = (t.masters.get p).ring.reservations.length
  others : s.OtherPorts p t
  streams : ∀ st, (s.streams.get st).port = some p →
    (t.streams.get st).state = .parked ∧ (t.streams.get st).port = none ∧ (t.streams.get st).young = [] ∧
    ∀ q, (t.streams.get st).slots.get q = none
  unbound : ∀ st, (t.streams.get st).port ≠ some p
  contexts : ∀ x ∈ t.contexts, x.id.port = p → x.orphaned = true
  waiting : ∀ e ∈ t.credit.waitList, e.ctx.port ≠ p
  share : t.credit.shares.get p = 0
  orders : ∀ r o, t.order r = some o → o.port ≠ p
  expiry : t.reclaim.notices.get p = [] ∧ t.reclaim.expiry.get p = []
  windows : ∀ d, (t.dies.get d).windows.get p = .closed ∧ (t.dies.get d).lapsed.get p = false
  frame : s.Only [.units, .streams, .tenants, .contexts, .lines, .waiters, .credit, .groups, .reclaim, .dies, .link, .masters,
    .mport, .mgmt] t

/-! ## Invariants -/

/-- Every balance lies between the floor and its tenant's ceiling (R74). -/
abbrev State.BalancesLegal (s : State) : Prop :=
  ∀ t, Config.balanceFloor ≤ s.credit.balances.get t ∧ s.credit.balances.get t ≤ (s.tenants.get t).ceiling

/-- Every young list holds at most 8 units (R38). -/
abbrev State.YoungLegal (s : State) : Prop := ∀ st, (s.streams.get st).young.length ≤ Config.youngLimit

/-- At most 32 tags are outstanding, no tag value has two entries, and the descriptor queue holds at most 32 descriptors (R138,
R139). -/
abbrev State.LinkLegal (s : State) : Prop :=
  s.link.tags.length ≤ Config.linkLimit ∧ (s.link.tags.map (·.tag)).Nodup ∧ s.link.queue.length ≤ Config.linkLimit

/-- Every background queue holds at most 4 entries, every pass-over count is at most 16, and every die's waiting units stand in ascending
number, each once (R109, R113, R117). -/
abbrev State.DiesLegal (s : State) : Prop :=
  ∀ d, (s.dies.get d).queue.length ≤ Config.backgroundLimit ∧ (s.dies.get d).waiting.Pairwise (· < ·) ∧
    ∀ l, (s.dies.get d).passOver.get l ≤ Config.passOverLimit

/-- Each die's free list holds exactly that die's FREE units, once each, in ascending erase count and then ascending number, which is
ascending block on one die (R16). -/
abbrev State.FreeListsLegal (s : State) : Prop :=
  ∀ d, (s.freeLists.get d).Pairwise (fun u v => s.wearBefore u v = true) ∧
    ∀ u, u ∈ s.freeLists.get d ↔ s.unitState u = some .free ∧ s.dieOf u = d

/-- The memory of every port has its canonical form. -/
def State.MemoryLegal (s : State) : Prop := ∀ p, (s.ring p).mem.wf

end Sys2Proof.Machine
end

