-- ==== Sys2Proof/Certificates/Slice0/Obligations.lean ====
section
/-!
DEFINITION. The statements for the provers. Each says what a command does to the state when it completes and what it leaves as it was;
those about the whole machine come first. A statement about a command whose event has come about gives the conditions on the state and
concludes that `exec` answers a next state.
-/

open Sys2Proof Sys2Proof.Machine

/-! ## The machine -/

/-- One step takes the command in front of the queue and is `exec` of it on the state with the queue's rest. With no command waiting,
one REFCLK period passes: the divider count rises by 1, and the period that brings it to the divider is a tick (R174). What passes on an
empty queue is the model's choice (log entry 2). -/
def Obligations.StepTakesFrontCommand : Prop :=
  (∀ (c : Instr) (rest : List Instr) (s : State), s.pending = c :: rest → step s = exec c { s with pending := rest }) ∧
  ∀ s : State, s.pending = [] →
    (s.time.dividerCount + 1 < s.time.divider →
      step s = .next { s with time := { s.time with dividerCount := s.time.dividerCount + 1 } }) ∧
    (s.time.divider ≤ s.time.dividerCount + 1 → step s = exec .tick s)

/-- Every balance stays between -16,777,216 and its tenant's ceiling through every step (R74). -/
def Obligations.StepKeepsBalances : Prop :=
  ∀ s t : State, s.BalancesLegal → step s = .next t → t.BalancesLegal

/-- Every young list keeps at most 8 units through every step (R38). -/
def Obligations.StepKeepsYoungLists : Prop :=
  ∀ s t : State, s.YoungLegal → step s = .next t → t.YoungLegal

/-- Through every step at most 32 tags are outstanding, no tag value has two entries, and the descriptor queue holds at most 32
(R138, R139). -/
def Obligations.StepKeepsTags : Prop :=
  ∀ s t : State, s.LinkLegal → step s = .next t → t.LinkLegal

/-- Through every step each background queue holds at most 4 entries, each pass-over count is at most 16, and the waiting units of each die
stand in ascending number, each once, so that the lowest is the first (R113, R117). -/
def Obligations.StepKeepsDies : Prop :=
  ∀ s t : State, s.DiesLegal → step s = .next t → t.DiesLegal

/-- Every port's memory keeps its canonical form through every step, so that equal memories are equal data. The form is the model's
choice of data, not a rule of the manual. -/
def Obligations.StepKeepsMemory : Prop :=
  ∀ s t : State, s.MemoryLegal → step s = .next t → t.MemoryLegal

/-- While PLW_N is asserted no command hands an ERASE or a CHECK over: each such tag entry after the command was there before it
(R113, R116, R128). -/
def Obligations.NoEraseStartsUnderPlw : Prop :=
  ∀ (c : Instr) (s t : State), s.plwAsserted = true → exec c s = .next t →
    ∀ e ∈ t.link.tags, e.kind = .erase ∨ e.kind = .check →
      ∃ x ∈ s.link.tags, x.tag = e.tag ∧ x.kind = e.kind ∧ x.die = e.die ∧ x.unit = e.unit

/-- The victim score (R88): with the age taken modulo 2^32, a unit whose every page is valid scores 0, another A × (P − v) × 256 divided by
P + v and rounded down, A being the smaller of the age and 65,535, plus 1; every score is at most 16,777,216. -/
def Obligations.VictimScoreBounded : Prop :=
  ∀ (s : State) (x : UnitRecord) (sealed : Word), x.sealEpoch = some sealed → 0 < s.pages → x.valid ≤ s.pages →
    let age := (s.time.epoch.toNat + 4294967296 - sealed.toNat) % 4294967296
    s.score x ≤ 16777216 ∧
    (x.valid = s.pages → s.score x = 0) ∧
    (x.valid < s.pages → s.score x = (min age 65535 + 1) * (s.pages - x.valid) * 256 / (s.pages + x.valid))

/-! ## Lines and time -/

/-- DEVICE_RESET (R185) and what it leaves in the records whose reset values the manual gives (R42, R136, R148, R149, R165, R166, R174,
R176): every field takes its reset value, the lines keep their levels, and PLW_N found asserted is recorded as seen. The state after it
meets every invariant that the statements below say a step keeps. That the commands that wait stay, and the lines' levels at
`State.reset`, are the model's choice (log entry 3). -/
def Obligations.DeviceResetRestores : Prop :=
  (∀ s : State, ∃ t, exec .deviceReset s = .next t ∧ t.inputs = s.inputs ∧ t.pending = s.pending ∧
     t.mgmt = { State.reset.mgmt with sticky := { Sticky.reset with plwSeen := s.plwAsserted } } ∧
     State.reset.Only [.mgmt, .inputs, .pending] t) ∧
  (let s := State.reset
   s.units = [] ∧ s.contexts = [] ∧ s.pool = [] ∧ s.waiters = [] ∧ s.credit.waitList = [] ∧
   (∀ st, let r := s.streams.get st
     r.state = .closed ∧ r.tenant = 0 ∧ r.group = none ∧ r.port = none ∧ r.target = st ∧
     r.profile = ⟨.pack, 0x01, 3⟩ ∧ r.pendingProfile = none ∧ (∀ q, r.slots.get q = none) ∧ r.packCursor = 0 ∧
     r.spreadCursor = 0 ∧ r.young = [] ∧ r.outstanding = 0 ∧ r.lastActivity = 0) ∧
   (∀ t, s.tenants.get t = ⟨false, 0, 0, 0, 0⟩ ∧ s.credit.balances.get t = 0) ∧
   (∀ g, s.groups.get g = none) ∧
   (∀ d, let r := s.dies.get d
     r.state = .idle ∧ r.queue = [] ∧ r.waiting = [] ∧ r.current = none ∧ r.opTimer = none ∧
     (∀ l, r.backlogs.get l = [] ∧ r.passOver.get l = 0) ∧ ∀ p, r.windows.get p = .closed ∧ r.lapsed.get p = false) ∧
   (∀ p, let m := s.masters.get p
     m.state = .active ∧ m.cause = .noFence ∧ m.inactivity = 0 ∧ m.ring.requestTail = 0 ∧ m.ring.requestHead = 0 ∧
     m.ring.replyTail = 0 ∧ m.ring.replyHead = 0 ∧ m.ring.reservations = [] ∧ m.ring.replyHoldings = 0 ∧
     m.ring.noticeHoldings = 0 ∧ m.ring.refusals = 0 ∧ ∀ a, m.ring.mem.read a = 0) ∧
   s.link.queue = [] ∧ s.link.tags = [] ∧ s.link.cursor = 0 ∧ s.link.waiting = [] ∧
   s.time.divider = 100000 ∧ s.time.dividerCount = 0 ∧ s.time.tick = 0 ∧ s.time.epochLength = 1000 ∧
   s.time.epochTicks = 0 ∧ s.time.epoch = 0 ∧
   s.limits = ⟨2000, 30000, 5000, 50, 200⟩ ∧ s.mgmt.device = .unconfigured ∧ s.mgmt.geometry = none ∧ s.mgmt.cursor = 0) ∧
  (State.reset.BalancesLegal ∧ State.reset.YoungLegal ∧ State.reset.LinkLegal ∧ State.reset.DiesLegal ∧ State.reset.MemoryLegal)

/-- PLW_N_ASSERTED (R128): the line is low and seen; no ERASE stays in a background queue, and the ERASING units that were queued or
waiting are UNKNOWN; a die in ERASE hands its SUSPEND over or holds the abandonment pending, and every other die but a SUSPENDED one keeps
its state. A SUSPENDED die abandons its erase: the unit is UNKNOWN without a suspend count and among the waiting units (R14), the erase's tag
and its unsent SUSPENDs and RESUMEs are released (R146), a suspended program becomes the current operation with its timer running on, and
the WAITING windows are granted (R125). The result of every search in progress is to be discarded (R85). -/
def Obligations.PlwAssertedAbandonsErases : Prop :=
  ∀ s : State, s.plwAsserted = false → ∃ t, exec .plwNAsserted s = .next t ∧
    t.inputs = { s.inputs with plwN := .low } ∧
    t.mgmt = { s.mgmt with sticky := { s.mgmt.sticky with plwSeen := true } } ∧
    (∀ d, let r := s.dies.get d
      let r' := t.dies.get d
      r'.queue = r.queue.filter (fun e => decide (e.kind ≠ .erase)) ∧
      (∀ u, u ∈ r.waiting ∨ ⟨.erase, u⟩ ∈ r.queue → s.unitState u = some .erasing → t.unitState u = some .unknown) ∧
      (r.state = .erase → r.erasingUnit.isSome →
        r'.purpose = some .abandon ∧ (r'.state = .suspending ∨ (r'.state = .erase ∧ d ∈ t.link.waiting))) ∧
      (r.state = .suspended → r.erasingUnit.isSome →
        r'.state = (if r.suspendedProgram.isSome then .program else .idle) ∧ r'.heldErase = none ∧
        r'.current = r.suspendedProgram.map .program ∧ r'.opTimer = (if r.suspendedProgram.isSome then r.opTimer else none) ∧
        r'.suspendedProgram = none ∧ r'.purpose = none ∧ r'.programs = none ∧
        ∀ p, r'.windows.get p = match r.windows.get p with | .waiting _ => .opened (max 1 s.limits.window) | w => w) ∧
      (∀ u, r.state = .suspended → r.current = some (.erase u) →
        (∀ x, s.unit? u = some x → x.state = .erasing → t.unit? u = some { x with state := .unknown, suspendCount := none }) ∧
        u ∈ (t.dies.get (s.dieOf u)).waiting ∧
        ∀ e ∈ t.link.tags, e.die = d → e.unit = u → e.kind ≠ .erase ∧
          ((e.kind = .suspend ∨ e.kind = .resume) → e.phase = .queued → e.ended = true)) ∧
      (r.state ≠ .erase → r.state ≠ .suspended → r'.state = r.state ∧ r'.current = r.current)) ∧
    (∀ g k, t.reclaimOf g = some k → k.search = .searching → k.discard = true) ∧
    s.Only [.units, .groups, .dies, .link, .masters, .mgmt, .inputs] t

/-- PLW_N_DEASSERTED (R113, R129): the line is high, every die keeps its state, a background queue that is open again takes waiting
units until it is full or none waits, and no group stays WAITING where orders may be issued again (R85). -/
def Obligations.PlwDeassertedReopens : Prop :=
  ∀ s : State, s.plwAsserted = true → ∃ t, exec .plwNDeasserted s = .next t ∧
    t.inputs = { s.inputs with plwN := .high } ∧
    (∀ d, (t.dies.get d).state = (s.dies.get d).state ∧ (t.dies.get d).current = (s.dies.get d).current ∧
      (s.isRunning = true → (s.dies.get d).state ≠ .faulted →
        (t.dies.get d).waiting = [] ∨ 4 ≤ (t.dies.get d).queue.length)) ∧
    (s.isRunning = true → ∀ g r, t.reclaimOf g = some r → r.search ≠ .waiting) ∧
    s.Only [.groups, .dies, .inputs] t

/-- TICK (R174): each block that counts in ticks counts one: the tick counter and the epoch tick count, metered balances up to their
ceilings (R72), once the examinations that earlier refills have made due are done (R73; log entry 43), idle ticks (R57), order timers (R96), window and operation timers (R126, R130), and inactivity counts of the ports that R159
names. A tick that brings the epoch tick count to the epoch length makes the epoch due, one that leaves an inactivity count at T_port or above
makes the port's fence due, and one that brings idle ticks to T_idle the seal; what is due stays due, and no tick counts on a port whose fence
is. That a count which has run out acts by a command of its own is the model's choice (log entry 5), and so is what comes between a tick and
what it has made due (log entry 41; `FenceStopsPort`, `IdleSealSeals`). EPOCH_ADVANCE (R174, R92): the epoch counter rises by
1 and the epoch tick count is 0; the groups whose search set the zero-score flag are woken. That a SEARCHING group has its missed-change flag
set only where the search that runs has set its zero-score flag is the model's choice (log entry 32). -/
def Obligations.TickCounts : Prop :=
  (∀ s : State, ∃ m t, s.TenantsExamined m ∧ s.Only [.tenants, .lines, .credit] m ∧ ((∀ n, s.NoCreditDue n) → m = s) ∧
     exec .tick s = .next t ∧
     t.time.tick = s.time.tick + 1 ∧ t.time.dividerCount = 0 ∧ t.time.epochTicks = min 65535 (s.time.epochTicks + 1) ∧
     t.time.epoch = s.time.epoch ∧ t.time.divider = s.time.divider ∧ t.time.epochLength = s.time.epochLength ∧
     t.time.epochDue = (s.time.epochDue || decide (s.time.epochLength ≤ min 65535 (s.time.epochTicks + 1))) ∧
     (∀ n, let r := s.tenants.get n
       t.credit.balances.get n = if r.metered then min (m.credit.balances.get n + r.rate) r.ceiling else m.credit.balances.get n) ∧
     t.credit.waitList = m.credit.waitList ∧ t.credit.shares = s.credit.shares ∧
     (∀ st q, (t.streams.get st).slots.get q = ((s.streams.get st).slots.get q).map (fun o =>
       { o with
         idle := min 65535 (o.idle + 1)
         sealDue := o.sealDue || decide (s.limits.idle ≠ 0 ∧ s.limits.idle ≤ min 65535 (o.idle + 1)) })) ∧
     (∀ r, t.order r = (s.order r).map (fun o =>
       { o with phase := match o.phase with | .issued n => .issued (n - 1) | x => x })) ∧
     (∀ d, (t.dies.get d).opTimer = ((s.dies.get d).opTimer).map (· - 1) ∧ (t.dies.get d).heldErase = (s.dies.get d).heldErase ∧
       (t.dies.get d).state = (s.dies.get d).state ∧
       ∀ p, (t.dies.get d).windows.get p = match (s.dies.get d).windows.get p with | .opened n => .opened (n - 1) | w => w) ∧
     (∀ p, (t.masters.get p).ring = (s.masters.get p).ring ∧ (t.masters.get p).state = (s.masters.get p).state ∧
       (let counts := s.mgmt.device = .running ∧ (s.masters.get p).state = .active ∧ (s.masters.get p).fenceDue = false ∧
          (∃ st, (s.streams.get st).port = some p) ∧ s.limits.port ≠ 0 ∧ (s.masters.get p).ring.reservations = []
        let n := min 65535 ((s.masters.get p).inactivity + 1)
        (counts → (t.masters.get p).inactivity = n ∧ (t.masters.get p).fenceDue = decide (s.limits.port ≤ n)) ∧
        (¬ counts → t.masters.get p = s.masters.get p))) ∧
     m.Only [.streams, .credit, .groups, .dies, .masters, .time] t) ∧
  (∀ s : State, s.time.epochDue = true → ∃ t, exec .epochAdvance s = .next t ∧
     t.time = { s.time with epoch := s.time.epoch + 1, epochTicks := 0, epochDue := false } ∧
     (∀ g, t.reclaimOf g = (s.reclaimOf g).map (fun r => if r.zeroScore then r.wake else r) ∧ t.config g = s.config g) ∧
     s.Only [.groups, .time] t)

/-- CREDIT_ADMISSION (R70, R73, R74): with a balance at or below 0 or no request of the tenant waiting for credit nothing is admitted, and
afterwards one of these holds. With a balance above 0 the tenant's one waiting
request, the first of its stream, leaves the list, is charged 16 a page down to the floor, is counted, and joins its stream's line. Of two
waiting requests the first is admitted, and the second only while the balance is above 0 once the first is charged. -/
def Obligations.CreditAdmissionAdmits : Prop :=
  (∀ (n : Tenant) (s : State), s.NoCreditDue n → exec (.creditAdmission n) s = .next s) ∧
  (∀ (n : Tenant) (s : State), s.StreamsOneTenant → ∃ t, exec (.creditAdmission n) s = .next t ∧ t.NoCreditDue n ∧
    t.credit.waitList.Sublist s.credit.waitList ∧ t.credit.balances.get n ≤ s.credit.balances.get n ∧
    s.Only [.tenants, .lines, .credit] t) ∧
  (∀ (n : Tenant) (s : State) (a b : WaitEntry), 0 < s.credit.balances.get n →
    s.credit.waitList.filter (fun x => decide (x.reason = .credit) && decide (x.tenant = n)) = [a, b] → a.ctx ≠ b.ctx →
    (s.credit.waitList.find? (·.creditOf a.stream)).map (·.ctx) = some a.ctx →
    ((s.credit.waitList.filter (fun x => decide (x.ctx ≠ a.ctx))).find? (·.creditOf b.stream)).map (·.ctx) = some b.ctx →
    let charged := fun (balance : Int) (e : WaitEntry) =>
      if (s.tenants.get n).metered then max (-16777216) (balance - 16 * e.remaining) else balance
    let first := charged (s.credit.balances.get n) a
    ∃ t, exec (.creditAdmission n) s = .next t ∧
      (first ≤ 0 → t.credit.waitList = s.credit.waitList.filter (fun x => decide (x.ctx ≠ a.ctx)) ∧
        t.credit.balances.get n = first) ∧
      (0 < first → t.credit.waitList = s.credit.waitList.filter (fun x => decide (x.ctx ≠ a.ctx ∧ x.ctx ≠ b.ctx)) ∧
        t.credit.balances.get n = charged first b ∧
        (a.stream = b.stream → a.cls = .host → b.cls = .host →
          (t.lines.get a.stream).host = (s.lines.get a.stream).host ++ [a.ctx, b.ctx])) ∧
      s.Only [.tenants, .lines, .credit] t) ∧
  ∀ (n : Tenant) (s : State) (e : WaitEntry), 0 < s.credit.balances.get n →
    s.credit.waitList.filter (fun x => decide (x.reason = .credit) && decide (x.tenant = n)) = [e] →
    (s.credit.waitList.find? (·.creditOf e.stream)).map (·.ctx) = some e.ctx →
    ∃ t, exec (.creditAdmission n) s = .next t ∧
      t.credit.waitList = s.credit.waitList.filter (fun x => decide (x.ctx ≠ e.ctx)) ∧
      t.credit.shares = s.credit.shares ∧
      t.credit.balances.get n = (if (s.tenants.get n).metered
        then max (-16777216) (s.credit.balances.get n - 16 * e.remaining) else s.credit.balances.get n) ∧
      (∀ x, x ≠ n → t.credit.balances.get x = s.credit.balances.get x ∧ t.tenants.get x = s.tenants.get x) ∧
      (e.cls = .host → t.tenants.get n = { s.tenants.get n with
        hostPages := (s.tenants.get n).hostPages + BitVec.ofNat 32 e.remaining } ∧
        t.lines.get e.stream = { s.lines.get e.stream with host := (s.lines.get e.stream).host ++ [e.ctx] }) ∧
      (e.cls = .reloc → t.tenants.get n = { s.tenants.get n with
        relocPages := (s.tenants.get n).relocPages + BitVec.ofNat 32 e.remaining } ∧
        t.lines.get e.stream = { s.lines.get e.stream with reloc := (s.lines.get e.stream).reloc ++ [e.ctx] }) ∧
      (∀ st, st ≠ e.stream → t.lines.get st = s.lines.get st) ∧
      s.Only [.tenants, .lines, .credit] t

/-- IDLE_SEAL (R5, R38, R57): the unit of the slot is sealed at the current epoch, short below P; the slot empties; and the unit goes to
the front of the young list of a bound stream, which keeps at most 8. A placement that comes after the tick which made the seal due finds the
slot empty (R57): a PLACE_PAGE or REPLACE_PAGE of the stream does what it does after the seal. -/
def Obligations.IdleSealSeals : Prop :=
  ∀ (st : StreamId) (q : Position) (s : State) (o : OpenSlot) (x : UnitRecord),
    (s.streams.get st).slots.get q = some o → o.sealDue = true → s.unit? o.unit = some x → x.state = .opened →
    x.owner = some st → x.valid ≠ 0 →
    ∃ t, exec (.idleSeal st q) s = .next t ∧
      t.unit? o.unit = some { x with
        state := .sealed, sealEpoch := some s.time.epoch, short := decide (x.writePointer < s.pages) } ∧
      s.OtherUnits o.unit t ∧
      (t.streams.get st).slots.get q = none ∧
      (∀ k, k ≠ q → (t.streams.get st).slots.get k = (s.streams.get st).slots.get k) ∧
      (t.streams.get st).state = (s.streams.get st).state ∧
      (t.streams.get st).young = (if (s.streams.get st).state.bound then (o.unit :: (s.streams.get st).young).take 8
        else (s.streams.get st).young) ∧
      s.OtherStreams st t ∧ t.credit.balances = s.credit.balances ∧
      s.Only [.units, .streams, .waiters, .credit, .groups] t ∧
      ((∀ k, k ≠ q → ((s.streams.get st).slots.get k).any (·.sealDue) = false) →
        (∀ cls, exec (.placePage st cls) s = exec (.placePage st cls) t) ∧ exec (.replacePage st) s = exec (.replacePage st) t)

/-- ORDER_EXPIRY (R95, R96, R97): the unit returns to SEALED, the expiry memory takes the order, and the ORDER-EXPIRED notice frees the
slot when it is written, or waits with the order CLOSING when no notice slot is free. -/
def Obligations.OrderExpiryCloses : Prop :=
  ∀ (g : GroupId) (k : OrderSlotId) (s : State) (o : Order) (x : UnitRecord),
    s.order ⟨g, k⟩ = some o → o.phase = .issued 0 → s.unit? o.unit = some x → x.valid ≠ 0 →
    let waiting := s.reclaim.notices.get o.port
    waiting = [] ∨ s.noticePlace o.port = false →
    ∃ t, exec (.orderExpiry g k) s = .next t ∧
      t.unit? o.unit = some { x with state := .sealed, orderSlot := none } ∧ s.OtherUnits o.unit t ∧
      t.reclaim = { s.reclaim with
        expiry := s.reclaim.expiry.set o.port (((o.unit, o.number) :: s.reclaim.expiry.get o.port).take 8)
        notices := s.reclaim.notices.set o.port (if s.noticePlace o.port then [] else waiting ++ [⟨g, k⟩]) } ∧
      (∀ r, r ≠ ⟨g, k⟩ → t.order r = s.order r) ∧
      (s.noticePlace o.port = false → t.order ⟨g, k⟩ = some { o with phase := .closing .timer } ∧ t.masters = s.masters) ∧
      (s.noticePlace o.port = true → t.order ⟨g, k⟩ = none ∧ s.OtherPorts o.port t ∧
        t.masters.get o.port = { s.masters.get o.port with
          ring := (s.masters.get o.port).ring.writeRecord .notice
            (noticeRecord kindOrderExpired (orderExpiredBody o ⟨g, k⟩ .timer)) [] }) ∧
      s.Only [.units, .groups, .reclaim, .masters] t

/-- DIE_FAULT (R131, R146): the die is FAULTED with no operation, timer or queue entry left, none of its units is ERASING, its waiting
windows are granted, its tags and descriptors are released, the sticky status records the cause, and DIE-FAULTED is offered to M. The units of
its queue and of a running erase or check are among the waiting units. Of each of its units (R59) no page stays ALLOCATED and every page
above the lowest waits to be placed again, and an OPEN unit is sealed and its slot empty. That a unit emptied by the fault itself is not
ERASING either is the model's reading (log entry 18). -/
def Obligations.DieFaultStopsDie : Prop :=
  ∀ (d : DieId) (s : State) (op : Operation), (s.dies.get d).timedOperation = some op → (s.dies.get d).opTimer = some 0 →
    (s.dies.get d).state ≠ .faulted →
    ∃ t, exec (.dieFault d) s = .next t ∧
      (t.dies.get d).state = .faulted ∧ (t.dies.get d).current = none ∧ (t.dies.get d).suspendedProgram = none ∧
      (t.dies.get d).opTimer = none ∧ (t.dies.get d).heldErase = none ∧ (t.dies.get d).queue = [] ∧
      (∀ p, (t.dies.get d).windows.get p = match (s.dies.get d).windows.get p with
        | .waiting _ => .opened s.windowTicks | w => w) ∧
      (∀ u ∈ s.dieUnits d, t.unitState u ≠ some .erasing) ∧
      (∀ u, (s.dies.get d).current = some (.erase u) ∨ (s.dies.get d).current = some (.check u) ∨
        (∃ e ∈ (s.dies.get d).queue, e.unit = u) ∨ u ∈ (s.dies.get d).waiting → u ∈ (t.dies.get d).waiting) ∧
      (∀ u ∈ s.dieUnits d, ∀ x st, s.unit? u = some x → x.owner = some st →
        (∀ e ∈ t.pool, e.key.unit ≠ u) ∧
        (∀ e ∈ s.pool, e.key.unit = u → (∃ y ∈ s.pool, y.key.unit = u ∧ y.key.index < e.key.index) →
          e.ref ∈ (t.lines.get st).replace) ∧
        (∀ q, x.state = .opened → s.slotOf st u = some q →
          t.unitState u ≠ some .opened ∧ (t.streams.get st).slots.get q = none)) ∧
      t.link.tags = s.link.tags.filter (fun e => decide (e.die ≠ d)) ∧
      t.link.queue = s.link.queue.filter (fun e => decide (e.die ≠ d)) ∧
      t.link.waiting = s.link.waiting.erase d ∧
      (∀ x, x ≠ d → (t.dies.get x).state = (s.dies.get x).state ∧ (t.dies.get x).current = (s.dies.get x).current) ∧
      t.mport = s.mport.offered (noticeRecord kindDieFaulted (dieFaultedBody d op.cause op.unit op.page)) ∧
      t.mgmt = { s.mgmt with sticky :=
        ({ s.mgmt.sticky with dieFault := s.mgmt.sticky.dieFault.set d op.cause } : Sticky).offered s.mport } ∧
      s.Only [.units, .streams, .contexts, .lines, .pool, .waiters, .credit, .groups, .dies, .link, .masters, .mport,
        .mgmt] t

/-- INACTIVITY_FENCE (R159, R160) and FENCE_PORT (R160, R162): the port is left as `State.Fenced` says, with the cause of each, and
PORT-FENCED is offered to M with the numbers of streams parked and requests orphaned; a FENCED port is WRONG_STATE and a port outside P0 to P3
BAD_REQUEST. Where a tick has made a port's fence due, nothing is taken from the port any more (R159): a request command of the port leaves it
as INACTIVITY_FENCE leaves it, the record in the ring discarded; an index write comes after the fence and is not taken; and a FENCE-PORT of the
port is refused WRONG_STATE with the cause INACTIVITY recorded (R162). That requests which an earlier fence orphaned are not counted again is
the model's reading (log entry 12), and that the fence's effects may come later than the tick its choice (log entries 5 and 41). -/
def Obligations.FenceStopsPort : Prop :=
  (∀ (p : MasterId) (s : State), (s.masters.get p).fenceDue = true → (s.masters.get p).state = .active →
    ∃ t, exec (.inactivityFence p) s = .next t ∧ s.Fenced p .inactivity t ∧
      t.mport = s.mport.offered (noticeRecord kindPortFenced
        (portFencedBody p .inactivity (s.boundStreams p).length (s.liveContexts p).length)) ∧
      (∀ c ∈ [Instr.openStream p, .closeStream p, .drainStream p, .resumeStream p, .setProfile p, .write p, .invalidate p, .unitDrained p,
          .hold p, .fix p, .release p .high, .release p .low, .readWindow p, .endWindow p, .ping (.master p), .queryUnit p,
          .unknownMasterRequest p], exec c s = .next t) ∧
      ∀ w, exec (.requestTailWrite (.master p) w) s = exec (.requestTailWrite (.master p) w) t ∧
        exec (.replyHeadWrite (.master p) w) s = exec (.replyHeadWrite (.master p) w) t) ∧
  (∀ s : State, s.Ready .management kindFencePort → 4 ≤ (s.headRequest .management).byte 4 →
    ∃ t, exec .fencePort s = .next t ∧ s.OnlyAnswered .management .badRequest [] [] t) ∧
  ∀ (p : MasterId) (s : State), s.Ready .management kindFencePort →
    let q := s.headRequest .management
    q.byte 4 = p.val →
    ((s.masters.get p).state = .active → (s.masters.get p).fenceDue = true → ∃ t, exec .fencePort s = .next t ∧ s.Fenced p .inactivity t ∧
      t.mport = (s.mport.take.offered (noticeRecord kindPortFenced
        (portFencedBody p .inactivity (s.boundStreams p).length (s.liveContexts p).length))).writeReply s.mport.freeSlot
        (replyRecord kindFencePort q.tag .wrongState []) []) ∧
    ((s.masters.get p).state = .active → (s.masters.get p).fenceDue = false → ∃ t, exec .fencePort s = .next t ∧ s.Fenced p .management t ∧
      t.mport = (s.mport.take.offered (noticeRecord kindPortFenced
        (portFencedBody p .management (s.boundStreams p).length (s.liveContexts p).length))).writeReply s.mport.freeSlot
        (replyRecord kindFencePort q.tag .ok []) []) ∧
    ((s.masters.get p).state = .fenced → ∃ t, exec .fencePort s = .next t ∧ s.OnlyAnswered .management .wrongState [] [] t)

/-! ## Writes to port memory -/

/-- REQUEST_TAIL_WRITE (R151, R187): a value within 32 of the request head becomes the tail; another raises the index refusals count and
leaves the tail; a FENCED port takes and counts none (a port whose fence is due is dealt with in `FenceStopsPort`). The memory holds the bytes of the word that were written in each case (log entry 6). -/
def Obligations.TailWriteMovesTail : Prop :=
  ∀ (p : PortId) (value : IndexWrite) (s : State), s.NoFenceDue p →
    let r := s.ring p
    let v : BitVec 6 := value.index.setWidth 6
    let written := value.index :: value.rest.take 3
    ∃ t, exec (.requestTailWrite p value) s = .next t ∧
      (∀ a, (t.ring p).mem.read a =
        if 0x0C00 ≤ a ∧ a < 0x0C00 + written.length then written.getD (a - 0x0C00) 0 else r.mem.read a) ∧
      (s.inService p = true → (v - r.requestHead).toNat ≤ 32 →
        t.ring p = { r with requestTail := v, mem := (t.ring p).mem }) ∧
      (s.inService p = true → 32 < (v - r.requestHead).toNat →
        t.ring p = { r with refusals := min 65535 (r.refusals + 1), mem := (t.ring p).mem }) ∧
      (s.inService p = false → t.ring p = { r with mem := (t.ring p).mem }) ∧
      (∀ x, x ≠ p → t.ring x = s.ring x) ∧ s.Only [.masters, .mport] t ∧
      ∀ m, let y := t.masters.get m
        y = { s.masters.get m with ring := y.ring }

/-- REPLY_HEAD_WRITE (R155, R187) with no notice waiting: an index among the unread records becomes the head, the records passed are
released from the holdings by their class, and a master port's inactivity count is 0; another value is refused and counted; a FENCED port
takes and counts none (a port whose fence is due is dealt with in `FenceStopsPort`). The interrupt line of a port is asserted afterwards exactly while it is in service and holds an unread record (R154). The
memory holds the bytes of the word that were written in each case (log entry 6). -/
def Obligations.HeadWriteReleases : Prop :=
  ∀ (p : PortId) (value : IndexWrite) (s : State), s.NoFenceDue p → (∀ m, p = .master m → s.reclaim.notices.get m = []) →
    let r := s.ring p
    let w : BitVec 7 := value.index.setWidth 7
    let n := (w - r.replyHead).toNat
    let passed := fun cls => ((List.range n).filter (fun k => decide (r.classes.get (Fin.ofNat 64 (r.replyHead.toNat + k)) = cls))).length
    let written := value.index :: value.rest.take 3
    ∃ t, exec (.replyHeadWrite p value) s = .next t ∧
      (∀ a, (t.ring p).mem.read a =
        if 0x0C0C ≤ a ∧ a < 0x0C0C + written.length then written.getD (a - 0x0C0C) 0 else r.mem.read a) ∧
      (s.inService p = true → n ≤ r.unread →
        t.ring p = { r with
          replyHead := w
          replyHoldings := r.replyHoldings - passed .reply
          noticeHoldings := r.noticeHoldings - passed .notice
          mem := (t.ring p).mem } ∧
        ∀ m, p = .master m → (t.masters.get m).inactivity = 0) ∧
      (s.inService p = true → r.unread < n →
        t.ring p = { r with refusals := min 65535 (r.refusals + 1), mem := (t.ring p).mem }) ∧
      (s.inService p = false → t.ring p = { r with mem := (t.ring p).mem }) ∧
      (∀ x, t.interrupt x = true ↔ (∀ m, x = .master m → (t.masters.get m).state = .active) ∧ (t.ring x).replyTail ≠ (t.ring x).replyHead) ∧
      (∀ x, x ≠ p → t.ring x = s.ring x) ∧ s.Only [.masters, .mport] t

/-- OTHER_MEMORY_WRITE (R186, R187): each byte is held, but for bytes 1 to 3 of an index word whose byte 0 the write does not include, and
the unused part, which keep what they held; no index, holding or record changes. That each word is judged by its own byte 0 in a write that
reaches over several is the model's reading (log entry 6). A write past the block, to offsets the manual gives no memory, is a fault: the
model's choice (log entry 13). -/
def Obligations.MemoryWriteHolds : Prop :=
  ∀ (p : PortId) (offset : Nat) (bytes : List Byte) (s : State),
    ((Instr.otherMemoryWrite p offset bytes).wellFormed = true → ∃ t, exec (.otherMemoryWrite p offset bytes) s = .next t ∧
      (∀ a, (t.ring p).mem.read a =
        if offset ≤ a ∧ a < offset + bytes.length ∧ ¬ (0x0C00 ≤ a ∧ a < 0x0C10 ∧ a / 4 * 4 < offset) ∧
          ¬ (0x0C10 ≤ a ∧ a < 0x1000)
        then bytes.getD (a - offset) 0 else (s.ring p).mem.read a) ∧
      t.ring p = { s.ring p with mem := (t.ring p).mem } ∧ (∀ x, x ≠ p → t.ring x = s.ring x) ∧
      s.Only [.masters, .mport] t) ∧
    (20480 < offset + bytes.length → exec (.otherMemoryWrite p offset bytes) s = .fault (.outsidePortMemory offset))

/-- NOTICE_WRITE (R95, R158): with a notice slot free, the oldest waiting notice is written: a PENDING order becomes ISSUED for T_order
ticks, and a CLOSING order's slot is FREE. -/
def Obligations.NoticeWriteSendsOldest : Prop :=
  ∀ (p : MasterId) (s : State) (r : NoticeRef) (rest : List NoticeRef) (o : Order),
    s.reclaim.notices.get p = r :: rest → s.noticePlace p = true → s.order r = some o →
    (∀ n, o.phase ≠ .issued n) →
    ∃ t, exec (.noticeWrite p) s = .next t ∧
      t.reclaim = { s.reclaim with notices := s.reclaim.notices.set p rest } ∧
      (∀ x, x ≠ r → t.order x = s.order x) ∧ s.OtherPorts p t ∧
      (o.phase = .pending → t.order r = some { o with phase := .issued (max 1 s.limits.order) } ∧
        t.masters.get p = { s.masters.get p with
          ring := (s.masters.get p).ring.writeRecord .notice (noticeRecord kindRelocateOrder
            (relocateOrderBody o r (((s.unit? o.unit).map (·.valid)).getD 0))) [] }) ∧
      (∀ c, o.phase = .closing c → t.order r = none ∧
        t.masters.get p = { s.masters.get p with
          ring := (s.masters.get p).ring.writeRecord .notice
            (noticeRecord kindOrderExpired (orderExpiredBody o r c)) [] }) ∧
      s.Only [.groups, .reclaim, .masters] t

/-! ## Streams -/

/-- OPEN_STREAM (R26, R92): a CLOSED or PARKED stream that is placeable becomes OPEN and bound to the port, the opening wakes every group,
and the reply is OK; a bound stream is refused STREAM_STATE or BOUND_ELSEWHERE, and an unplaceable or absent one BAD_STREAM. RESUME_STREAM
(R30): a QUIESCED stream bound to the port becomes OPEN, its other fields but the last activity tick kept, the opening wakes every group,
and the reply is OK; an OPEN or DRAINING one is refused STREAM_STATE. -/
def Obligations.OpenStreamBinds : Prop :=
  (∀ (p : MasterId) (s : State), s.Ready (.master p) kindOpenStream →
     let q := s.headRequest (.master p)
     (∀ st, q.stream = some st → (s.streams.get st).state.bound = false → s.placeable st = true →
       ∃ t, exec (.openStream p) s = .next t ∧ s.Answered (.master p) .ok [] [] t ∧
         t.streams.get st = { s.streams.get st with state := .opened, port := some p, lastActivity := s.time.tick } ∧
         s.OtherStreams st t ∧
         (∀ g, t.reclaimOf g = (s.reclaimOf g).map ReclaimRecord.wake ∧ t.config g = s.config g) ∧
         s.Only [.streams, .groups, .masters] t) ∧
     (∀ st, q.stream = some st → (s.streams.get st).state.bound = true →
       ∃ t, exec (.openStream p) s = .next t ∧
         s.OnlyAnswered (.master p) (if (s.streams.get st).port = some p then .streamState else .boundElsewhere) [] [] t) ∧
     ((q.stream = none ∨ ∃ st, q.stream = some st ∧ (s.streams.get st).state.bound = false ∧ s.placeable st = false) →
       ∃ t, exec (.openStream p) s = .next t ∧ s.OnlyAnswered (.master p) .badStream [] [] t)) ∧
  (∀ (p : MasterId) (s : State) (st : StreamId), s.Ready (.master p) kindResumeStream →
     (s.headRequest (.master p)).stream = some st → (s.streams.get st).port = some p →
     ((s.streams.get st).state = .quiesced → ∃ t, exec (.resumeStream p) s = .next t ∧
       s.Answered (.master p) .ok [] [] t ∧
       t.streams.get st = { s.streams.get st with state := .opened, lastActivity := s.time.tick } ∧ s.OtherStreams st t ∧
       (∀ g, t.reclaimOf g = (s.reclaimOf g).map ReclaimRecord.wake ∧ t.config g = s.config g) ∧
       s.Only [.streams, .groups, .masters] t) ∧
     ((s.streams.get st).state ≠ .quiesced → ∃ t, exec (.resumeStream p) s = .next t ∧
       s.Answered (.master p) .streamState [] [] t ∧
       t.streams.get st = { s.streams.get st with lastActivity := s.time.tick } ∧ s.OtherStreams st t ∧
       s.Only [.streams, .masters] t))

/-- CLOSE_STREAM (R5, R27): a bound stream that is QUIESCED, or OPEN with no outstanding request, becomes CLOSED and unbound with every slot
and its young list empty, and the reply is OK; otherwise STREAM_STATE. The unit of each slot is SEALED at the current epoch, short below P; one
that is empty, settled and not held leaves SEALED at once (R9), to UNKNOWN while PLW_N is asserted (R128). -/
def Obligations.CloseStreamUnbinds : Prop :=
  ∀ (p : MasterId) (s : State) (st : StreamId), s.Ready (.master p) kindCloseStream →
    (s.headRequest (.master p)).stream = some st → (s.streams.get st).port = some p →
    let r := s.streams.get st
    (r.state = .quiesced ∨ (r.state = .opened ∧ r.outstanding = 0) → ∃ t, exec (.closeStream p) s = .next t ∧
      s.Answered (.master p) .ok [] [] t ∧
      (t.streams.get st).state = .closed ∧ (t.streams.get st).port = none ∧ (t.streams.get st).young = [] ∧
      (∀ k, (t.streams.get st).slots.get k = none) ∧ (t.streams.get st).tenant = r.tenant ∧
      (t.streams.get st).group = r.group ∧ (t.streams.get st).target = r.target ∧
      (t.streams.get st).outstanding = r.outstanding ∧
      (∀ k o x, r.slots.get k = some o → s.unit? o.unit = some x → x.state = .opened →
        ((x.valid ≠ 0 ∨ x.settled = false ∨ x.hold ≠ .noHold) → t.unit? o.unit = some { x with
          state := .sealed, sealEpoch := some s.time.epoch, short := decide (x.writePointer < s.pages) }) ∧
        (x.valid = 0 → x.settled = true → x.hold = .noHold → t.unitState o.unit =
          some (if x.retirePending then .retired else if s.plwAsserted then .unknown else .erasing))) ∧
      (∀ x, x ≠ st → (t.streams.get x).state = (s.streams.get x).state ∧ (t.streams.get x).port = (s.streams.get x).port ∧
        (t.streams.get x).slots = (s.streams.get x).slots) ∧
      s.Only [.units, .streams, .waiters, .credit, .groups, .dies, .masters] t) ∧
    (¬ (r.state = .quiesced ∨ (r.state = .opened ∧ r.outstanding = 0)) → ∃ t, exec (.closeStream p) s = .next t ∧
      s.Answered (.master p) .streamState [] [] t ∧
      t.streams.get st = { r with lastActivity := s.time.tick } ∧ s.OtherStreams st t ∧ s.Only [.streams, .masters] t)

/-- DRAIN_STREAM (R28, R29, R79): an OPEN stream of the port becomes DRAINING and keeps the request's reply slot, and none of its requests
waits for credit any more, each being in its line and charged 16 a page down to the floor, those first that the examination which a refill
has made due admits (R73; log entry 43); with no outstanding request the drain ends at
once with the reply DRAINED. A stream of the port that is not OPEN is refused STREAM_STATE. DRAIN_END (R29) ends a drain whose outstanding
request count is 0. -/
def Obligations.DrainQuiesces : Prop :=
  (∀ (p : MasterId) (s : State) (st : StreamId), s.Ready (.master p) kindDrainStream →
    let q := s.headRequest (.master p)
    let r := s.streams.get st
    q.stream = some st → r.port = some p →
    (r.state ≠ .opened → ∃ t, exec (.drainStream p) s = .next t ∧ s.Answered (.master p) .streamState [] [] t ∧
      t.streams.get st = { r with lastActivity := s.time.tick } ∧ s.OtherStreams st t ∧ s.Only [.streams, .masters] t) ∧
    (r.state = .opened → r.outstanding ≠ 0 → ∃ m t, exec (.creditAdmission r.tenant) s = .next m ∧
      (s.NoCreditDue r.tenant → m = s) ∧ exec (.drainStream p) s = .next t ∧ s.Pledged (.master p) t ∧
      t.streams.get st = { r with state := .draining, drain := some ⟨q.slot, q.tag⟩, lastActivity := s.time.tick } ∧
      s.OtherStreams st t ∧ (∀ e ∈ t.credit.waitList, e.creditOf st = false) ∧
      (∀ e ∈ m.credit.waitList, e.creditOf st = true →
        e.ctx ∈ (t.lines.get st).host ∨ e.ctx ∈ (t.lines.get st).reloc) ∧
      ((s.credit.waitList.map (·.ctx)).Nodup → ∀ e ∈ s.credit.waitList, e.creditOf st = true →
        e.ctx ∈ (t.lines.get st).host ∨ e.ctx ∈ (t.lines.get st).reloc) ∧
      (∀ x, x ≠ st → t.lines.get x = m.lines.get x) ∧ t.credit.shares = s.credit.shares ∧
      (let waiting := m.credit.waitList.filter (·.creditOf st)
       let total : Nat := (waiting.map (·.remaining)).sum
       (∀ e ∈ waiting, e.tenant = r.tenant ∧ e.cls = .host) → s.BalancesLegal →
        t.credit.balances.get r.tenant = (if (s.tenants.get r.tenant).metered
          then max (-16777216) (m.credit.balances.get r.tenant - 16 * total) else m.credit.balances.get r.tenant) ∧
        (t.tenants.get r.tenant).hostPages = (m.tenants.get r.tenant).hostPages + BitVec.ofNat 32 total ∧
        ∀ n, n ≠ r.tenant → t.credit.balances.get n = s.credit.balances.get n) ∧
      s.Only [.streams, .tenants, .lines, .credit, .masters] t) ∧
    (r.state = .opened → r.outstanding = 0 → ∃ t, exec (.drainStream p) s = .next t ∧ s.Answered (.master p) .drained [] [] t ∧
      (t.streams.get st).state = .quiesced ∧ (t.streams.get st).port = some p ∧ (t.streams.get st).drain = none ∧
      (∀ k, (t.streams.get st).slots.get k = none) ∧
      s.Only [.units, .streams, .tenants, .lines, .waiters, .credit, .groups, .dies, .masters] t)) ∧
  ∀ (s : State) (st : StreamId) (p : MasterId) (pl : Pledge),
    let r := s.streams.get st
    r.state = .draining → r.outstanding = 0 → r.port = some p → r.drain = some pl →
    ∃ t, exec (.drainEnd st) s = .next t ∧
      (t.streams.get st).state = .quiesced ∧ (t.streams.get st).port = some p ∧ (t.streams.get st).drain = none ∧
      (∀ k, (t.streams.get st).slots.get k = none) ∧
      t.masters.get p = { s.masters.get p with
        ring := (s.masters.get p).ring.writeReply pl.slot (replyRecord kindDrainStream pl.tag .drained []) [] } ∧
      s.OtherPorts p t ∧ s.Only [.units, .streams, .waiters, .credit, .groups, .dies, .masters] t

/-- SET_PROFILE (R33, R34, R55) on a stream of the port: with no open unit the profile takes effect at once, with seal-now after every slot is
sealed, and otherwise it is stored as pending; the reply is OK. A profile that takes effect has the stream's waiting re-placement list and then
its SPACE entries examined, as `State.Examined` says, the list served before the entries and each until a page finds no position; a
profile stored as pending calls for none. The profile is in force as given when none of the stream's pages waits for a place. A mask of 0 or an
unknown mode is BAD_REQUEST. -/
def Obligations.SetProfileTakesEffect : Prop :=
  ∀ (p : MasterId) (s : State) (st : StreamId), s.Ready (.master p) kindSetProfile →
    let q := s.headRequest (.master p)
    let r := s.streams.get st
    q.stream = some st → r.port = some p →
    let takes := (∀ k, r.slots.get k = none) ∨ q.sealNow = true
    (∀ pr, q.profile = some pr → ∃ m n t, exec (.setProfile p) s = .next t ∧ s.Answered (.master p) .ok [] [] t ∧
      n.serveSuspended.Only [.masters] t ∧
      (takes →
        (m.streams.get st).profile = pr ∧ (m.streams.get st).pendingProfile = none ∧
        (m.streams.get st).packCursor = lowestPosition pr.mask ∧ (m.streams.get st).spreadCursor = lowestPosition pr.mask ∧
        (∀ k, (m.streams.get st).slots.get k = none) ∧
        m.waiters = s.waiters.map (fun w => if w.stream = st then { w with examine := true } else w) ∧
        m.credit = { s.credit with waitList := s.credit.waitList.map (fun e =>
          if e.reason = .space ∧ e.stream = st then { e with examine := true } else e) } ∧
        m.Examined (fun x => decide (x = st)) n) ∧
      (¬ takes → n = m ∧ m.streams.get st = { r with pendingProfile := some pr, lastActivity := s.time.tick } ∧ s.OtherStreams st m ∧
        s.Only [.streams, .masters] m) ∧
      (m.streams.get st).state = r.state ∧ (m.streams.get st).port = r.port ∧
      s.Only [.units, .streams, .waiters, .credit, .groups, .dies, .masters] m) ∧
    ((∀ w ∈ s.waiters, w.stream ≠ st) → (∀ e ∈ s.credit.waitList, ¬ (e.reason = .space ∧ e.stream = st)) →
     ∀ pr, q.profile = some pr → ∃ t, exec (.setProfile p) s = .next t ∧ s.Answered (.master p) .ok [] [] t ∧
      (takes →
        (t.streams.get st).profile = pr ∧ (t.streams.get st).pendingProfile = none ∧
        (t.streams.get st).packCursor = lowestPosition pr.mask ∧ (t.streams.get st).spreadCursor = lowestPosition pr.mask ∧
        ∀ k, (t.streams.get st).slots.get k = none) ∧
      (¬ takes →
        t.streams.get st = { r with pendingProfile := some pr, lastActivity := s.time.tick } ∧ s.OtherStreams st t) ∧
      (t.streams.get st).state = r.state ∧ (t.streams.get st).port = r.port ∧
      s.Only [.units, .streams, .waiters, .credit, .groups, .dies, .link, .masters] t) ∧
    (q.profile = none → ∃ t, exec (.setProfile p) s = .next t ∧ s.Answered (.master p) .badRequest [] [] t ∧
      t.streams.get st = { r with lastActivity := s.time.tick } ∧ s.OtherStreams st t ∧ s.Only [.streams, .masters] t)

/-- The checks of R24 that CLOSE_STREAM, DRAIN_STREAM, RESUME_STREAM and SET_PROFILE share: a stream number above 255 is BAD_STREAM and a
stream that is not bound to the port NOT_BOUND, and nothing but the port's rings changes. -/
def Obligations.StreamChecksRefuse : Prop :=
  ∀ (p : MasterId) (s : State) (k : Nat) (c : Instr),
    (k, c) ∈ [(kindCloseStream, Instr.closeStream p), (kindDrainStream, Instr.drainStream p),
      (kindResumeStream, Instr.resumeStream p), (kindSetProfile, Instr.setProfile p)] →
    s.Ready (.master p) k →
    ((s.headRequest (.master p)).stream = none →
      ∃ t, exec c s = .next t ∧ s.OnlyAnswered (.master p) .badStream [] [] t) ∧
    (∀ st, (s.headRequest (.master p)).stream = some st → (s.streams.get st).port ≠ some p →
      ∃ t, exec c s = .next t ∧ s.OnlyAnswered (.master p) .notBound [] [] t)

/-! ## Writes -/

/-- WRITE that passes R45 (R43, R46, R53, R70, R71): its context is made, its stream counts one request more, its port's share one place
more, and its reply slot is kept. A RELOC write and an unmetered or credited HOST write are charged, counted and join their line; another
HOST write waits for credit. The examination of the tenant that a refill has made due comes first (R73; log entry 43), so that a request
which joins its line at once overtakes no request of the tenant that waits for credit. WRITE that fails a check of R45: the status of the first check that fails, in their order, and nothing else
of the part changes. -/
def Obligations.WriteAnswersChecks : Prop :=
  (∀ (p : MasterId) (s : State) (st : StreamId) (cls : WriteClass) (src : Option SourceUnit),
     s.Ready (.master p) kindWrite →
     let q := s.headRequest (.master p)
     let r := s.streams.get st
     let n := q.pageCount
     q.cls = some cls → 1 ≤ n → n ≤ 64 → q.stream = some st → r.group ≠ none → r.port = some p → r.state = .opened →
     s.placeable st = true →
     (cls = .host → src = none) →
     (cls = .reloc → ∃ x, s.unit? q.source = some x ∧ (x.state = .sealed ∨ x.state = .reclaim) ∧ x.tenant = some r.tenant ∧
       src = some ⟨q.source, x.sealEpoch, x.eraseCount⟩) →
     let ctx : WriteContext :=
       ⟨⟨p, q.slot⟩, q.tag, st, cls, q.handle, src, 0, List.replicate n ⟨.unplaced, none, 0⟩, 0, 0, false⟩
     let metered := (s.tenants.get r.tenant).metered
     ∃ m, exec (.creditAdmission r.tenant) s = .next m ∧ s.Only [.tenants, .lines, .credit] m ∧ (s.NoCreditDue r.tenant → m = s) ∧
     let b := m.credit.balances.get r.tenant
     let waits := cls = .host ∧ metered = true ∧ (b ≤ 0 ∨ m.credit.waitList.any (·.creditOf st) = true)
     ∃ t, exec (.write p) s = .next t ∧ s.Pledged (.master p) t ∧ t.contexts = s.contexts ++ [ctx] ∧
       t.streams.get st = { r with outstanding := r.outstanding + 1, lastActivity := s.time.tick } ∧ s.OtherStreams st t ∧
       t.credit.shares = s.credit.shares.set p (s.credit.shares.get p + 1) ∧
       (waits → t.credit.waitList = m.credit.waitList ++ [⟨⟨p, q.slot⟩, st, r.tenant, .host, .credit, n, false⟩] ∧
         t.credit.balances = m.credit.balances ∧ t.tenants = m.tenants ∧ t.lines = m.lines) ∧
       (cls = .host → metered = true → ¬ waits → s.StreamsOneTenant →
         ∀ e ∈ t.credit.waitList, ¬ (e.reason = .credit ∧ e.tenant = r.tenant)) ∧
       (¬ waits → t.credit.waitList = m.credit.waitList ∧
         t.credit.balances.get r.tenant = (if metered then max (-16777216) (b - 16 * n) else b) ∧
         (∀ x, x ≠ r.tenant → t.credit.balances.get x = s.credit.balances.get x ∧ t.tenants.get x = s.tenants.get x) ∧
         (cls = .host → (t.tenants.get r.tenant).hostPages = (m.tenants.get r.tenant).hostPages + BitVec.ofNat 32 n ∧
           (t.lines.get st).host = (m.lines.get st).host ++ [⟨p, q.slot⟩]) ∧
         (cls = .reloc → (t.tenants.get r.tenant).relocPages = (m.tenants.get r.tenant).relocPages + BitVec.ofNat 32 n ∧
           (t.lines.get st).reloc = (m.lines.get st).reloc ++ [⟨p, q.slot⟩]) ∧
         ∀ x, x ≠ st → t.lines.get x = m.lines.get x) ∧
       s.Only [.streams, .tenants, .contexts, .lines, .credit, .masters] t) ∧
  (∀ (p : MasterId) (s : State), s.Ready (.master p) kindWrite →
     let q := s.headRequest (.master p)
     let refused := fun (status : Status) => ∃ t, exec (.write p) s = .next t ∧ s.OnlyAnswered (.master p) status [] [] t
     ((q.cls = none ∨ q.pageCount = 0 ∨ 64 < q.pageCount) → refused .badRequest) ∧
     ∀ cls, q.cls = some cls → 1 ≤ q.pageCount → q.pageCount ≤ 64 →
       ((q.stream = none ∨ ∃ st, q.stream = some st ∧ (s.streams.get st).group = none) → refused .badStream) ∧
       ∀ st, q.stream = some st → (s.streams.get st).group ≠ none →
         let r := s.streams.get st
         (r.port ≠ some p → refused .notBound) ∧
         (r.port = some p → r.state ≠ .opened → refused .streamState) ∧
         (r.port = some p → r.state = .opened → s.placeable st = false → refused .badStream) ∧
         (r.port = some p → r.state = .opened → s.placeable st = true → cls = .reloc →
           (s.unit? q.source = none → refused .badRequest) ∧
           ∀ x, s.unit? q.source = some x →
             (x.state ≠ .sealed → x.state ≠ .reclaim → refused .badSource) ∧
             ((x.state = .sealed ∨ x.state = .reclaim) → x.tenant ≠ some r.tenant → refused .tenantMismatch)))

/-- PLACE_PAGE into a unit that is open at the chosen position and has room after it (R44, R50, R52): the unit's write pointer rises by 1, the
page takes the index it had, the context records the address, a pool entry is taken for the page, and the page joins the die's backlog at the
level of R52. The last fresh page of a request takes it off its line and the credit wait list and releases its place (R47, R53, R77). The page
that fills the unit seals it, its slot empties, and it goes to the front of a bound stream's young list (R38, R56). PLACE_PAGE where no enabled
position can take a page (R54): the request waits for space at the end of the credit wait list, and nothing is placed; one that waits there
already keeps its place and is called for no longer, and its count falls as its pages are placed. A request that waits uncalled, or stands
behind a re-placement list (R47), places nothing (R54, R55). -/
def Obligations.PlacePageTakesPage : Prop :=
  (∀ (st : StreamId) (cls : WriteClass) (s : State) (x : WriteContext) (c : GroupConfig) (k : Position) (o : OpenSlot)
     (u : UnitRecord),
     s.headContext st cls = some x → s.mayPlaceFresh st x = true → (s.streams.get st).pendingProfile = none → s.NoSealDue st →
     s.streamConfig st = some c → s.findPosition st c (freshKind x.cls) = some k →
     (s.streams.get st).slots.get k = some o → s.unit? o.unit = some u → u.writePointer + 1 < s.pages →
     x.nextFresh + 1 < x.pages.length →
     ∃ t, exec (.placePage st cls) s = .next t ∧
       (t.unit? o.unit).map (·.writePointer) = some (u.writePointer + 1) ∧
       (t.unit? o.unit).map (·.state) = some u.state ∧
       t.pool = s.pool ++ [⟨⟨x.id, x.nextFresh⟩, ⟨o.unit, u.writePointer⟩, c.dieAt k, s.levelFor st c x.cls,
         x.handle + BitVec.ofNat 32 x.nextFresh⟩] ∧
       t.context x.id = some { x with
         nextFresh := x.nextFresh + 1
         pages := x.pages.modify x.nextFresh (fun g => { g with
           outcome := .allocated, address := some ⟨c.dieAt k, s.blockOf o.unit, u.writePointer⟩ }) } ∧
       (t.streams.get st).slots.get k = some { o with allocated := o.allocated + 1, idle := 0, sealDue := false } ∧
       (t.streams.get st).cursor = (match (s.streams.get st).profile.mode with
         | .pack => k | .spread => s.nextEnabled st k) ∧
       (s.NoneSuspended → (t.dies.get (c.dieAt k)).backlogs.get (s.levelFor st c x.cls) =
         (s.dies.get (c.dieAt k)).backlogs.get (s.levelFor st c x.cls) ++ [⟨o.unit, u.writePointer⟩]) ∧
       s.OtherStreams st t ∧ t.credit = { s.credit with waitList := s.credit.waitList.map (fun e =>
         if e.ctx = x.id then { e with remaining := x.pages.length - (x.nextFresh + 1) } else e) } ∧
       s.Only [.units, .streams, .contexts, .pool, .credit, .dies, .link] t) ∧
  (∀ (st : StreamId) (cls : WriteClass) (s : State) (x : WriteContext) (c : GroupConfig) (k : Position) (o : OpenSlot)
     (u : UnitRecord),
     s.headContext st cls = some x → s.mayPlaceFresh st x = true → (s.streams.get st).pendingProfile = none → s.NoSealDue st →
     s.streamConfig st = some c → s.findPosition st c (freshKind x.cls) = some k →
     (s.streams.get st).slots.get k = some o → s.unit? o.unit = some u → u.writePointer + 1 < s.pages →
     x.nextFresh + 1 = x.pages.length →
     ∃ t, exec (.placePage st cls) s = .next t ∧
       (t.lines.get st).host = (s.lines.get st).host.erase x.id ∧ (t.lines.get st).reloc = (s.lines.get st).reloc.erase x.id ∧
       (t.lines.get st).replace = (s.lines.get st).replace ∧ (∀ y, y ≠ st → t.lines.get y = s.lines.get y) ∧
       t.credit = { s.credit with
         waitList := s.credit.waitList.filter (fun e => decide (e.ctx ≠ x.id))
         shares := s.credit.shares.set x.id.port (s.credit.shares.get x.id.port - 1) } ∧
       (t.unit? o.unit).map (·.writePointer) = some (u.writePointer + 1) ∧ s.OtherStreams st t ∧
       s.Only [.units, .streams, .contexts, .lines, .pool, .credit, .dies, .link] t) ∧
  (∀ (st : StreamId) (cls : WriteClass) (s : State) (x : WriteContext) (c : GroupConfig) (k : Position) (o : OpenSlot)
     (u : UnitRecord),
     s.headContext st cls = some x → s.mayPlaceFresh st x = true → (s.streams.get st).pendingProfile = none → s.NoSealDue st →
     s.streamConfig st = some c → s.findPosition st c (freshKind x.cls) = some k →
     (s.streams.get st).slots.get k = some o → s.unit? o.unit = some u → u.writePointer + 1 = s.pages →
     u.programmed ≤ u.writePointer → u.retirePending = false → u.owner = some st → x.nextFresh + 1 < x.pages.length →
     ∃ t, exec (.placePage st cls) s = .next t ∧
       (t.unit? o.unit).map (fun y => (y.state, y.writePointer, y.sealEpoch, y.short)) =
         some (.sealed, s.pages, some s.time.epoch, false) ∧
       (t.streams.get st).slots.get k = none ∧
       (t.streams.get st).young = (if (s.streams.get st).state.bound then (o.unit :: (s.streams.get st).young).take 8
         else (s.streams.get st).young) ∧
       s.OtherStreams st t ∧ s.Only [.units, .streams, .contexts, .pool, .credit, .groups, .dies, .link] t) ∧
  (∀ (st : StreamId) (cls : WriteClass) (s : State) (x : WriteContext) (c : GroupConfig),
     s.headContext st cls = some x → s.mayPlaceFresh st x = true → (s.streams.get st).pendingProfile = none → s.NoSealDue st →
     s.streamConfig st = some c → s.findPosition st c (freshKind x.cls) = none → s.spaceEntry x.id = none → s.NoneSuspended →
     exec (.placePage st cls) s = .next (s.modWaitList (· ++ [⟨x.id, x.stream, (s.streams.get x.stream).tenant, x.cls, .space,
       x.pages.length - x.nextFresh, false⟩]))) ∧
  (∀ (st : StreamId) (cls : WriteClass) (s : State) (x : WriteContext) (c : GroupConfig),
     s.headContext st cls = some x → s.mayPlaceFresh st x = true → (s.streams.get st).pendingProfile = none → s.NoSealDue st →
     s.streamConfig st = some c → s.findPosition st c (freshKind x.cls) = none → s.spaceEntry x.id ≠ none → s.NoneSuspended →
     exec (.placePage st cls) s = .next (s.modWaitList (fun l => l.map (fun e =>
       if e.ctx = x.id then { e with examine := false } else e)))) ∧
  ∀ (st : StreamId) (cls : WriteClass) (s : State) (x : WriteContext), s.headContext st cls = some x → s.NoSealDue st →
    ((s.lines.get st).replace ≠ [] ∨ (∃ e ∈ s.credit.waitList, e.ctx = x.id ∧ e.reason = .space) ∧
      ∀ e ∈ s.credit.waitList, e.reason = .space → e.stream = st → e.examine = false) →
    exec (.placePage st cls) s = .next s

/-- PLACE_PAGE where the chosen position's slot is empty (R4, R36, R51): the unit at the head of the die's free list is opened for the
stream with its tenant and takes the page as its first, and the free lists stay exact and in wear order (R16). The position chosen (R49, R50,
R51) is the first at or after the cursor that is enabled and can take the page: its die is not FAULTED, and its slot holds a unit or its die has
a free one, which a fresh HOST page may open only while the group free count is above the reserve. A HOST page joins the level of the stream's
priority and a RELOC page that of the group's relocation level (R52), and the position after one is the next enabled (R50). That one page is placed in the event of the
opening, the stream's SPACE entries that the opening calls for (R55) being placed by later PLACE_PAGEs, is the model's reading (log entry
11). -/
def Obligations.PlacePageOpensUnit : Prop :=
  (∀ (s : State) (st : StreamId) (c : GroupConfig) (kind : PlaceKind), s.streamConfig st = some c →
    let r := s.streams.get st
    let can := fun q : Position => c.first + q.val ≤ c.last ∧ r.profile.mask.getLsbD q.val = true ∧
      (s.dies.get (c.dieAt q)).state ≠ .faulted ∧
      (r.slots.get q ≠ none ∨ (s.freeLists.get (c.dieAt q) ≠ [] ∧ (kind = .freshHost → c.reserve < s.freeCount c)))
    let cursor := match r.profile.mode with | .pack => r.packCursor | .spread => r.spreadCursor
    (∀ q, s.findPosition st c kind = some q → can q ∧ ∀ n : Position, n < q - cursor → ¬ can (cursor + n)) ∧
    (s.findPosition st c kind = none → ∀ q, ¬ can q) ∧
    (s.levelFor st c .host = r.profile.priority ∧
      s.levelFor st c .reloc = match c.relocLevel with | some l => l | none => r.profile.priority) ∧
    let enabled := fun q : Position => c.first + q.val ≤ c.last ∧ r.profile.mask.getLsbD q.val = true
    ∀ q, enabled q → enabled (s.nextEnabled st q) ∧ ∀ n : Position, n < s.nextEnabled st q - (q + 1) → ¬ enabled (q + 1 + n)) ∧
  ∀ (st : StreamId) (cls : WriteClass) (s : State) (x : WriteContext) (c : GroupConfig) (k : Position) (v : Nat)
    (rest : List Nat) (u : UnitRecord),
    s.headContext st cls = some x → s.mayPlaceFresh st x = true → (s.streams.get st).pendingProfile = none → s.NoSealDue st →
    s.streamConfig st = some c → s.findPosition st c (freshKind x.cls) = some k →
    (s.streams.get st).slots.get k = none → s.freeLists.get (c.dieAt k) = v :: rest → s.unit? v = some u → 1 < s.pages →
    ∃ t, exec (.placePage st cls) s = .next t ∧
      t.freeLists = s.freeLists.set (c.dieAt k) rest ∧
      (t.unit? v).map (fun y => (y.state, y.tenant, y.owner, y.writePointer)) =
        some (.opened, some (s.streams.get st).tenant, some st, 1) ∧
      (t.unit? v).map (fun y => (y.programmed, y.valid, y.eraseCount, y.hold, y.short, y.retirePending)) =
        some (0, 0, u.eraseCount, .noHold, false, false) ∧
      (t.streams.get st).slots.get k = some ⟨v, 1, 0, false⟩ ∧ (s.FreeListsLegal → t.FreeListsLegal) ∧
      t.pool = s.pool ++ [⟨⟨x.id, x.nextFresh⟩, ⟨v, 0⟩, c.dieAt k, s.levelFor st c x.cls,
        x.handle + BitVec.ofNat 32 x.nextFresh⟩] ∧
      s.OtherStreams st t ∧
      s.Only [.units, .freeLists, .streams, .contexts, .lines, .pool, .credit, .groups, .dies, .link] t

/-- REPLACE_PAGE (R65): the head page of the list is placed at the position the stream's mode gives and leaves the list; where no position
can take it, the list begins to wait at this tick, or, where an event has called for a list that waits, waits on in its place, called for
no longer (R55). A list that waits uncalled is not served, and one whose last page is placed waits no longer. That a list that waits on keeps
its place is the model's choice (log entry 29). -/
def Obligations.ReplacePagePlacesHead : Prop :=
  ∀ (st : StreamId) (s : State) (ref : PageRef) (x : WriteContext) (c : GroupConfig),
    (s.lines.get st).replace.head? = some ref → s.context ref.ctx = some x → (s.streams.get st).pendingProfile = none →
    s.NoSealDue st → s.streamConfig st = some c →
    (s.mayReplace st = false ↔ ∃ w, s.waiters.find? (fun w => decide (w.stream = st)) = some w ∧ w.examine = false) ∧
    (s.mayReplace st = false → exec (.replacePage st) s = .next s) ∧
    (∀ (k : Position) (o : OpenSlot) (u : UnitRecord), s.findPosition st c .replacement = some k →
      s.mayReplace st = true →
      (s.streams.get st).slots.get k = some o → s.unit? o.unit = some u → u.writePointer + 1 < s.pages →
      ∃ t, exec (.replacePage st) s = .next t ∧
        (t.lines.get st).replace = (s.lines.get st).replace.tail ∧ (t.lines.get st).host = (s.lines.get st).host ∧
        (∀ y, y ≠ st → t.lines.get y = s.lines.get y) ∧
        (t.unit? o.unit).map (·.writePointer) = some (u.writePointer + 1) ∧
        t.pool = s.pool ++ [⟨ref, ⟨o.unit, u.writePointer⟩, c.dieAt k, s.levelFor st c x.cls,
          x.handle + BitVec.ofNat 32 ref.page⟩] ∧
        t.context x.id = some { x with
          pages := x.pages.modify ref.page (fun g => { g with
            outcome := .allocated, address := some ⟨c.dieAt k, s.blockOf o.unit, u.writePointer⟩ }) } ∧
        s.OtherStreams st t ∧ t.credit = s.credit ∧
        t.waiters = (if (s.lines.get st).replace.tail = [] then s.waiters.filter (fun w => decide (w.stream ≠ st)) else s.waiters) ∧
        s.Only [.units, .streams, .contexts, .lines, .pool, .waiters, .dies, .link] t) ∧
    (s.findPosition st c .replacement = none → (∀ w ∈ s.waiters, w.stream ≠ st) → s.NoneSuspended →
      exec (.replacePage st) s = .next { s with waiters := s.waiters ++ [⟨st, s.time.tick, false⟩] }) ∧
    (s.findPosition st c .replacement = none → s.mayReplace st = true → (∃ w ∈ s.waiters, w.stream = st) → s.NoneSuspended →
      exec (.replacePage st) s = .next { s with waiters := s.waiters.map (fun w =>
        if w.stream = st then { w with examine := false } else w) })

/-- WRITE_END (R62, R67): once no page is unplaced or allocated the request's reply is written with its status, page count, failures, skew
and address list, or, for an orphaned request, its reservation is released; its context goes, and its stream counts one request less. When
that leaves a PARKED stream none, its open units are sealed and not pushed onto the young list (R32). -/
def Obligations.WriteEndReplies : Prop :=
  (∀ (p : MasterId) (slot : ReplySlot) (s : State) (x : WriteContext),
    s.context ⟨p, slot⟩ = some x → s.requestEnded x = true →
    let r := s.streams.get x.stream
    r.state = .parked → r.outstanding = 1 →
    ∃ t, exec (.writeEnd p slot) s = .next t ∧
      t.contexts = s.contexts.filter (fun y => decide (y.id ≠ ⟨p, slot⟩)) ∧
      (t.streams.get x.stream).state = .parked ∧ (t.streams.get x.stream).outstanding = 0 ∧
      (∀ k, (t.streams.get x.stream).slots.get k = none) ∧
      (∀ u, u ∈ (t.streams.get x.stream).young → u ∈ r.young) ∧
      (∀ k o y, r.slots.get k = some o → s.unit? o.unit = some y → y.state = .opened → y.valid ≠ 0 →
        t.unit? o.unit = some { y with
          state := .sealed, sealEpoch := some s.time.epoch, short := decide (y.writePointer < s.pages) }) ∧
      (x.orphaned = false → t.masters.get p = { s.masters.get p with
        ring := (s.masters.get p).ring.writeReply slot (replyRecord kindWrite x.tag
          (if 0 < x.failed then .partialWrite else if 0 < x.skew then .countSkew else .ok)
          (leBytes 1 x.pages.length ++ leBytes 1 x.failed ++ leBytes 1 x.skew)) x.addressList }) ∧
      (x.orphaned = true → t.masters.get p = { s.masters.get p with ring := (s.masters.get p).ring.release slot }) ∧
      s.OtherPorts p t ∧
      s.Only [.units, .streams, .contexts, .waiters, .credit, .groups, .dies, .masters] t) ∧
  ∀ (p : MasterId) (slot : ReplySlot) (s : State) (x : WriteContext),
    s.context ⟨p, slot⟩ = some x → s.requestEnded x = true →
    ((s.streams.get x.stream).state ≠ .parked ∨ 1 < (s.streams.get x.stream).outstanding) →
    ∃ t, exec (.writeEnd p slot) s = .next t ∧
      t.contexts = s.contexts.filter (fun y => decide (y.id ≠ ⟨p, slot⟩)) ∧
      t.streams.get x.stream = { s.streams.get x.stream with outstanding := (s.streams.get x.stream).outstanding - 1 } ∧
      s.OtherStreams x.stream t ∧ s.OtherPorts p t ∧
      (x.orphaned = false → t.masters.get p = { s.masters.get p with
        ring := (s.masters.get p).ring.writeReply slot (replyRecord kindWrite x.tag
          (if 0 < x.failed then .partialWrite else if 0 < x.skew then .countSkew else .ok)
          (leBytes 1 x.pages.length ++ leBytes 1 x.failed ++ leBytes 1 x.skew)) x.addressList }) ∧
      (x.orphaned = true → t.masters.get p = { s.masters.get p with ring := (s.masters.get p).ring.release slot }) ∧
      (x.orphaned = true ∨ x.pages.length ≤ x.nextFresh → t.credit = s.credit) ∧
      s.Only [.streams, .contexts, .credit, .masters] t

/-! ## Units -/

/-- INVALIDATE (R99, R100): the valid count falls by a pair's count, stopping at 0, and the reply carries OK with what is
left or COUNT_SKEW with what could not be subtracted; a unit in no counted state is STALE and an absent one BAD_REQUEST. A pair count of 0
or above 6 is BAD_REQUEST. Pairs of several units are each answered so, and the reply's status is that of the first that is not OK. The empty-unit check that an INVALIDATE brings about (R9, R12, R99): a settled SEALED unit with no hold whose
valid count reaches 0 goes to RETIRED if it is retire-pending, and otherwise to ERASING, or to UNKNOWN while PLW_N is asserted (R128). -/
def Obligations.InvalidateLowersValid : Prop :=
  (∀ (p : MasterId) (s : State), s.Ready (.master p) kindInvalidate →
     let q := s.headRequest (.master p)
     let u := q.half 8
     let n := q.half 10
     let body := fun (status : Status) (residual : Nat) => leBytes 1 status.code ++ leBytes 2 residual
     ((q.count = 0 ∨ 6 < q.count) → ∃ t, exec (.invalidate p) s = .next t ∧ s.OnlyAnswered (.master p) .badRequest [] [] t) ∧
     (q.count = 1 →
       (s.unit? u = none → ∃ t, exec (.invalidate p) s = .next t ∧
         s.OnlyAnswered (.master p) .badRequest (body .badRequest 0) [] t) ∧
       ∀ x, s.unit? u = some x →
         ((x.state = .free ∨ x.state = .erasing ∨ x.state = .unknown ∨ x.state = .retired) →
           ∃ t, exec (.invalidate p) s = .next t ∧ s.OnlyAnswered (.master p) .stale (body .stale 0) [] t) ∧
         ((x.state = .opened ∨ x.state = .sealed ∨ x.state = .reclaim) →
           let status : Status := if n ≤ x.valid then .ok else .countSkew
           ∃ t, exec (.invalidate p) s = .next t ∧
             s.Answered (.master p) status (body status (if n ≤ x.valid then x.valid - n else n - x.valid)) [] t ∧
             s.OtherUnits u t ∧
             ((x.state ≠ .sealed ∨ n < x.valid ∨ x.settled = false ∨ x.hold ≠ .noHold) →
               t.unit? u = some { x with valid := x.valid - n }) ∧
             s.Only [.units, .streams, .groups, .dies, .masters] t))) ∧
  (∀ (p : MasterId) (s : State), s.Ready (.master p) kindInvalidate →
     let q := s.headRequest (.master p)
     let pairs := (List.range q.count).map (fun k => (q.half (8 + 4 * k), q.half (10 + 4 * k)))
     let counted := fun x : UnitRecord => x.state = .opened ∨ x.state = .sealed ∨ x.state = .reclaim
     let outcome := fun v : Nat × Nat => match s.unit? v.1 with
       | none => (Status.badRequest, 0)
       | some x =>
         if x.state = UnitState.opened ∨ x.state = UnitState.sealed ∨ x.state = UnitState.reclaim then
           (if v.2 ≤ x.valid then (Status.ok, x.valid - v.2) else (Status.countSkew, v.2 - x.valid))
         else (Status.stale, 0)
     1 ≤ q.count → q.count ≤ 6 → (pairs.map (·.1)).Nodup →
     ∃ t, exec (.invalidate p) s = .next t ∧
       s.Answered (.master p) ((((pairs.map outcome).map (·.1)).find? (fun o => decide (o ≠ .ok))).getD .ok)
         ((pairs.map outcome).flatMap (fun o => leBytes 1 o.1.code ++ leBytes 2 o.2)) [] t ∧
       (∀ v ∈ pairs, ∀ x, s.unit? v.1 = some x → counted x →
         (x.state ≠ .sealed ∨ v.2 < x.valid ∨ x.settled = false ∨ x.hold ≠ .noHold) →
         t.unit? v.1 = some { x with valid := x.valid - v.2 }) ∧
       (∀ u, (∀ v ∈ pairs, v.1 ≠ u) → t.unit? u = s.unit? u) ∧
       s.Only [.units, .streams, .groups, .dies, .masters] t) ∧
  (∀ (p : MasterId) (s : State) (x : UnitRecord), s.Ready (.master p) kindInvalidate →
     let q := s.headRequest (.master p)
     let u := q.half 8
     q.count = 1 → s.unit? u = some x → x.state = .sealed → x.settled = true → x.hold = .noHold → x.valid ≤ q.half 10 →
     ∃ t y, exec (.invalidate p) s = .next t ∧ t.unit? u = some y ∧
       y.state = (if x.retirePending then .retired else if s.plwAsserted then .unknown else .erasing) ∧
       y.tenant = none ∧ y.owner = none ∧ y.sealEpoch = none ∧ y.hold = .noHold ∧ y.valid = 0 ∧
       y.writePointer = x.writePointer ∧ y.programmed = x.programmed ∧ y.eraseCount = x.eraseCount ∧
       y.suspendCount = (if x.retirePending || s.plwAsserted then none else some 0) ∧
       s.OtherUnits u t ∧ s.Only [.units, .streams, .groups, .dies, .masters] t)

/-- UNIT_DRAINED (R11, R101): an ISSUED order of the port with the unit and number ends: its slot is FREE and the unit leaves for RETIRED or
ERASING, or UNKNOWN while PLW_N is asserted (R128), with no valid page and no order slot; the reply is OK, or COUNT_SKEW with the count that
remained. Otherwise TOO_LATE from the expiry memory, or STALE. That the reply names ERASING while PLW_N is asserted is the model's choice
(log entry 16). -/
def Obligations.UnitDrainedEndsOrder : Prop :=
  ∀ (p : MasterId) (s : State), s.Ready (.master p) kindUnitDrained →
    let q := s.headRequest (.master p)
    let refused := fun (status : Status) => ∃ t, exec (.unitDrained p) s = .next t ∧ s.OnlyAnswered (.master p) status [] [] t
    (s.unit? q.unit = none → refused .badRequest) ∧
    ∀ x, s.unit? q.unit = some x →
      (∀ k, s.issuedOrder p q.unit q.orderNumber = some k → ∃ t, exec (.unitDrained p) s = .next t ∧
        s.Answered (.master p) (if x.valid = 0 then .ok else .countSkew)
          (leBytes 2 x.valid ++ leBytes 1 (if x.retirePending then 6 else 4)) [] t ∧
        t.order k = none ∧ (∀ r, r ≠ k → t.order r = s.order r) ∧
        t.unitState q.unit = some (if x.retirePending then .retired else if s.plwAsserted then .unknown else .erasing) ∧
        (∀ y, t.unit? q.unit = some y → y.valid = 0 ∧ y.orderSlot = none ∧ y.eraseCount = x.eraseCount) ∧
        s.OtherUnits q.unit t ∧ s.Only [.units, .streams, .groups, .dies, .masters] t) ∧
      (s.issuedOrder p q.unit q.orderNumber = none →
        ((q.unit, q.orderNumber) ∈ s.reclaim.expiry.get p → refused .tooLate) ∧
        ((q.unit, q.orderNumber) ∉ s.reclaim.expiry.get p → refused .stale))

/-- HOLD and FIX (R2, R18): a SEALED unit's hold is raised, HOLD leaving a FIXED hold as it is, with the reply OK, and the unit is then
refused to an order and stays SEALED when it is empty; a RECLAIM unit is BUSY_RECLAIM, a unit in another state NOT_SEALED, and an absent
one BAD_REQUEST. -/
def Obligations.HoldAndFixProtect : Prop :=
  ∀ (p : MasterId) (s : State) (k : Nat) (c : Instr) (raise : Hold → Hold),
    ((k = kindHold ∧ c = .hold p ∧ raise = fun h => if h = .noHold then .held else h) ∨
      (k = kindFix ∧ c = .fix p ∧ raise = fun _ => .fixed)) →
    s.Ready (.master p) k →
    let u := (s.headRequest (.master p)).unit
    let refused := fun (status : Status) => ∃ t, exec c s = .next t ∧ s.OnlyAnswered (.master p) status [] [] t
    (s.unit? u = none → refused .badRequest) ∧
    ∀ x, s.unit? u = some x →
      (x.state = .sealed → ∃ t, exec c s = .next t ∧ s.Answered (.master p) .ok [] [] t ∧
        t.unit? u = some { x with hold := raise x.hold } ∧ s.OtherUnits u t ∧ s.Only [.units, .masters] t ∧
        t.issuePlan u = none ∧ t.checkEmpty u = t) ∧
      (x.state = .reclaim → refused .busyReclaim) ∧
      (x.state ≠ .sealed → x.state ≠ .reclaim → refused .notSealed)

/-- RELEASE (R9, R19): a HELD unit's hold becomes NONE, and a FIXED one's only while RETAIN_N is deasserted, the reply being RETAINED while it
is asserted; a unit that is then empty and settled leaves SEALED, for RETIRED if it is retire-pending and otherwise for ERASING (R12), or UNKNOWN
while PLW_N is asserted (R128), and one that stays has its group woken (R92). The other states are refused as R19 gives. That the level comes
with the command is the model's choice (log entry 3). -/
def Obligations.ReleaseLiftsHold : Prop :=
  ∀ (p : MasterId) (level : LineLevel) (s : State), s.Ready (.master p) kindRelease →
    let u := (s.headRequest (.master p)).unit
    let answered := fun (status : Status) => ∃ t, exec (.release p level) s = .next t ∧ s.Answered (.master p) status [] [] t ∧
      s.Only [.masters, .inputs] t ∧ t.inputs.plwN = s.inputs.plwN
    (s.unit? u = none → answered .badRequest) ∧
    ∀ x, s.unit? u = some x →
      (x.state = .reclaim → answered .busyReclaim) ∧
      (x.state ≠ .sealed → x.state ≠ .reclaim → answered .notSealed) ∧
      (x.state = .sealed → x.hold = .noHold → answered .ok) ∧
      (x.state = .sealed → x.hold = .fixed → level = .low → answered .retained) ∧
      (x.state = .sealed → (x.hold = .held ∨ (x.hold = .fixed ∧ level = .high)) →
        ∃ t, exec (.release p level) s = .next t ∧ s.Answered (.master p) .ok [] [] t ∧
          ((x.valid ≠ 0 ∨ x.settled = false) → t.unit? u = some { x with hold := .noHold } ∧
            ∀ g, t.config g = s.config g ∧ t.reclaimOf g = if s.groupOfUnit u = some g
              then (s.reclaimOf g).map ReclaimRecord.wake else s.reclaimOf g) ∧
          (x.valid = 0 → x.settled = true → t.unitState u =
            some (if x.retirePending then .retired else if s.plwAsserted then .unknown else .erasing)) ∧
          s.OtherUnits u t ∧ t.inputs.plwN = s.inputs.plwN ∧ s.Only [.units, .streams, .groups, .dies, .masters, .inputs] t)

/-! ## Ports and windows -/

/-- PING on every port, QUERY_UNIT, and the requests of no known kind of a master port and of M (R156, R157, R170): each is answered and
changes nothing else. The packing of the PING body and M's share of 0 are the model's choice (log entry 10), and so is that the reply holdings
a PING reports count the slot reserved for its own reply (log entry 17), and the code with which QUERY-UNIT reports young list membership, 1
for yes and 0 for no (log entry 9). -/
def Obligations.QueriesOnlyAnswer : Prop :=
  (∀ (p : PortId) (s : State), s.Ready p kindPing → ∃ t, exec (.ping p) s = .next t ∧
    s.OnlyAnswered p .ok (packFields false [(4, (s.headRequest p).pingValue), (1, s.mgmt.device.code), (4, s.time.tick.toNat),
      (4, s.time.epoch.toNat), (1, (s.ring p).replyHoldings + 1),
      (1, match p with | .master m => s.credit.shares.get m | .management => 0)]) [] t) ∧
  (∀ (p : MasterId) (s : State), s.Ready (.master p) kindQueryUnit →
    let u := (s.headRequest (.master p)).unit
    (s.unit? u = none → ∃ t, exec (.queryUnit p) s = .next t ∧ s.OnlyAnswered (.master p) .badRequest [] [] t) ∧
    ∀ x, s.unit? u = some x → ∃ t, exec (.queryUnit p) s = .next t ∧
      s.OnlyAnswered (.master p) .ok (leBytes 2 u ++ x.encode ++ leBytes 2 2)
        [valueWord (flagCode (s.youngOwner u).isSome), optionWord ((s.youngOwner u).map (·.val))] t) ∧
  (∀ (p : MasterId) (s : State) (k : Nat), s.Ready (.master p) k → ¬ (1 ≤ k ∧ k ≤ 15) →
    ∃ t, exec (.unknownMasterRequest p) s = .next t ∧ s.OnlyAnswered (.master p) .badRequest [] [] t) ∧
  ∀ (s : State) (k : Nat), s.Ready .management k → ¬ (32 ≤ k ∧ k ≤ 51) → k ≠ 14 →
    ∃ t, exec .unknownMgmtRequest s = .next t ∧ s.OnlyAnswered .management .badRequest [] [] t

/-- READ_WINDOW (R125, R188): a die that runs no erase or check grants the window for T_window ticks at once; another leaves it WAITING with the
request's reply slot; a port with a window there already is BUSY, and an unconfigured die BAD_REQUEST. That these two leave the lapsed flag is
the model's reading (log entry 20). A window that waits on a die in ERASE is a trigger (R121): below the suspend limit, with the erase not
urgent and PLW_N deasserted, the SUSPEND is handed over (R138) or the die waits for a place (R140; log entry 14), and otherwise nothing is sent.
WINDOW_GRANT (R125) grants every WAITING window of a die that runs neither. -/
def Obligations.ReadWindowOpens : Prop :=
  (∀ (p : MasterId) (s : State), s.Ready (.master p) kindReadWindow →
    let q := s.headRequest (.master p)
    (∀ d : DieId, q.byte 6 = d.val → d.val < s.dieCount →
      let r := s.dies.get d
      (∀ u x, r.windows.get p = .closed → r.state = .erase → r.purpose = none → r.current = some (.erase u) → s.unit? u = some x →
        let may := x.suspendCount.getD 0 < s.suspendLimit d ∧ s.urgent d = false ∧ s.plwAsserted = false
        let free := s.link.queue.length < 32 ∧ s.link.tags.length < 32 ∧ s.link.waiting = []
        ∃ t, exec (.readWindow p) s = .next t ∧ s.Pledged (.master p) t ∧
          (may → free → (t.dies.get d).state = .suspending ∧ (t.dies.get d).purpose = some .serve ∧
            t.unit? u = some { x with suspendCount := some (x.suspendCount.getD 0 + 1) } ∧ s.OtherUnits u t ∧
            s.link.HandedOver t.link .suspend d u 0 none 0) ∧
          (may → ¬ free → t.units = s.units ∧ (t.dies.get d).state = .erase ∧ d ∈ t.link.waiting ∧
            t.link = { s.link with waiting := t.link.waiting }) ∧
          (¬ may → t.units = s.units ∧ (t.dies.get d).state = .erase ∧ t.link = s.link)) ∧
      (r.windows.get p = .closed → (r.state = .idle ∨ r.state = .program ∨ r.state = .suspended ∨ r.state = .faulted) →
        ∃ t, exec (.readWindow p) s = .next t ∧ s.Answered (.master p) .granted [] [] t ∧
          t.dies.get d = { r with windows := r.windows.set p (.opened (max 1 s.limits.window)), lapsed := r.lapsed.set p false } ∧
          s.OtherDies d t ∧ s.Only [.dies, .masters] t) ∧
      (r.windows.get p = .closed → (r.state = .erase ∨ r.state = .suspending ∨ r.state = .check) →
        ∃ t, exec (.readWindow p) s = .next t ∧ s.Pledged (.master p) t ∧
          (t.dies.get d).windows = r.windows.set p (.waiting ⟨q.slot, q.tag⟩) ∧
          (t.dies.get d).lapsed = r.lapsed.set p false ∧ s.OtherDies d t ∧ s.Only [.units, .dies, .link, .masters] t) ∧
      (r.windows.get p ≠ .closed → ∃ t, exec (.readWindow p) s = .next t ∧ s.OnlyAnswered (.master p) .busy [] [] t)) ∧
    (s.dieCount ≤ q.byte 6 → ∃ t, exec (.readWindow p) s = .next t ∧ s.OnlyAnswered (.master p) .badRequest [] [] t)) ∧
  ∀ (d : DieId) (s : State),
    let r := s.dies.get d
    (r.state = .idle ∨ r.state = .program ∨ r.state = .suspended ∨ r.state = .faulted) →
    ∃ t, exec (.windowGrant d) s = .next t ∧
      (∀ p, (∀ pl, r.windows.get p = .waiting pl →
          (t.dies.get d).windows.get p = .opened (max 1 s.limits.window) ∧
          t.masters.get p = { s.masters.get p with
            ring := (s.masters.get p).ring.writeReply pl.slot (replyRecord kindReadWindow pl.tag .granted []) [] }) ∧
        ((∀ pl, r.windows.get p ≠ .waiting pl) →
          (t.dies.get d).windows.get p = r.windows.get p ∧ t.masters.get p = s.masters.get p)) ∧
      t.dies.get d = { r with windows := (t.dies.get d).windows } ∧ s.OtherDies d t ∧ s.Only [.dies, .masters] t

/-- WINDOW_EXPIRY (R126): the window whose ticks have run out closes and its lapsed flag is set; every other window is as before.
END_WINDOW (R126, R188): an OPEN window closes with the reply OK; a WAITING one is BUSY; a lapsed one is TOO_LATE once; no window is STALE.
Either way of closing on a SUSPENDED die (R127): while another window is OPEN the erase stays held; when the last closes the die hands a RESUME
over and is in ERASE again where R124 has it resume, or else issues the program that R117 chooses (R123), or it waits for a place (R140; log
entry 14). -/
def Obligations.WindowsClose : Prop :=
  (∀ (d : DieId) (p : MasterId) (s : State), (s.dies.get d).state = .suspended →
     let r := s.dies.get d
     let free := s.link.queue.length < 32 ∧ s.link.tags.length < 32 ∧ s.link.waiting = []
     let after := fun (closed : DieRecord) (t : State) =>
       ((∃ y n, y ≠ p ∧ r.windows.get y = .opened n) → (t.dies.get d).state = .suspended ∧ (t.dies.get d).heldErase = r.heldErase) ∧
       (∀ u, (∀ y n, y ≠ p → r.windows.get y ≠ .opened n) → r.purpose = some .serve → r.current = some (.erase u) →
         r.suspendedProgram = none → (∀ x, x ≠ d → (s.dies.get x).state ≠ .suspended) →
         (s.ResumeDue d → free → s.link.Resumes d closed u t) ∧
         (¬ s.ResumeDue d → ∀ v k, s.grantChoice d = some (v, k) → free → s.ServesProgram s.link d closed v k t) ∧
         (¬ free → t.dies.get d = closed ∧ d ∈ t.link.waiting ∧ t.link = { s.link with waiting := t.link.waiting }))
     (r.windows.get p = .opened 0 → ∃ t, exec (.windowExpiry d p) s = .next t ∧
       after { r with windows := r.windows.set p .closed, lapsed := r.lapsed.set p true } t) ∧
     (∀ n, s.Ready (.master p) kindEndWindow → (s.headRequest (.master p)).byte 6 = d.val → d.val < s.dieCount →
       r.windows.get p = .opened n → ∃ t, exec (.endWindow p) s = .next t ∧
         after { r with windows := r.windows.set p .closed } t)) ∧
  (∀ (d : DieId) (p : MasterId) (s : State), (s.dies.get d).windows.get p = .opened 0 →
     ∃ t, exec (.windowExpiry d p) s = .next t ∧
       (t.dies.get d).windows.get p = .closed ∧ (t.dies.get d).lapsed.get p = true ∧
       (∀ x y, x ≠ d ∨ y ≠ p → (t.dies.get x).windows.get y = (s.dies.get x).windows.get y ∧
         (t.dies.get x).lapsed.get y = (s.dies.get x).lapsed.get y) ∧
       s.Only [.dies, .link] t) ∧
  (∀ (p : MasterId) (s : State), s.Ready (.master p) kindEndWindow →
     let q := s.headRequest (.master p)
     (∀ d : DieId, q.byte 6 = d.val → d.val < s.dieCount →
       let r := s.dies.get d
       (∀ n, r.windows.get p = .opened n → ∃ t, exec (.endWindow p) s = .next t ∧ s.Answered (.master p) .ok [] [] t ∧
         (t.dies.get d).windows = r.windows.set p .closed ∧ (t.dies.get d).lapsed = r.lapsed ∧
         (∀ x, x ≠ d → (t.dies.get x).windows = (s.dies.get x).windows) ∧ s.Only [.dies, .link, .masters] t) ∧
       (∀ pl, r.windows.get p = .waiting pl → ∃ t, exec (.endWindow p) s = .next t ∧
         s.OnlyAnswered (.master p) .busy [] [] t) ∧
       (r.windows.get p = .closed → r.lapsed.get p = true → ∃ t, exec (.endWindow p) s = .next t ∧
         s.Answered (.master p) .tooLate [] [] t ∧ t.dies.get d = { r with lapsed := r.lapsed.set p false } ∧
         s.OtherDies d t ∧ s.Only [.dies, .masters] t) ∧
       (r.windows.get p = .closed → r.lapsed.get p = false → ∃ t, exec (.endWindow p) s = .next t ∧
         s.OnlyAnswered (.master p) .stale [] [] t)) ∧
     (s.dieCount ≤ q.byte 6 → ∃ t, exec (.endWindow p) s = .next t ∧ s.OnlyAnswered (.master p) .badRequest [] [] t))

/-! ## Configuration and restore -/

/-- SET_GEOMETRY (R20, R136, R171): in UNCONFIGURED, or in HALTED with every stream CLOSED and no RECLAIM unit, a geometry in range rebuilds the
unit table with every unit FREE and on its die's free list (R16), clears the groups and leaves the part HALTED; otherwise WRONG_STATE or
BAD_CONFIG. The place and width of the number of units in the reply body are the model's choice (log entry 10). -/
def Obligations.SetGeometryRebuilds : Prop :=
  ∀ s : State, s.Ready .management kindSetGeometry →
    let q := s.headRequest .management
    let dies := q.byte 4
    let bpd := q.half 6
    let pages := q.half 8
    let allowed := s.mgmt.device = .unconfigured ∨ (s.mgmt.device = .halted ∧ (∀ st, (s.streams.get st).state = .closed) ∧
      ∀ x ∈ s.units, x.state ≠ .reclaim)
    let ranges := 1 ≤ dies ∧ dies ≤ 32 ∧ 64 ≤ bpd ∧ bpd ≤ 2048 ∧ 64 ≤ pages ∧ pages ≤ 1024 ∧ pages % 64 = 0 ∧ dies * bpd ≤ 32768
    (allowed → ranges → ∃ t, exec .setGeometry s = .next t ∧
      s.Answered .management .ok (leBytes 2 (dies * bpd)) [] t ∧
      t.units = List.replicate (dies * bpd) UnitRecord.blank ∧
      (∀ d : DieId, ∀ u, u ∈ t.freeLists.get d ↔ d.val < dies ∧ d.val * bpd ≤ u ∧ u < (d.val + 1) * bpd) ∧
      (∀ d, (t.freeLists.get d).Pairwise (· < ·)) ∧ t.FreeListsLegal ∧
      (∀ g, t.groups.get g = none) ∧
      t.mgmt = { s.mgmt with device := .halted, geometry := some ⟨dies, bpd, pages⟩, cursor := 0 } ∧
      (∀ d, (t.dies.get d).queue = [] ∧ (t.dies.get d).waiting = [] ∧ (t.dies.get d).state ≠ .faulted ∧
        (∀ l, (t.dies.get d).passOver.get l = 0) ∧ ∀ p, (t.dies.get d).windows.get p = .closed) ∧
      s.Only [.units, .freeLists, .groups, .reclaim, .dies, .mport, .mgmt] t) ∧
    (allowed → ¬ ranges → ∃ t, exec .setGeometry s = .next t ∧ s.OnlyAnswered .management .badConfig [] [] t) ∧
    (¬ allowed → ∃ t, exec .setGeometry s = .next t ∧ s.OnlyAnswered .management .wrongState [] [] t)

/-- SET_GROUP (R105, R172, R173): in HALTED, values in range over dies of no other group replace the group's
configuration and rebuild its reclaim record, whose activity follows the new watermarks (R84). Its orders end without a notice written
(R105): the units of PENDING and ISSUED ones go back to SEALED, or leave it where they are empty (R9), the ISSUED ones enter their ports'
expiry memories (R97), in ascending slot number by log entry 7, and the waiting notices of PENDING and CLOSING ones are removed; a group with
no order changes nothing else. Values out of range are BAD_CONFIG; a new
range while a stream of the group is not CLOSED, and every state but HALTED, WRONG_STATE. The packing of the reply body is the model's
choice (log entry 10). -/
def Obligations.SetGroupConfigures : Prop :=
  ∀ s : State, s.Ready .management kindSetGroup →
    let q := (s.headRequest .management).groupRequest
    let ranges := q.group ≤ 7 ∧ q.first ≤ q.last ∧ q.last < s.dieCount ∧ q.last + 1 - q.first ≤ 8 ∧ 1 ≤ q.reserve ∧ q.reserve ≤ 64 ∧
      q.reserve < q.low ∧ q.low < q.high ∧ q.high ≤ (q.last + 1 - q.first) * s.bpd ∧ q.low ≤ 16383 ∧ q.high ≤ 16384 ∧
      1 ≤ q.orderSlots ∧ q.orderSlots ≤ 4 ∧ q.suspendLimit ≤ 15 ∧ 1 ≤ q.allowance ∧ q.allowance ≤ 32 ∧ q.relocLevel ≤ 7
    let shared := ∃ (h : GroupId) (c : GroupConfig), h.val ≠ q.group ∧ s.config h = some c ∧ c.first ≤ q.last ∧ q.first ≤ c.last
    let held := ∃ (g : GroupId) (c : GroupConfig) (st : StreamId), g.val = q.group ∧ s.config g = some c ∧
      ¬ (c.first = q.first ∧ c.last = q.last) ∧ (s.streams.get st).group = some g ∧ (s.streams.get st).state ≠ .closed
    (s.mgmt.device ≠ .halted → ∃ t, exec .setGroup s = .next t ∧ s.OnlyAnswered .management .wrongState [] [] t) ∧
    (s.mgmt.device = .halted → (¬ ranges ∨ shared) →
      ∃ t, exec .setGroup s = .next t ∧ s.OnlyAnswered .management .badConfig [] [] t) ∧
    (s.mgmt.device = .halted → ranges → ¬ shared → held →
      ∃ t, exec .setGroup s = .next t ∧ s.OnlyAnswered .management .wrongState [] [] t) ∧
    (∀ g : GroupId, g.val = q.group → s.mgmt.device = .halted → ranges → ¬ shared → ¬ held → (∀ k, s.order ⟨g, k⟩ = none) →
      let c : GroupConfig :=
        ⟨q.first, q.last, q.reserve, q.low, q.high, q.orderSlots, q.suspendLimit, q.allowance, relocLevelOf q.relocLevel⟩
      ∃ t, exec .setGroup s = .next t ∧ s.Answered .management .ok q.body [] t ∧
        t.groups.get g = some ⟨c, { ReclaimRecord.fresh q.orderSlots with
          active := decide (s.freeCount c ≤ c.low ∧
            s.freeCount c + s.countUnits c .erasing + s.countUnits c .reclaim < c.high) }⟩ ∧
        (∀ h, h ≠ g → t.groups.get h = s.groups.get h) ∧ s.Only [.groups, .mport] t) ∧
    ∀ g : GroupId, g.val = q.group → s.mgmt.device = .halted → ranges → ¬ shared → ¬ held →
      let c : GroupConfig :=
        ⟨q.first, q.last, q.reserve, q.low, q.high, q.orderSlots, q.suspendLimit, q.allowance, relocLevelOf q.relocLevel⟩
      let entered := fun p : MasterId => (List.finRange 4).reverse.filterMap (fun k => (s.order ⟨g, k⟩).bind (fun o =>
        if o.port = p ∧ orderSlotCode (some o) = 2 then some (o.unit, o.number) else none))
      ∃ t, exec .setGroup s = .next t ∧ s.Answered .management .ok q.body [] t ∧
        t.groups.get g = some ⟨c, { ReclaimRecord.fresh q.orderSlots with
          active := decide (t.freeCount c ≤ c.low ∧
            t.freeCount c + t.countUnits c .erasing + t.countUnits c .reclaim < c.high) }⟩ ∧
        (∀ k o x, s.order ⟨g, k⟩ = some o → (∀ cause, o.phase ≠ .closing cause) → s.unit? o.unit = some x →
          (∀ j y, s.order ⟨g, j⟩ = some y → y.unit = o.unit → j = k) →
          ((x.valid ≠ 0 ∨ x.settled = false ∨ x.hold ≠ .noHold) →
            t.unit? o.unit = some { x with state := .sealed, orderSlot := none }) ∧
          (x.valid = 0 → x.settled = true → x.hold = .noHold → t.unitState o.unit =
            some (if x.retirePending then .retired else if s.plwAsserted then .unknown else .erasing))) ∧
        (∀ v, (∀ k o, s.order ⟨g, k⟩ = some o → (∀ cause, o.phase ≠ .closing cause) → o.unit ≠ v) → t.unit? v = s.unit? v) ∧
        (∀ p, (entered p = [] → t.reclaim.expiry.get p = s.reclaim.expiry.get p) ∧
          (entered p ≠ [] → t.reclaim.expiry.get p = (entered p ++ s.reclaim.expiry.get p).take 8) ∧
          ∀ r, r ∈ t.reclaim.notices.get p ↔ r ∈ s.reclaim.notices.get p ∧
            ¬ (r.group = g ∧ ∃ o, s.order r = some o ∧ o.port = p ∧ orderSlotCode (some o) ≠ 2)) ∧
        t.reclaim = { s.reclaim with notices := t.reclaim.notices, expiry := t.reclaim.expiry } ∧
        (∀ h k, h ≠ g → t.config h = s.config h ∧ t.order ⟨h, k⟩ = s.order ⟨h, k⟩) ∧
        s.Only [.units, .streams, .groups, .reclaim, .dies, .mport] t

/-- SET_TIMEBASE (R175) and SET_TIMERS (R176): the values present replace those in force, a tick length restarting the divider count and a 0
for T_order, T_window or T_op stored as 1, and the reply carries all values in force; a tick length outside 10 to 10,000 or an epoch length
of 0 is BAD_CONFIG. The packing of the bodies is the model's choice (log entry 10). -/
def Obligations.TimeSettingsStored : Prop :=
  (∀ s : State, s.Ready .management kindSetTimebase →
    let q := s.headRequest .management
    let bad := (∃ n, q.tickLength = some n ∧ ¬ (10 ≤ n ∧ n ≤ 10000)) ∨ q.epochLength = some 0
    (bad → ∃ t, exec .setTimebase s = .next t ∧ s.OnlyAnswered .management .badConfig [] [] t) ∧
    (¬ bad → ∃ t, exec .setTimebase s = .next t ∧
      s.Answered .management .ok (packFields false [(2, t.time.divider / 100), (2, t.time.epochLength)]) [] t ∧
      (∀ n, q.tickLength = some n → t.time.divider = n * 100 ∧ t.time.dividerCount = 0) ∧
      (q.tickLength = none → t.time.divider = s.time.divider ∧ t.time.dividerCount = s.time.dividerCount) ∧
      (∀ n, q.epochLength = some n → t.time.epochLength = n) ∧ (q.epochLength = none → t.time.epochLength = s.time.epochLength) ∧
      t.time.tick = s.time.tick ∧ t.time.epochTicks = s.time.epochTicks ∧ t.time.epoch = s.time.epoch ∧
      s.Only [.mport, .time] t)) ∧
  ∀ s : State, s.Ready .management kindSetTimers →
    let q := s.headRequest .management
    ∃ t, exec .setTimers s = .next t ∧
      s.Answered .management .ok (packFields false [(2, t.limits.port), (2, t.limits.idle), (2, t.limits.order),
        (2, t.limits.window), (2, t.limits.op)]) [] t ∧
      t.limits.port = (q.limit 0).getD s.limits.port ∧ t.limits.idle = (q.limit 1).getD s.limits.idle ∧
      (∀ n, q.limit 2 = some n → t.limits.order = if n = 0 then 1 else n) ∧ (q.limit 2 = none → t.limits.order = s.limits.order) ∧
      (∀ n, q.limit 3 = some n → t.limits.window = if n = 0 then 1 else n) ∧ (q.limit 3 = none → t.limits.window = s.limits.window) ∧
      (∀ n, q.limit 4 = some n → t.limits.op = if n = 0 then 1 else n) ∧ (q.limit 4 = none → t.limits.op = s.limits.op) ∧
      s.Only [.mport, .limits] t

/-- SET_TENANT (R75, R177): metering, rate and ceiling are written together, the balance is clamped to the ceiling, and metering turned off
admits every CREDIT entry of the tenant uncharged: each leaves the list, is counted in the page count of its class and joins its stream's line
in arrival order, while the SPACE entries and the entries of other tenants stay in theirs (a request has one entry on the list, R76), all once the examination of the tenant that a refill has made due is done (R73; log
entry 43); the reply
carries the balance. A tenant above 63 is BAD_REQUEST, a ceiling above
16,777,215 or another metering value BAD_CONFIG. The code of the metering values is DEDUCED (log entry 9), and the place of the balance in the reply body the model's
choice (log entry 10). -/
def Obligations.SetTenantClamps : Prop :=
  ∀ s : State, s.Ready .management kindSetTenant →
    let q := s.headRequest .management
    (63 < q.byte 4 → ∃ t, exec .setTenant s = .next t ∧ s.OnlyAnswered .management .badRequest [] [] t) ∧
    ∀ n : Tenant, q.byte 4 = n.val →
      ((1 < q.byte 5 ∨ 16777215 < q.word 8) →
        ∃ t, exec .setTenant s = .next t ∧ s.OnlyAnswered .management .badConfig [] [] t) ∧
      (q.byte 5 ≤ 1 → q.word 8 ≤ 16777215 → ∃ m t, exec (.creditAdmission n) s = .next m ∧ s.Only [.tenants, .lines, .credit] m ∧
        (s.NoCreditDue n → m = s) ∧ exec .setTenant s = .next t ∧
        s.Answered .management .ok (leBytes 4 (BitVec.ofInt 32 (min (m.credit.balances.get n) (q.word 8))).toNat) [] t ∧
        (t.tenants.get n).metered = decide (q.byte 5 = 0) ∧ (t.tenants.get n).rate = q.half 6 ∧
        (t.tenants.get n).ceiling = q.word 8 ∧
        t.credit.balances = m.credit.balances.set n (min (m.credit.balances.get n) (q.word 8)) ∧
        t.credit.shares = s.credit.shares ∧ (∀ x, x ≠ n → t.tenants.get x = s.tenants.get x) ∧
        (q.byte 5 = 0 → t.credit.waitList = m.credit.waitList ∧ t.lines = m.lines ∧
          (t.tenants.get n).hostPages = (m.tenants.get n).hostPages ∧
          (t.tenants.get n).relocPages = (m.tenants.get n).relocPages) ∧
        (q.byte 5 = 1 → (∀ e ∈ t.credit.waitList, e.reason = .credit → e.tenant ≠ n) ∧
          let admitted := fun cls : WriteClass => m.credit.waitList.filter (fun e =>
            decide (e.reason = .credit ∧ e.tenant = n ∧ e.cls = cls))
          let joining := fun (st : StreamId) (cls : WriteClass) =>
            ((admitted cls).filter (fun e => decide (e.stream = st))).map (·.ctx)
          ((s.credit.waitList.map (·.ctx)).Nodup →
            t.credit.waitList = m.credit.waitList.filter (fun e => decide (¬ (e.reason = .credit ∧ e.tenant = n)))) ∧
          (∀ st, t.lines.get st = { m.lines.get st with
            host := (m.lines.get st).host ++ joining st .host
            reloc := (m.lines.get st).reloc ++ joining st .reloc }) ∧
          (t.tenants.get n).hostPages =
            (m.tenants.get n).hostPages + BitVec.ofNat 32 ((admitted .host).map (·.remaining)).sum ∧
          (t.tenants.get n).relocPages =
            (m.tenants.get n).relocPages + BitVec.ofNat 32 ((admitted .reloc).map (·.remaining)).sum) ∧
        s.Only [.tenants, .lines, .credit, .mport] t)

/-- SET_STREAM (R33, R37, R178): a CLOSED stream takes the tenant, group, relocation target and profile of a request that passes the checks,
and a change of target wakes every group; the checks refuse in their order. -/
def Obligations.SetStreamConfigures : Prop :=
  ∀ s : State, s.Ready .management kindSetStream →
    let q := s.headRequest .management
    let refused := fun (status : Status) => ∃ t, exec .setStream s = .next t ∧ s.OnlyAnswered .management status [] [] t
    ∀ st : StreamId, q.byte 4 = st.val →
      let r := s.streams.get st
      (r.state ≠ .closed → refused .wrongState) ∧
      (r.state = .closed → (63 < q.byte 5 ∨ (7 < q.byte 6 ∧ q.byte 6 ≠ 255) ∨ q.streamProfile = none) → refused .badConfig) ∧
      ∀ (n : Tenant) (x : StreamId) (pr : Profile), r.state = .closed → q.byte 5 = n.val → (q.byte 6 ≤ 7 ∨ q.byte 6 = 255) →
        q.byte 7 = x.val → q.streamProfile = some pr →
        let mismatch := (x ≠ st ∧ (s.streams.get x).tenant ≠ n) ∨ (n ≠ r.tenant ∧ ∃ y, y ≠ st ∧ (s.streams.get y).target = st)
        (mismatch → refused .tenantMismatch) ∧
        (¬ mismatch → ∃ t, exec .setStream s = .next t ∧ s.Answered .management .ok [] [] t ∧
          t.streams.get st = { r with
            tenant := n
            group := asFin 8 (q.byte 6)
            target := x
            profile := pr
            pendingProfile := none
            packCursor := lowestPosition pr.mask
            spreadCursor := lowestPosition pr.mask } ∧
          s.OtherStreams st t ∧
          (∀ g, t.config g = s.config g ∧ t.reclaimOf g =
            if x = r.target then s.reclaimOf g else (s.reclaimOf g).map ReclaimRecord.wake) ∧
          t.credit.balances = s.credit.balances ∧ s.Only [.streams, .waiters, .credit, .groups, .mport] t)

/-- SET_FILTER and the tenant filter (R87): a tenant passes when it agrees with the compare value in every bit of the care mask, so every
tenant with a mask of 0 and exactly the compare value with a mask of 0x3F; device reset sets both to 0; SET-FILTER writes both in any
device state, ignoring the upper bits, answers OK and wakes every group, and no unit or order changes. -/
def Obligations.SetFilterSelectsTenants : Prop :=
  (∀ (s : State) (n : Tenant), s.passesFilter n = true ↔
    ∀ b, b < 6 → s.reclaim.care.getLsbD b = true → (BitVec.ofNat 6 n.val).getLsbD b = s.reclaim.compare.getLsbD b) ∧
  (∀ (s : State) (n : Tenant), s.reclaim.care = 0 → s.passesFilter n = true) ∧
  (∀ (s : State) (n : Tenant), s.reclaim.care = 0x3F → (s.passesFilter n = true ↔ n.val = s.reclaim.compare.toNat)) ∧
  State.reset.reclaim.compare = 0 ∧ State.reset.reclaim.care = 0 ∧
  ∀ s : State, s.Ready .management kindSetFilter →
    let q := s.headRequest .management
    ∃ t, exec .setFilter s = .next t ∧ s.Answered .management .ok [] [] t ∧
      t.reclaim = { s.reclaim with compare := BitVec.ofNat 6 (q.byte 4 % 64), care := BitVec.ofNat 6 (q.byte 5 % 64) } ∧
      (∀ g, t.reclaimOf g = (s.reclaimOf g).map ReclaimRecord.wake ∧ t.config g = s.config g) ∧
      (∀ r, t.order r = s.order r) ∧ s.Only [.groups, .reclaim, .mport] t

/-- SEEK_UNITS (R179): in HALTED the restore cursor goes to a unit that exists; another number is BAD_REQUEST, another state WRONG_STATE.
LOAD_UNITS (R180) outside HALTED is WRONG_STATE, and with a count of records other than 1 or 2 BAD_REQUEST. With one record, in HALTED (R21): the record is applied to the unit at the cursor, unless it names no state or tenant or
the unit may not be rewritten, and the cursor advances either way. A FREE record gives a FREE unit on its free list, an OPEN, SEALED or
RECLAIM one a SEALED and HELD unit, an ERASING or UNKNOWN one an UNKNOWN unit, a RETIRED one a RETIRED unit; and the free lists stay exact
and in wear order (R16). A record that returns the unit's hold to NONE wakes the unit's group (R17, R92), whose activity is evaluated after
every record (R84); that a record applied as SEALED wakes none is the model's reading (log entry 35). Of two records the second is applied to the next unit in the same way. The packing of the reply body is the model's
choice (log entry 10). -/
def Obligations.RestoreLoadsUnits : Prop :=
  (∀ s : State, s.Ready .management kindSeekUnits →
     let u := (s.headRequest .management).half 4
     (s.mgmt.device ≠ .halted → ∃ t, exec .seekUnits s = .next t ∧ s.OnlyAnswered .management .wrongState [] [] t) ∧
     (s.mgmt.device = .halted → s.units.length ≤ u →
       ∃ t, exec .seekUnits s = .next t ∧ s.OnlyAnswered .management .badRequest [] [] t) ∧
     (s.mgmt.device = .halted → u < s.units.length → ∃ t, exec .seekUnits s = .next t ∧
       s.Answered .management .ok [] [] t ∧ t.mgmt = { s.mgmt with cursor := u } ∧ s.Only [.mport, .mgmt] t)) ∧
  (∀ s : State, s.Ready .management kindLoadUnits →
     let n := (s.headRequest .management).count
     (s.mgmt.device ≠ .halted → ∃ t, exec .loadUnits s = .next t ∧ s.OnlyAnswered .management .wrongState [] [] t) ∧
     (s.mgmt.device = .halted → (n = 0 ∨ 2 < n) →
       ∃ t, exec .loadUnits s = .next t ∧ s.OnlyAnswered .management .badRequest [] [] t)) ∧
  (∀ (s : State) (x y : UnitRecord), s.Ready .management kindLoadUnits → s.mgmt.device = .halted →
     let q := s.headRequest .management
     let after := fun n : Nat => if n + 1 < s.units.length then n + 1 else 0
     let u := s.mgmt.cursor
     let v := after u
     q.count = 2 → s.unit? u = some x → s.unit? v = some y → u ≠ v →
     let given := fun code : Nat => if code = 0 then 0 else if code ≤ 3 then 2 else if code ≤ 5 then 5 else 6
     let outcome := fun (l : LoadedRecord) (old : UnitRecord) =>
       if l.stateCode = 7 ∨ ((l.stateCode = 1 ∨ l.stateCode = 2 ∨ l.stateCode = 3) ∧ 63 < l.tenant) then (Status.badConfig, 0)
       else if old.state = .opened ∨ old.state = .reclaim ∨ (old.state = .sealed ∧ old.settled = false) then (Status.wrongState, 0)
       else (Status.ok, given l.stateCode)
     let a := outcome (loadedRecord ((q.bytes.drop 4).take 14)) x
     let b := outcome (loadedRecord ((q.bytes.drop 18).take 14)) y
     ∃ t, exec .loadUnits s = .next t ∧ t.mgmt = { s.mgmt with cursor := after v } ∧
       s.Answered .management (if a.1 = .ok then b.1 else a.1)
         (packFields false [(2, u), (1, a.1.code), (1, a.2), (2, v), (1, b.1.code), (1, b.2), (2, after v)]) [] t ∧
       (if a.1 = .ok then (t.unitState u).map UnitState.code = some a.2 else t.unit? u = some x) ∧
       (if b.1 = .ok then (t.unitState v).map UnitState.code = some b.2 else t.unit? v = some y) ∧
       (∀ w, w ≠ u → w ≠ v → t.unit? w = s.unit? w) ∧
       s.Only [.units, .freeLists, .streams, .groups, .dies, .mport, .mgmt] t) ∧
  (∀ (s : State) (x : UnitRecord), s.Ready .management kindLoadUnits → s.mgmt.device = .halted →
     let q := s.headRequest .management
     let l := loadedRecord ((q.bytes.drop 4).take 14)
     let u := s.mgmt.cursor
     let next := if u + 1 < s.units.length then u + 1 else 0
     let body := fun (status : Status) (state : Nat) =>
       packFields false [(2, u), (1, status.code), (1, state), (2, next)]
     q.count = 1 → s.unit? u = some x →
     let bad := l.stateCode = 7 ∨ ((l.stateCode = 1 ∨ l.stateCode = 2 ∨ l.stateCode = 3) ∧ 63 < l.tenant)
     let locked := x.state = .opened ∨ x.state = .reclaim ∨ (x.state = .sealed ∧ x.settled = false)
     ∃ t, exec .loadUnits s = .next t ∧ t.mgmt = { s.mgmt with cursor := next } ∧
       (bad → s.Answered .management .badConfig (body .badConfig 0) [] t ∧ s.Only [.mport, .mgmt] t) ∧
       (¬ bad → locked → s.Answered .management .wrongState (body .wrongState 0) [] t ∧ s.Only [.mport, .mgmt] t) ∧
       (¬ bad → ¬ locked → (s.FreeListsLegal → t.FreeListsLegal) ∧ s.OtherUnits u t ∧ s.Only [.units, .freeLists, .streams, .groups, .dies, .mport, .mgmt] t ∧
         (∀ (g : GroupId) (c : GroupConfig) (k : ReclaimRecord), s.groups.get g = some ⟨c, k⟩ →
           let w := if x.hold ≠ .noHold ∧ (l.stateCode = 0 ∨ 4 ≤ l.stateCode) then k.wake else k
           let sum := t.freeCount c + t.countUnits c .erasing + t.countUnits c .reclaim
           t.groups.get g = some ⟨c,
             if s.groupOfUnit u ≠ some g then k
             else if (k.active = true ∨ t.freeCount c ≤ c.low) ∧ sum < c.high then { w with active := true }
             else w.deactivate⟩) ∧
         (∀ (st : UnitState), unitStateOf l.stateCode = some st →
           (st = .free → s.Answered .management .ok (body .ok 0) [] t ∧
             t.unit? u = some { UnitRecord.blank with eraseCount := l.eraseCount } ∧ u ∈ t.freeLists.get (s.dieOf u)) ∧
           (st = .opened ∨ st = .sealed ∨ st = .reclaim → s.Answered .management .ok (body .ok 2) [] t ∧
             t.unit? u = some
               { state := .sealed
                 tenant := some (Fin.ofNat 64 l.tenant)
                 owner := some (Fin.ofNat 256 l.owner)
                 writePointer := min l.programmed (min l.writePointer s.pages)
                 programmed := min l.programmed (min l.writePointer s.pages)
                 valid := min l.valid (min l.programmed (min l.writePointer s.pages))
                 eraseCount := l.eraseCount
                 sealEpoch := some (if st = .opened ∨ s.time.epoch.toNat < l.sealEpoch.toNat then s.time.epoch else l.sealEpoch)
                 hold := .held
                 short := decide (min l.programmed (min l.writePointer s.pages) < s.pages)
                 retirePending := l.retirePending
                 orderSlot := none
                 suspendCount := none }) ∧
           (st = .erasing ∨ st = .unknown → s.Answered .management .ok (body .ok 5) [] t ∧ t.unitState u = some .unknown) ∧
           (st = .retired → s.Answered .management .ok (body .ok 6) [] t ∧ t.unitState u = some .retired))))

/-! ## Reading back and steering -/

/-- READ_UNIT, READ_STREAM, READ_TENANT, GET_STATUS and CLEAR_STATUS (R181, R182, R184): each is answered with the values as they stand, and
changes nothing else but that CLEAR-STATUS clears every item of the sticky status; a section above 3 or an index out of its section's range is
BAD_REQUEST. READ-TENANT's words and those of GET-STATUS's PORT section (R164) are spelled out, and every such reply fits in the 64 words of its
slot (R189). The model's choices in it: the level of RETAIN_N comes with the command (log entry 3); codes (entry 9); layouts the manual leaves
open (entries 10, 25, 26, 27, 33, 34 and 37); slots that hold nothing (entry 40); the request's own reservation is counted (entry 17); and which of several entries of a stream
READ-STREAM names (entry 30). -/
def Obligations.ReadbackOnlyReads : Prop :=
  (∀ s : State, s.LinkLegal → s.DiesLegal → s.YoungLegal → s.link.waiting.Nodup →
    (∀ st, (s.streamWords st).length ≤ 64) ∧ (∀ n, (s.tenantWords n).length ≤ 64) ∧ s.deviceWords.length ≤ 64 ∧
    (∀ g, (∀ r, s.reclaimOf g = some r → r.slots.length ≤ 4) → (s.groupWords g).length ≤ 64) ∧
    (∀ d, (s.dieWords d).length ≤ 64) ∧ ∀ p, (s.portWords p).length ≤ 64) ∧
  (∀ (s : State) (n : Tenant), s.tenantWords n =
    [valueWord (if (s.tenants.get n).metered then 0 else 1), valueWord (s.tenants.get n).rate, valueWord (s.tenants.get n).ceiling,
     (s.tenants.get n).hostPages, (s.tenants.get n).relocPages, BitVec.ofInt 32 (s.credit.balances.get n),
     valueWord (s.credit.waitList.filter (fun e => decide (e.tenant = n ∧ e.reason = .credit))).length]) ∧
  (∀ (s : State) (p : MasterId),
    let m := s.masters.get p
    s.portWords p =
      [valueWord (if m.state = .active then 0 else 1),
       valueWord (match m.cause with | .noFence => 0 | .inactivity => 1 | .management => 2),
       valueWord m.ring.requestTail.toNat, valueWord m.ring.requestHead.toNat, valueWord m.ring.replyTail.toNat,
       valueWord m.ring.replyHead.toNat] ++
      bitmapWords 2 (fun n => m.ring.reservations.any (fun i => decide (i.val = n))) ++
      [valueWord m.ring.replyHoldings, valueWord m.ring.noticeHoldings, valueWord m.inactivity, valueWord m.ring.refusals,
       valueWord (if m.state = .active ∧ m.ring.replyTail ≠ m.ring.replyHead then 1 else 0)] ++
      bitmapWords 8 (fun n => decide (∃ st : StreamId, st.val = n ∧ (s.streams.get st).port = some p)) ++
      [valueWord (s.reclaim.notices.get p).length, valueWord (s.credit.shares.get p),
       valueWord (s.credit.waitList.filter (fun e => decide (e.ctx.port = p))).length] ++
      packedWords (m.ring.classes.items.map (fun c => if c = .reply then 0 else 1))) ∧
  (∀ (s : State) (level : LineLevel), s.Ready .management kindGetStatus →
    let sec := (s.headRequest .management).byte 4
    let idx := (s.headRequest .management).byte 5
    (3 < sec ∨ (sec = 1 ∧ 7 < idx) ∨ (sec = 2 ∧ 31 < idx) ∨ (sec = 3 ∧ 3 < idx)) →
    ∃ t, exec (.getStatus level) s = .next t ∧ s.Answered .management .badRequest [] [] t ∧
      t.inputs = { s.inputs with retainN := level } ∧ s.Only [.mport, .inputs] t) ∧
  (∀ s : State, s.Ready .management kindReadUnit →
    let u := (s.headRequest .management).half 4
    (s.mgmt.device = .unconfigured → ∃ t, exec .readUnit s = .next t ∧ s.OnlyAnswered .management .wrongState [] [] t) ∧
    (s.mgmt.device ≠ .unconfigured → s.unit? u = none →
      ∃ t, exec .readUnit s = .next t ∧ s.OnlyAnswered .management .badRequest [] [] t) ∧
    (s.mgmt.device ≠ .unconfigured → ∀ x, s.unit? u = some x → ∃ t, exec .readUnit s = .next t ∧
      s.OnlyAnswered .management .ok (leBytes 2 u ++ x.encode ++ leBytes 2 3)
        [valueWord (flagCode (s.youngOwner u).isSome), optionWord ((s.youngOwner u).map (·.val)), optionWord (s.unitPlace u)] t)) ∧
  (∀ (s : State) (st : StreamId), s.Ready .management kindReadStream → (s.headRequest .management).byte 4 = st.val →
    ∃ t, exec .readStream s = .next t ∧
      s.OnlyAnswered .management .ok (countBody (s.streamWords st)) (s.streamWords st) t) ∧
  (∀ s : State, s.Ready .management kindReadTenant →
    (∀ n : Tenant, (s.headRequest .management).byte 4 = n.val → ∃ t, exec .readTenant s = .next t ∧
      s.OnlyAnswered .management .ok (countBody (s.tenantWords n)) (s.tenantWords n) t) ∧
    (63 < (s.headRequest .management).byte 4 →
      ∃ t, exec .readTenant s = .next t ∧ s.OnlyAnswered .management .badRequest [] [] t)) ∧
  (∀ (s : State) (level : LineLevel) (words : List Word), s.Ready .management kindGetStatus →
    let u := { s.taken .management with inputs := { s.inputs with retainN := level } }
    let sec := (s.headRequest .management).byte 4
    let idx := (s.headRequest .management).byte 5
    ((sec = 0 ∧ words = u.deviceWords) ∨ (∃ g : GroupId, sec = 1 ∧ idx = g.val ∧ words = u.groupWords g) ∨
      (∃ d : DieId, sec = 2 ∧ idx = d.val ∧ words = u.dieWords d) ∨
      (∃ p : MasterId, sec = 3 ∧ idx = p.val ∧ words = u.portWords p)) →
    ∃ t, exec (.getStatus level) s = .next t ∧ s.Answered .management .ok (countBody words) words t ∧
      t.inputs = { s.inputs with retainN := level } ∧ s.Only [.mport, .inputs] t) ∧
  ∀ s : State, s.Ready .management kindClearStatus → ∃ t, exec .clearStatus s = .next t ∧
    s.Answered .management .ok (countBody s.mgmt.sticky.words) s.mgmt.sticky.words t ∧
    t.mgmt = { s.mgmt with sticky := Sticky.reset } ∧ s.Only [.mport, .mgmt] t

/-- RUN (R55, R85, R113, R167): in HALTED, with every configured die in a group, the part is RUNNING, the queues of dies that are not FAULTED
are filled unless PLW_N is asserted, and no group stays WAITING; then the waiting re-placement lists of every group are served, in the order in
which they began to wait, and after them the SPACE entries in arrival order, as `State.Examined` says; where no page waits for a place nothing
is served. Otherwise WRONG_STATE or BAD_CONFIG. -/
def Obligations.RunStartsPart : Prop :=
  ∀ s : State, s.Ready .management kindRun →
    let covered := (∃ g, (s.groups.get g).isSome = true) ∧ ∀ d, d < s.dieCount → (s.groupOfDie d).isSome = true
    (s.mgmt.device ≠ .halted → ∃ t, exec .run s = .next t ∧ s.OnlyAnswered .management .wrongState [] [] t) ∧
    (s.mgmt.device = .halted → ¬ covered → ∃ t, exec .run s = .next t ∧ s.OnlyAnswered .management .badConfig [] [] t) ∧
    (s.mgmt.device = .halted → covered → ∃ m n t, exec .run s = .next t ∧ s.Answered .management .ok [] [] t ∧
      m.mgmt = { s.mgmt with device := .running } ∧ t.mgmt = m.mgmt ∧
      (s.plwAsserted = false → (∀ d, (s.dies.get d).state ≠ .faulted →
          (m.dies.get d).waiting = [] ∨ 4 ≤ (m.dies.get d).queue.length) ∧
        ∀ g r, m.reclaimOf g = some r → r.search ≠ .waiting) ∧
      s.Only [.groups, .dies, .mport, .mgmt] m ∧ m.Examined (fun _ => true) n ∧ n.serveSuspended.Only [.mport] t) ∧
    (s.mgmt.device = .halted → covered → s.NoWork → ∃ t, exec .run s = .next t ∧ s.Answered .management .ok [] [] t ∧
      t.mgmt = { s.mgmt with device := .running } ∧
      (s.plwAsserted = false → (∀ d, (s.dies.get d).state ≠ .faulted →
          (t.dies.get d).waiting = [] ∨ 4 ≤ (t.dies.get d).queue.length) ∧
        ∀ g r, t.reclaimOf g = some r → r.search ≠ .waiting) ∧
      s.Only [.groups, .dies, .link, .mport, .mgmt, .waiters, .credit] t)

/-- HALT (R168): in RUNNING, with every configured die at rest, the part is HALTED and the reply OK carries the tick counter; with a die not at
rest it is HALTING and the request keeps its reply slot; either way the result of every search in progress is to be discarded, and the
groups are otherwise as they were (R85); in HALTING it is BUSY and elsewhere WRONG_STATE. HALT_COMPLETE writes the kept
reply once every configured die is at rest. The place of the tick counter in the body is the model's choice (log entry 10), and
that the reply of a halt that ends at once carries it too is the model's reading (log entry 39). -/
def Obligations.HaltWaitsForRest : Prop :=
  (∀ s : State, s.Ready .management kindHalt →
    let q := s.headRequest .management
    let rest := ∀ d : DieId, d.val < s.dieCount → (s.dies.get d).state = .idle ∨ (s.dies.get d).state = .faulted
    let stopped := fun t : State => ∀ g, t.config g = s.config g ∧ t.reclaimOf g = (s.reclaimOf g).map (fun k =>
      if k.search = .searching then { k with discard := true } else k)
    (s.mgmt.device = .running → rest → ∃ t, exec .halt s = .next t ∧ stopped t ∧
      s.Answered .management .ok (leBytes 4 s.time.tick.toNat) [] t ∧
      t.mgmt = { s.mgmt with device := .halted, haltReply := none } ∧ s.Only [.groups, .mport, .mgmt] t) ∧
    (s.mgmt.device = .running → ¬ rest → ∃ t, exec .halt s = .next t ∧ stopped t ∧ s.Pledged .management t ∧
      t.mgmt = { s.mgmt with device := .halting, haltReply := some ⟨q.slot, q.tag⟩ } ∧ s.Only [.groups, .dies, .link, .mport, .mgmt] t) ∧
    (s.mgmt.device = .halting → ∃ t, exec .halt s = .next t ∧ s.OnlyAnswered .management .busy [] [] t) ∧
    (s.mgmt.device ≠ .running → s.mgmt.device ≠ .halting →
      ∃ t, exec .halt s = .next t ∧ s.OnlyAnswered .management .wrongState [] [] t)) ∧
  ∀ (s : State) (pl : Pledge), s.mgmt.device = .halting → s.mgmt.haltReply = some pl →
    (∀ d : DieId, d.val < s.dieCount → (s.dies.get d).state = .idle ∨ (s.dies.get d).state = .faulted) →
    ∃ t, exec .haltComplete s = .next t ∧
      t.mport = s.mport.writeReply pl.slot (replyRecord kindHalt pl.tag .ok (leBytes 4 s.time.tick.toNat)) [] ∧
      t.mgmt = { s.mgmt with device := .halted, haltReply := none } ∧ s.Only [.mport, .mgmt] t

/-- REVIVE_PORT (R163): a FENCED port is ACTIVE again with its four index words 0, no notice held, its reply holdings the reservations that
remain and its inactivity count 0, its cause and refusals kept; an ACTIVE one is WRONG_STATE, and a port outside P0 to P3 BAD_REQUEST. A port
whose fence a tick has made due is fenced with cause INACTIVITY first (R159, R160), and so is revived: the model's choice (log entry 41). -/
def Obligations.RevivePortEmptiesRings : Prop :=
  ∀ s : State, s.Ready .management kindRevivePort →
    let q := s.headRequest .management
    (4 ≤ q.byte 4 → ∃ t, exec .revivePort s = .next t ∧ s.OnlyAnswered .management .badRequest [] [] t) ∧
    ∀ p : MasterId, q.byte 4 = p.val →
      let m := s.masters.get p
      (m.state = .active → m.fenceDue = false →
        ∃ t, exec .revivePort s = .next t ∧ s.OnlyAnswered .management .wrongState [] [] t) ∧
      (m.state = .active → m.fenceDue = true → ∃ u t, exec (.inactivityFence p) s = .next u ∧ s.Fenced p .inactivity u ∧
        exec .revivePort s = .next t ∧
        t.mport = (s.mport.take.offered (noticeRecord kindPortFenced
          (portFencedBody p .inactivity (s.boundStreams p).length (s.liveContexts p).length))).writeReply s.mport.freeSlot
          (replyRecord kindRevivePort q.tag .ok []) [] ∧
        let n := t.masters.get p
        n.state = .active ∧ n.cause = .inactivity ∧ n.inactivity = 0 ∧ n.fenceDue = false ∧ n.ring.requestTail = 0 ∧
        n.ring.requestHead = 0 ∧ n.ring.replyTail = 0 ∧ n.ring.replyHead = 0 ∧ n.ring.noticeHoldings = 0 ∧
        n.ring.replyHoldings = (u.masters.get p).ring.reservations.length ∧ s.OtherPorts p t) ∧
      (m.state = .fenced → ∃ t, exec .revivePort s = .next t ∧
        t.mport = s.mport.take.writeReply s.mport.freeSlot (replyRecord kindRevivePort q.tag .ok []) [] ∧
        t.masters.get p = { m with
          state := .active
          inactivity := 0
          fenceDue := false
          ring := { m.ring with
            requestTail := 0
            requestHead := 0
            replyTail := 0
            replyHead := 0
            replyHoldings := m.ring.reservations.length
            noticeHoldings := 0
            mem := (t.masters.get p).ring.mem } } ∧
        (∀ a, (t.masters.get p).ring.mem.read a = if 0x0C00 ≤ a ∧ a < 0x0C10 then 0 else m.ring.mem.read a) ∧
        t.interrupt (.master p) = false ∧ s.OtherPorts p t ∧ s.Only [.masters, .mport] t)

/-- CLEAR_DIE_FAULT (R55, R92, R133): a FAULTED die is IDLE with its backlogs, counts and queue cleared and its queue filled from its waiting
units, its group is woken, and the reply is OK; then the group's waiting re-placement lists are served, in the order in which they began to
wait, and after them its SPACE entries in arrival order, as `State.Examined` says; where no page waits for a place nothing is served. A die that
is not FAULTED is WRONG_STATE, and an unconfigured one BAD_REQUEST. -/
def Obligations.ClearDieFaultRestoresDie : Prop :=
  ∀ s : State, s.Ready .management kindClearDieFault →
    let q := s.headRequest .management
    (s.dieCount ≤ q.byte 4 → ∃ t, exec .clearDieFault s = .next t ∧ s.OnlyAnswered .management .badRequest [] [] t) ∧
    ∀ d : DieId, q.byte 4 = d.val → d.val < s.dieCount →
      ((s.dies.get d).state ≠ .faulted →
        ∃ t, exec .clearDieFault s = .next t ∧ s.OnlyAnswered .management .wrongState [] [] t) ∧
      ((s.dies.get d).state = .faulted →
        ∃ m n t, exec .clearDieFault s = .next t ∧ s.Answered .management .ok [] [] t ∧
          (m.dies.get d).state = .idle ∧ (∀ l, (m.dies.get d).backlogs.get l = [] ∧ (m.dies.get d).passOver.get l = 0) ∧
          (s.isRunning = true → s.plwAsserted = false →
            (m.dies.get d).waiting = [] ∨ 4 ≤ (m.dies.get d).queue.length) ∧
          (s.isRunning = false ∨ s.plwAsserted = true → (m.dies.get d).queue = []) ∧ s.OtherDies d m ∧
          (∀ g, m.config g = s.config g ∧ m.reclaimOf g = if s.groupOfDie d.val = some g
            then (s.reclaimOf g).map ReclaimRecord.wake else s.reclaimOf g) ∧
          s.Only [.groups, .dies, .mport] m ∧
          (∀ g, s.groupOfDie d.val = some g → m.Examined (s.ofGroup g) n ∧ n.serveSuspended.Only [.mport] t) ∧
          (s.groupOfDie d.val = none → m.Only [.mport] t)) ∧
      ((s.dies.get d).state = .faulted → s.NoWork → s.NoneSuspended →
        ∃ t, exec .clearDieFault s = .next t ∧ s.Answered .management .ok [] [] t ∧
          (t.dies.get d).state = .idle ∧ (∀ l, (t.dies.get d).backlogs.get l = [] ∧ (t.dies.get d).passOver.get l = 0) ∧
          (s.isRunning = true → s.plwAsserted = false →
            (t.dies.get d).waiting = [] ∨ 4 ≤ (t.dies.get d).queue.length) ∧
          (s.isRunning = false ∨ s.plwAsserted = true → (t.dies.get d).queue = []) ∧ s.OtherDies d t ∧
          (∀ g, t.config g = s.config g ∧ t.reclaimOf g = if s.groupOfDie d.val = some g
            then (s.reclaimOf g).map ReclaimRecord.wake else s.reclaimOf g) ∧
          s.Only [.groups, .dies, .mport, .waiters, .credit] t)

/-- CANCEL_ORDERS (R103): every PENDING or ISSUED order of every group ends, its unit, if it has valid pages, going back to SEALED, and the
reply carries the number withdrawn and the number cancelled; no order stays PENDING or ISSUED. A PENDING order of a port with no notice slot free
is withdrawn with its notice. The expiry memories take nothing but cancelled orders: the ISSUED orders of a port enter its expiry memory (R97)
one after another, the last entered in front, the ninth and older dropped. Their ORDER-EXPIRED notices are offered in the same order (R95): with no
notice waiting for the port the first are written while notice slots are free, each freeing its order's slot, and the others wait with their
orders CLOSING; with no notice slot free all of them wait behind those that waited, less the withdrawn. The order is that of ascending group and
slot number, the model's choice (log entry 7). In UNCONFIGURED it is WRONG_STATE. The layout of the reply body is the model's choice (log
entry 10). -/
def Obligations.CancelOrdersEndsOrders : Prop :=
  ∀ s : State, s.Ready .management kindCancelOrders →
    let q := s.headRequest .management
    let held := fun (p : MasterId) (code : Nat) =>
      allSlots.filter (fun r => (s.order r).any (fun o => decide (o.port = p ∧ orderSlotCode (some o) = code)))
    let issued := fun p : MasterId => held p 2
    let free := fun p : MasterId => if s.noticePlace p then 8 - (s.masters.get p).ring.noticeHoldings else 0
    let entered := fun p : MasterId => (issued p).reverse.filterMap (fun r => (s.order r).map (fun o => (o.unit, o.number)))
    let apart := fun p : MasterId => ∀ r o w, s.order r = some o → o.port = p → w ≠ p → r ∉ s.reclaim.notices.get w
    (s.mgmt.device = .unconfigured → ∃ t, exec .cancelOrders s = .next t ∧ s.OnlyAnswered .management .wrongState [] [] t) ∧
    (s.mgmt.device ≠ .unconfigured → ∃ t, exec .cancelOrders s = .next t ∧
      t.mport = s.mport.take.writeReply s.mport.freeSlot (replyRecord kindCancelOrders q.tag .ok
        (leBytes 1 (allSlots.filter (fun r => decide (orderSlotCode (s.order r) = 1))).length ++
          leBytes 1 (allSlots.filter (fun r => decide (orderSlotCode (s.order r) = 2))).length)) [] ∧
      (∀ r o, t.order r = some o → ∃ cause, o.phase = .closing cause) ∧
      (∀ r o x, s.order r = some o → (∀ cause, o.phase ≠ .closing cause) → s.unit? o.unit = some x → x.valid ≠ 0 →
        t.unitState o.unit = some .sealed) ∧
      (∀ p, ∀ v ∈ t.reclaim.expiry.get p, v ∈ s.reclaim.expiry.get p ∨
        ∃ r ∈ allSlots, ∃ o, s.order r = some o ∧ o.port = p ∧ v = (o.unit, o.number) ∧ (orderSlotCode (some o) = 2 ∨
          (o.phase = .pending ∧ ∃ w, r ∈ s.reclaim.notices.get w ∧ s.noticePlace w = true))) ∧
      (∀ r o, s.order r = some o → o.phase = .pending → s.noticePlace o.port = false →
        (∀ p, p ≠ o.port → r ∉ s.reclaim.notices.get p) →
        t.order r = none ∧ r ∉ t.reclaim.notices.get o.port) ∧
      (∀ p, (∀ r o w, s.order r = some o → o.port = p → o.phase = .pending → r ∈ s.reclaim.notices.get w → s.noticePlace w = false) →
        (issued p = [] → t.reclaim.expiry.get p = s.reclaim.expiry.get p) ∧
        (issued p ≠ [] → t.reclaim.expiry.get p = (entered p ++ s.reclaim.expiry.get p).take 8)) ∧
      (∀ p, apart p → s.reclaim.notices.get p = [] →
        let written := (issued p).take (free p)
        let waiting := (issued p).drop (free p)
        t.reclaim.notices.get p = waiting ∧ (∀ r ∈ written, t.order r = none) ∧
        (∀ r ∈ waiting, ∀ o, s.order r = some o → t.order r = some { o with phase := .closing .cancelled }) ∧
        t.masters.get p = { s.masters.get p with
          ring := written.foldl (fun ring r => match s.order r with
            | some o => ring.writeRecord .notice (noticeRecord kindOrderExpired (orderExpiredBody o r .cancelled)) []
            | none => ring) (s.masters.get p).ring }) ∧
      (∀ p, apart p → s.noticePlace p = false →
        t.reclaim.notices.get p = (s.reclaim.notices.get p).filter (fun r => decide (r ∉ held p 1)) ++ issued p ∧
        (∀ r ∈ issued p, ∀ o, s.order r = some o → t.order r = some { o with phase := .closing .cancelled }) ∧
        t.masters.get p = s.masters.get p) ∧
      s.Only [.units, .streams, .groups, .reclaim, .dies, .masters, .mport] t)

/-! ## Reclaim -/

/-- A unit is an eligible victim exactly under the conditions of R86, with the settled condition of R3 and the route of R37, and a candidate
comes before another in the order of R89; it is still a victim at the end when it is still eligible and, if scored, its score is not 0 (R91). Orders
may be issued in RUNNING with PLW_N deasserted (R85), and a unit's age is the epochs since its seal (R88). SEARCH_EXAMINE (R90, R91): a group that may begins its search at its lowest unit; the record at the cursor is examined, an
eligible unit with a score becoming the candidate where it comes before the one so far and every one of score 0, also a retire-pending one, setting the zero-score flag (R83, R86); and
past the highest unit a search without candidate ends WAITING, or IDLE if it missed a change. SEARCH_EXAMINE of the highest unit (R90,
R91): while the group is active and may issue, a search with no candidate ends WAITING, or IDLE if a change was missed; one whose
candidate is still a victim takes the lowest free order slot for it; and otherwise the search is IDLE. The result of a search is discarded
where activity or issuing has stopped since it began (R84, R85); a group becomes inactive when its FREE, ERASING and RECLAIM units reach its
high watermark, and its running search is then to be discarded. -/
def Obligations.SearchExaminesUnit : Prop :=
  (∀ (s : State) (u : Nat) (x : UnitRecord), s.unit? u = some x →
     (s.victimEligible u = true ↔ x.state = .sealed ∧ x.hold = .noHold ∧
       (x.programmed = x.writePointer ∨ x.retirePending = true) ∧ (∀ st, u ∉ (s.streams.get st).young) ∧
       (x.valid < s.pages ∨ x.retirePending = true) ∧ (s.dies.get (s.dieOf u)).state ≠ .faulted ∧
       (∃ st, x.owner = some st ∧ (s.streams.get (s.streams.get st).target).state = .opened ∧
         x.tenant = some (s.streams.get (s.streams.get st).target).tenant) ∧
       ∃ n, x.tenant = some n ∧ s.passesFilter n = true)) ∧
  (∀ s : State, (s.mayIssue = true ↔ s.mgmt.device = .running ∧ s.inputs.plwN = .high) ∧
     (∀ (x : UnitRecord) (n : Word), x.sealEpoch = some n → s.age x = (s.time.epoch - n).toNat) ∧
     ∀ (u : Nat) (x : UnitRecord), s.unit? u = some x → ∀ a b, (s.stillVictim (.retire u a) = true ↔ s.victimEligible u = true) ∧
       (s.stillVictim (.scored u a b) = true ↔ s.victimEligible u = true ∧ s.score x ≠ 0)) ∧
  (∀ c : Candidate, better none c = c) ∧
  (∀ u v a b : Nat, better (some (.retire v b)) (.retire u a) =
     if b < a ∨ (a = b ∧ u < v) then .retire u a else .retire v b) ∧
  (∀ u v a b f : Nat, better (some (.scored v b f)) (.retire u a) = .retire u a ∧
     better (some (.retire u a)) (.scored v b f) = .retire u a) ∧
  (∀ u v a b e f : Nat, better (some (.scored v b f)) (.scored u a e) =
     if b < a ∨ (a = b ∧ (e < f ∨ (e = f ∧ u < v))) then .scored u a e else .scored v b f) ∧
  (∀ (g : GroupId) (s : State) (c : GroupConfig) (k : ReclaimRecord), s.groups.get g = some ⟨c, k⟩ → k.active = true →
     let sum := s.freeCount c + s.countUnits c .erasing + s.countUnits c .reclaim
     (c.high ≤ sum → (s.evaluateActivity g).groups.get g = some ⟨c, match k.search with
       | .searching => { k with active := false, discard := true }
       | .waiting => { k.toIdle with active := false }
       | .idle => { k with active := false }⟩) ∧
     (sum < c.high → (s.evaluateActivity g).groups.get g = some ⟨c, k⟩)) ∧
  (∀ (g : GroupId) (s : State) (c : GroupConfig) (k : ReclaimRecord) (u : Nat) (x : UnitRecord),
     s.groups.get g = some ⟨c, k⟩ → s.unit? u = some x → (c.first * s.bpd ≤ u ∧ u + 1 < (c.last + 1) * s.bpd) →
     let begins := k.active = true ∧ k.search = .idle ∧ k.freeSlot.isSome = true ∧ s.mayIssue = true
     let runs := k.search = .searching ∧ k.chosen = none ∧ k.cursor = some u
     ((begins ∧ u = c.first * s.bpd) ∨ runs) →
     let old := if k.search = .searching then k.candidate else none
     ∃ t k', exec (.searchExamine g) s = .next t ∧ t.groups.get g = some ⟨c, k'⟩ ∧
       (∀ h, h ≠ g → t.groups.get h = s.groups.get h) ∧ s.Only [.groups] t ∧
       k'.search = .searching ∧ k'.discard = (k.discard && decide (k.search = .searching)) ∧ k'.cursor = some (u + 1) ∧
       k'.active = k.active ∧ k'.slots = k.slots ∧ k'.chosen = none ∧
       k'.missedChange = (k.missedChange && decide (k.search = .searching)) ∧
       k'.zeroScore = (k.zeroScore && decide (k.search = .searching) || s.victimEligible u && decide (s.score x = 0)) ∧
       (s.victimEligible u = false → k'.candidate = old) ∧
       (s.victimEligible u = true → x.retirePending = true → k'.candidate = some (better old (.retire u (s.age x)))) ∧
       (s.victimEligible u = true → x.retirePending = false → s.score x ≠ 0 →
         k'.candidate = some (better old (.scored u (s.score x) x.eraseCount))) ∧
       (s.victimEligible u = true → x.retirePending = false → s.score x = 0 → k'.candidate = old)) ∧
  (∀ (g : GroupId) (s : State) (c : GroupConfig) (k : ReclaimRecord) (u : Nat),
     s.groups.get g = some ⟨c, k⟩ → k.search = .searching → k.chosen = none → k.cursor = some u → (c.last + 1) * s.bpd ≤ u + 1 →
     s.victimEligible u = false →
     ∃ t k', exec (.searchExamine g) s = .next t ∧ t.groups.get g = some ⟨c, k'⟩ ∧
       (∀ h, h ≠ g → t.groups.get h = s.groups.get h) ∧ s.Only [.groups] t ∧ k'.active = k.active ∧ k'.slots = k.slots ∧
       ((k.active = false ∨ s.mayIssue = false ∨ k.discard = true) → k'.search = .idle ∧ k'.chosen = none) ∧
       (k.active = true → s.mayIssue = true → k.discard = false →
         (k.candidate = none → k'.search = (if k.missedChange then .idle else .waiting) ∧ k'.chosen = none) ∧
         ∀ v, k.candidate = some v →
           (∀ slot, s.stillVictim v = true → k.freeSlot = some slot →
             k'.search = .searching ∧ k'.candidate = some v ∧ k'.chosen = some slot ∧ k'.cursor = none) ∧
           (s.stillVictim v = false → k'.search = .idle ∧ k'.chosen = none)))

/-- ORDER_ISSUE (R10, R94, R95) of a checked candidate whose unit may move, being in no young list (R38), and whose route is usable: the unit is
RECLAIM in the slot, the order takes the next order number, and its RELOCATE-ORDER notice is written with the order ISSUED, or waits with it
PENDING. A unit that may not move leaves the unit table as it is and the search IDLE, and so does a search whose result is to be discarded
(R85). R38 has no move asked for where the unit is in a young list; that the search then goes IDLE, as it does for a move refused, is the model's
reading (log entry 15), and so is that a search counts as in progress until its order is issued (log entry 31). -/
def Obligations.OrderIssueMovesUnit : Prop :=
  ∀ (g : GroupId) (s : State) (k : ReclaimRecord) (slot : OrderSlotId) (v : Candidate) (x : UnitRecord),
    s.reclaimOf g = some k → k.chosen = some slot → k.candidate = some v → s.mayIssue = true → s.unit? v.unit = some x →
    slot.val < k.slots.length →
    let movable := x.state = .sealed ∧ x.settled = true ∧ x.hold = .noHold ∧ ∀ st, v.unit ∉ (s.streams.get st).young
    (¬ movable ∨ k.discard = true → ∃ t, exec (.orderIssue g) s = .next t ∧ t.reclaimOf g = some k.toIdle ∧ s.Only [.groups] t) ∧
    ∀ (n : Tenant) (target : StreamId) (p : MasterId), movable → k.discard = false → x.tenant = some n → s.usableRoute x = some target →
      (s.streams.get target).port = some p →
      let waiting := s.reclaim.notices.get p
      let order := fun phase : OrderPhase => (⟨v.unit, n, target, p, s.reclaim.orderNumber, phase⟩ : Order)
      waiting = [] ∨ s.noticePlace p = false →
      ∃ t, exec (.orderIssue g) s = .next t ∧
        t.unit? v.unit = some { x with state := .reclaim, orderSlot := some slot } ∧ s.OtherUnits v.unit t ∧
        (t.reclaimOf g).map (·.search) = some .idle ∧
        t.reclaim = { s.reclaim with
          orderNumber := s.reclaim.orderNumber + 1
          notices := s.reclaim.notices.set p (if s.noticePlace p then [] else waiting ++ [⟨g, slot⟩]) } ∧
        (∀ r, r ≠ ⟨g, slot⟩ → t.order r = s.order r) ∧
        (s.noticePlace p = false → t.order ⟨g, slot⟩ = some (order .pending) ∧ t.masters = s.masters) ∧
        (s.noticePlace p = true → t.order ⟨g, slot⟩ = some (order (.issued (max 1 s.limits.order))) ∧ s.OtherPorts p t ∧
          t.masters.get p = { s.masters.get p with
            ring := (s.masters.get p).ring.writeRecord .notice (noticeRecord kindRelocateOrder
              (relocateOrderBody (order .pending) ⟨g, slot⟩ x.valid)) [] }) ∧
        s.Only [.units, .groups, .reclaim, .masters] t

/-! ## Dies and the link -/

/-- The page of a program grant (R112, R117): the level is the highest with an eligible page and a pass-over count of 16, or else the highest with
an eligible page, and the page the oldest eligible one of the level, a page being eligible when it is the lowest-indexed ALLOCATED page of its
unit and no PROGRAM of the unit is outstanding. A background operation may start while no read window on the die is OPEN, PLW_N is
deasserted and the device is RUNNING (R116, R127), and it is urgent while the group free count, the length of the free lists of the group's
dies (R16), is at or below the group's reserve (R114). ARBITRATE (R115, R116, R130, R138) of an IDLE die: with a place and a tag free and no die waiting for them, the choice of R116 is handed over:
a background operation when it is urgent or no page is eligible, else a page of the level R117 chooses. The descriptor joins the end of the
queue under the first tag value at or after the cursor that is free, and the operation timer starts. With no place the die waits, and with
nothing to do nothing changes. That it waits too while a place and a tag are free but other dies wait for them is the model's reading (log
entry 14), and that the place of an issued background entry is left to QUEUE_FILL is its choice (log entry 42). -/
def Obligations.ArbitrateIssuesChoice : Prop :=
  (∀ (d : DieId) (s : State),
    let r := s.dies.get d
    let eligible := fun k : PageKey => (∀ e ∈ s.pool, e.key.unit = k.unit → k.index ≤ e.key.index) ∧
      (∀ y, (s.dies.get (s.dieOf k.unit)).current = some (.program y) → y.unit ≠ k.unit) ∧
      ∀ y, (s.dies.get (s.dieOf k.unit)).suspendedProgram = some y → y.unit ≠ k.unit
    let ready := fun l : Level => ∃ k ∈ r.backlogs.get l, eligible k
    (∀ l k, s.grantChoice d = some (l, k) →
      ((r.passOver.get l = 16 ∧ ∀ m, l < m → ready m → r.passOver.get m ≠ 16) ∨
        ((∀ m, ready m → r.passOver.get m ≠ 16) ∧ ∀ m, l < m → ¬ ready m)) ∧
      ∃ n, n < (r.backlogs.get l).length ∧ (r.backlogs.get l)[n]? = some k ∧ eligible k ∧
        ∀ m, m < n → ∀ y, (r.backlogs.get l)[m]? = some y → ¬ eligible y) ∧
    (s.grantChoice d = none → ∀ l, ¬ ready l)) ∧
  (∀ (d : DieId) (s : State),
    let r := s.dies.get d
    let may := (∀ p n, r.windows.get p ≠ .opened n) ∧ s.inputs.plwN = .high ∧ s.mgmt.device = .running
    let free := fun c : GroupConfig =>
      ((List.range (c.last + 1 - c.first)).map (fun n => (s.freeLists.get (Fin.ofNat 32 (c.first + n))).length)).sum
    (may → s.startable d = r.queue.head?) ∧ (¬ may → s.startable d = none) ∧
    (s.urgent d = true ↔ ∃ c, s.InGroup d c ∧ free c ≤ c.reserve)) ∧
  ∀ (d : DieId) (s : State), (s.dies.get d).state = .idle →
    let free := s.link.queue.length < 32 ∧ s.link.tags.length < 32 ∧ s.link.waiting = []
    let background := fun e => s.startable d = some e ∧ (s.urgent d = true ∨ s.grantChoice d = none)
    let program := fun l k => s.grantChoice d = some (l, k) ∧ (s.startable d = none ∨ s.urgent d = false)
    (∀ e, background e → free → ∃ t, exec (.arbitrate d) s = .next t ∧ s.StartsBackground s.link d e t) ∧
    (∀ l k, program l k → free → ∃ t, exec (.arbitrate d) s = .next t ∧ s.StartsProgram s.link d l k t) ∧
    ((∃ e, background e) ∨ (∃ l k, program l k) → ¬ free → ∃ t, exec (.arbitrate d) s = .next t ∧ d ∈ t.link.waiting ∧
      t.link = { s.link with waiting := t.link.waiting } ∧ s.Only [.link] t) ∧
    (s.startable d = none → s.grantChoice d = none → exec (.arbitrate d) s = .next s)

/-- QUEUE_FILL (R113): an open queue takes the waiting units of lowest number into its free places, an ERASING unit for an ERASE and
another for a CHECK (they stand in ascending number, StepKeepsDies); a closed queue takes none. A queue is open in RUNNING with PLW_N deasserted
on a die not FAULTED, and a die's suspend limit and program allowance are its group's, 0 and 1 for a die of no group (R109). WAITING_DIE_OFFER
(R140): with a place and a tag free the die at the head of the list leaves it and decides again, and with no place nothing changes. An IDLE die
issues what R116 chooses; a die in ERASE hands over the SUSPEND of a pending abandonment (R128), or a SUSPEND to serve where R121 allows it and
a window waits or a page is eligible (that it needs no more is the model's reading, log entry 38); a SUSPENDED die issues the program that
R117 chooses (R123) or its RESUME (R124); a die that wants nothing takes nothing. That the place of an entry which the offer issues is left to
QUEUE_FILL is the model's choice (log entry 42). -/
def Obligations.QueuesTakeWaiting : Prop :=
  (∀ (d : DieId) (s : State),
     let r := s.dies.get d
     (s.queueOpen d = false → exec (.queueFill d) s = .next s) ∧
     (s.queueOpen d = true → ∃ t, exec (.queueFill d) s = .next t ∧
       t.dies.get d = { r with
         queue := r.queue ++ (r.waiting.take (4 - r.queue.length)).map (fun u =>
           ⟨if s.unitState u = some .erasing then .erase else .check, u⟩)
         waiting := r.waiting.drop (4 - r.queue.length) } ∧
       s.OtherDies d t ∧ s.Only [.dies] t)) ∧
  (∀ (d : DieId) (s : State),
     (s.queueOpen d = true ↔ s.mgmt.device = .running ∧ s.inputs.plwN = .high ∧ (s.dies.get d).state ≠ .faulted) ∧
     (∀ c, s.InGroup d c → s.suspendLimit d = c.suspendLimit ∧ s.allowance d = c.allowance) ∧
     ((∀ c, ¬ s.InGroup d c) → s.suspendLimit d = 0 ∧ s.allowance d = 1)) ∧
  (∀ (s : State) (d : DieId) (rest : List DieId), s.link.waiting = d :: rest →
     let r := s.dies.get d
     let l : Link := { s.link with waiting := rest }
     let answers := fun P : State → Prop => ∃ t, exec .waitingDieOffer s = .next t ∧ P t ∧ s.OtherDies d t
     let keeps := exec .waitingDieOffer s = .next { s with link := l }
     (s.link.queue.length < 32 → s.link.tags.length < 32 →
       (r.state = .idle →
         (∀ e, s.startable d = some e → (s.urgent d = true ∨ s.grantChoice d = none) → answers (s.StartsBackground l d e)) ∧
         (∀ v k, s.grantChoice d = some (v, k) → (s.startable d = none ∨ s.urgent d = false) → answers (s.StartsProgram l d v k)) ∧
         (s.startable d = none → s.grantChoice d = none → keeps)) ∧
       (∀ u, r.state = .erase → r.purpose = some .abandon → r.current = some (.erase u) →
         answers (fun t => l.HandedOver t.link .suspend d u 0 none 0 ∧ t.dies.get d = { r with state := .suspending } ∧
           s.Only [.dies, .link] t)) ∧
       (∀ u x, r.state = .erase → r.purpose = none → r.current = some (.erase u) → s.unit? u = some x →
         let may := x.suspendCount.getD 0 < s.suspendLimit d ∧ s.urgent d = false ∧ s.inputs.plwN = .high ∧ s.mgmt.device = .running ∧
           ((∃ p pl, r.windows.get p = .waiting pl) ∨ s.grantChoice d ≠ none)
         (may → answers (fun t => l.HandedOver t.link .suspend d u 0 none 0 ∧
           t.dies.get d = { r with state := .suspending, purpose := some .serve } ∧
           t.unit? u = some { x with suspendCount := some (x.suspendCount.getD 0 + 1) } ∧ s.OtherUnits u t ∧
           s.Only [.units, .dies, .link] t)) ∧
         (¬ may → keeps)) ∧
       (∀ u, r.state = .suspended → r.purpose = some .serve → r.current = some (.erase u) → r.suspendedProgram = none →
         (¬ s.ResumeDue d → ∀ v k, s.grantChoice d = some (v, k) →
           answers (fun t => s.ServesProgram l d r v k t ∧ s.Only [.dies, .link] t)) ∧
         (s.ResumeDue d → (∀ p n, r.windows.get p ≠ .opened n) →
           answers (fun t => l.Resumes d r u t ∧ s.Only [.dies, .link] t)) ∧
         (s.ResumeDue d → (∃ p n, r.windows.get p = .opened n) → keeps)) ∧
       ((r.state = .program ∨ r.state = .suspending ∨ r.state = .check ∨ r.state = .faulted ∨
         (r.state = .suspended ∧ r.suspendedProgram ≠ none)) → keeps)) ∧
     (32 ≤ s.link.queue.length ∨ 32 ≤ s.link.tags.length → exec .waitingDieOffer s = .next s))

/-- DESCRIPTOR_SEND (R139, R141, R191): the descriptor at the head of the queue leaves it, its sixteen bytes are what the link carries,
and the entry of its tag becomes SENT. STRAY_COMPLETION (R143, R147, R183): a completion that fails a test of R143 is discarded, the link
as it was; the stray flag is set and the notice, with the first test that failed, is offered to M. -/
def Obligations.LinkSendsAndDiscards : Prop :=
  (∀ (s : State) (x : Descriptor) (rest : List Descriptor), s.link.queue = x :: rest →
     ∃ t, exec .descriptorSend s = .next t ∧ t.link.queue = rest ∧ t.link.lastSent = x.encode ∧ t.link.lastSent.length = 16 ∧
       t.link.tags = s.link.tags.map (fun e => if e.tag = x.tag then { e with phase := .sent } else e) ∧
       t.link.cursor = s.link.cursor ∧ t.link.waiting = s.link.waiting ∧ t.link.lastFail = s.link.lastFail ∧ s.Only [.link] t) ∧
  (∀ (c : Completion) (s : State) (reason : StrayReason) (e : Option TagEntry),
     (reason = .unknownTag ∧ e = none ∧ (∀ x ∈ s.link.tags, x.tag ≠ c.tag)) ∨
     (∃ x, e = some x ∧ s.link.tags.find? (fun y => decide (y.tag = c.tag)) = some x ∧
       ((reason = .notSent ∧ x.phase = .queued) ∨
        (reason = .wrongDie ∧ x.phase = .sent ∧ c.die.toNat ≠ x.die.val) ∨
        (reason = .wrongKind ∧ x.phase = .sent ∧ c.die.toNat = x.die.val ∧ x.kind.allows c.kind.toNat = false))) →
     ∃ t, exec (.strayCompletion c) s = .next t ∧
       t.mport = s.mport.offered (noticeRecord kindStrayCompletion (strayBody c reason e)) ∧
       t.mgmt = { s.mgmt with sticky := ({ s.mgmt.sticky with stray := true } : Sticky).offered s.mport } ∧
       s.Only [.mport, .mgmt] t)

/-! ## Completions -/

/-- PROGRAM_DONE (R60, R61, R118, R144) of a page of a HOST request, no die being SUSPENDED: the tag is released, the page DONE and its
pool entry free, the unit's programmed and valid counts rise by 1, and the die whose current operation it was is IDLE. PROGRAM_DONE of a
page of a RELOC request (R61): a source unit in the sealing and erase it had when the request was taken gives up one valid page; one that
has changed since is left alone, and the request's skew count rises by 1. PROGRAM_DONE of a suspended program, with no other page in the
die's backlogs (R118, R124): the program and its timer are gone; with no window OPEN a RESUME is handed over and the erase runs on from its held
ticks, and with one OPEN the die stays SUSPENDED. -/
def Obligations.ProgramDoneCounts : Prop :=
  (∀ (c : Completion) (s : State) (e : TagEntry) (k : PageKey) (pe : PoolEntry) (ctx : WriteContext) (x : UnitRecord) (u : Nat),
     s.Names c e → e.kind = .program → c.kind = 0 → e.page = some k → s.poolEntry k = some pe →
     s.context pe.ref.ctx = some ctx → ctx.source = none → s.unit? k.unit = some x →
     let r := s.dies.get e.die
     let l : Link := { s.link with
       tags := s.link.tags.filter (fun y => decide (y.tag ≠ c.tag))
       queue := s.link.queue.filter (fun y => decide (y.tag ≠ c.tag)) }
     r.state = .suspended → r.purpose = some .serve → r.suspendedProgram = some k → r.current = some (.erase u) →
     (∀ d, (s.dies.get d).state = .suspended → d = e.die) → (∀ v, r.backlogs.get v = []) →
     ∃ t, exec (.programDone c) s = .next t ∧
       t.unit? k.unit = some { x with programmed := x.programmed + 1, valid := x.valid + 1 } ∧ s.OtherUnits k.unit t ∧
       (t.dies.get e.die).suspendedProgram = none ∧ (t.dies.get e.die).current = some (.erase u) ∧
       ((∃ p n, r.windows.get p = .opened n) → (t.dies.get e.die).state = .suspended ∧ (t.dies.get e.die).opTimer = none ∧
         (t.dies.get e.die).heldErase = r.heldErase ∧ (t.dies.get e.die).programs = r.programs ∧ t.link = l) ∧
       ((∀ p n, r.windows.get p ≠ .opened n) → s.link.queue.length < 32 → s.link.tags.length ≤ 32 → s.link.waiting = [] →
         (t.dies.get e.die).state = .erase ∧ (t.dies.get e.die).purpose = none ∧ (t.dies.get e.die).opTimer = r.heldErase ∧
         (t.dies.get e.die).heldErase = none ∧ (t.dies.get e.die).programs = none ∧
         l.HandedOver t.link .resume e.die u 0 none 0) ∧
       s.Only [.units, .streams, .contexts, .pool, .groups, .dies, .link] t) ∧
  (∀ (c : Completion) (s : State) (e : TagEntry) (k : PageKey) (pe : PoolEntry) (ctx : WriteContext) (x : UnitRecord),
     s.Names c e → e.kind = .program → c.kind = 0 → e.page = some k → s.poolEntry k = some pe →
     s.context pe.ref.ctx = some ctx → ctx.source = none → s.unit? k.unit = some x → s.NoneSuspended →
     (s.dies.get e.die).suspendedProgram = none →
     ∃ t, exec (.programDone c) s = .next t ∧
       t.link = { s.link with
         tags := s.link.tags.filter (fun y => decide (y.tag ≠ c.tag))
         queue := s.link.queue.filter (fun y => decide (y.tag ≠ c.tag)) } ∧
       t.unit? k.unit = some { x with programmed := x.programmed + 1, valid := x.valid + 1 } ∧ s.OtherUnits k.unit t ∧
       t.pool = s.pool.filter (fun y => decide (y.key ≠ k)) ∧
       t.context pe.ref.ctx = some { ctx with pages := ctx.pages.modify pe.ref.page (fun g => { g with outcome := .done }) } ∧
       ((s.dies.get e.die).current = some (.program k) →
         (t.dies.get e.die).state = .idle ∧ (t.dies.get e.die).current = none ∧ (t.dies.get e.die).opTimer = none) ∧
       (∀ d, d ≠ e.die → (t.dies.get d).state = (s.dies.get d).state ∧ (t.dies.get d).current = (s.dies.get d).current) ∧
       s.Only [.units, .streams, .contexts, .pool, .groups, .dies, .link] t) ∧
  (∀ (c : Completion) (s : State) (e : TagEntry) (k : PageKey) (pe : PoolEntry) (ctx : WriteContext) (src : SourceUnit)
     (x y : UnitRecord),
     s.Names c e → e.kind = .program → c.kind = 0 → e.page = some k → s.poolEntry k = some pe →
     s.context pe.ref.ctx = some ctx → ctx.source = some src → src.unit ≠ k.unit → s.unit? k.unit = some x →
     s.unit? src.unit = some y → s.NoneSuspended →
     let same := (y.state = .sealed ∨ y.state = .reclaim) ∧ y.sealEpoch = src.sealEpoch ∧ y.eraseCount = src.eraseCount
     ∃ t, exec (.programDone c) s = .next t ∧
       t.unit? k.unit = some { x with programmed := x.programmed + 1, valid := x.valid + 1 } ∧
       (same → 1 < y.valid → t.unit? src.unit = some { y with valid := y.valid - 1 } ∧
         (t.context pe.ref.ctx).map (·.skew) = some ctx.skew) ∧
       (¬ same ∨ y.valid = 0 → t.unit? src.unit = some y ∧ (t.context pe.ref.ctx).map (·.skew) = some (ctx.skew + 1)) ∧
       (∀ u, u ≠ k.unit → u ≠ src.unit → t.unit? u = s.unit? u) ∧
       s.Only [.units, .streams, .contexts, .pool, .groups, .dies, .link] t)

/-- PROGRAM_FAIL (R6, R9, R63, R64, R118, R144, R148), no die being SUSPENDED: the tag is released and the fail recorded for the die; the unit is
sealed behind the failed page and retire-pending, which settles it (R3), so that one with no valid page and no hold leaves SEALED at once for
RETIRED (R9, R12); the failed page and the unit's higher pages leave the pool; a page that has failed fewer than twice waits to be placed again,
before the higher pages, and one that has failed twice is FAILED; the higher pages are withdrawn without a retry counted; and the die whose
current operation it was is IDLE. -/
def Obligations.ProgramFailRetries : Prop :=
  ∀ (c : Completion) (s : State) (e : TagEntry) (k : PageKey) (pe : PoolEntry) (ctx : WriteContext) (pr : PageRecord)
    (x : UnitRecord) (st : StreamId),
    s.Names c e → e.kind = .program → c.kind = 1 → e.page = some k → s.poolEntry k = some pe →
    s.context pe.ref.ctx = some ctx → ctx.pages[pe.ref.page]? = some pr → s.unit? k.unit = some x → x.owner = some st →
    s.NoneSuspended →
    let higher := (s.unitEntries k.unit).filter (fun y => decide (k.index < y.key.index))
    let failed : UnitRecord := { x with
      state := .sealed
      writePointer := k.index + 1
      retirePending := true
      sealEpoch := (if x.state = .opened then some s.time.epoch else x.sealEpoch)
      short := (x.short || decide (k.index + 1 < s.pages)) }
    (∀ y ∈ higher, y.ref ≠ pe.ref) →
    ∃ t, exec (.programFail c) s = .next t ∧
      (x.valid ≠ 0 ∨ x.hold ≠ .noHold → t.unit? k.unit = some failed) ∧
      (x.valid = 0 → x.hold = .noHold → t.unit? k.unit = some { failed with
        state := .retired
        tenant := none
        owner := none
        sealEpoch := none
        orderSlot := none
        suspendCount := none }) ∧
      s.OtherUnits k.unit t ∧
      (pr.retries < 2 → (t.lines.get st).replace = (s.lines.get st).replace ++ pe.ref :: higher.map (·.ref) ∧
        ((t.context pe.ref.ctx).bind (fun g => g.pages[pe.ref.page]?)) =
          some { pr with outcome := .unplaced, retries := pr.retries + 1 } ∧
        (t.context pe.ref.ctx).map (·.failed) = some ctx.failed) ∧
      (2 ≤ pr.retries → (t.lines.get st).replace = (s.lines.get st).replace ++ higher.map (·.ref) ∧
        ((t.context pe.ref.ctx).bind (fun g => g.pages[pe.ref.page]?)) = some { pr with outcome := .failed } ∧
        (t.context pe.ref.ctx).map (·.failed) = some (ctx.failed + 1)) ∧
      (∀ q o, (t.streams.get st).slots.get q = some o → (s.streams.get st).slots.get q = some o) ∧
      (∀ q, s.slotOf st k.unit = some q → (t.streams.get st).slots.get q = none) ∧
      t.pool = s.pool.filter (fun y => decide (¬ (y.key.unit = k.unit ∧ k.index ≤ y.key.index))) ∧
      (∀ y ∈ higher, ∀ g, (s.context y.ref.ctx).bind (fun x => x.pages[y.ref.page]?) = some g →
        (t.context y.ref.ctx).bind (fun x => x.pages[y.ref.page]?) = some { g with outcome := .unplaced }) ∧
      ((s.dies.get e.die).suspendedProgram = none → (s.dies.get e.die).current = some (.program k) →
        (t.dies.get e.die).state = .idle ∧ (t.dies.get e.die).current = none ∧ (t.dies.get e.die).opTimer = none) ∧
      (∀ d, d ≠ e.die → (t.dies.get d).state = (s.dies.get d).state ∧ (t.dies.get d).current = (s.dies.get d).current) ∧
      t.link = { s.link with
        tags := s.link.tags.filter (fun y => decide (y.tag ≠ c.tag))
        queue := s.link.queue.filter (fun y => decide (y.tag ≠ c.tag))
        lastFail := s.link.lastFail.set e.die (some (.program, if c.cause = 1 then .aborted else .media)) } ∧
      s.Only [.units, .streams, .contexts, .lines, .pool, .waiters, .credit, .groups, .dies, .link] t

/-- ERASE_COMPLETION (R8, R13, R55, R119, R144): DONE makes the unit FREE with its erase count one higher, saturating, and puts it on its die's
free list; FAIL makes it RETIRED with its erase count kept; the die is IDLE, and its WAITING windows are granted: so stands the state `m`. A unit
that has become FREE then has its group's waiting re-placement lists served, in the order in which they began to wait, and after them the group's
SPACE entries in arrival order, as `State.Examined` says, unless the part is HALTED, where RUN does it; a RETIRED unit calls for nothing; and the
SUSPENDED dies decide again. CHECK_COMPLETION (R15, R55, R120): BLANK makes the unit FREE with its erase count kept and puts it on its die's free
list, with the same examination; NOT_BLANK makes it ERASING, or UNKNOWN again while PLW_N is asserted (R128), and FAIL makes it RETIRED, with none;
the die is IDLE. Either leaves the free lists exact and in wear order (R16). Where no page waits for a place and no die is SUSPENDED, `m` is the
state that is left. -/
def Obligations.EraseAndCheckEnd : Prop :=
  (∀ (c : Completion) (s : State) (e : TagEntry) (x : UnitRecord),
     s.Names c e → e.kind = .erase → s.unit? e.unit = some x →
     (s.dies.get e.die).suspendedProgram = none → (c.kind = 0 ∨ c.kind = 1) →
     ∃ m n y, exec (.eraseCompletion c) s = .next n.serveSuspended ∧ m.unit? e.unit = some y ∧ s.OtherUnits e.unit m ∧
       (c.kind = 0 → y = { UnitRecord.blank with eraseCount := min 65535 (x.eraseCount + 1) } ∧
         (m.freeLists.get (s.dieOf e.unit)).Perm (e.unit :: s.freeLists.get (s.dieOf e.unit)) ∧
         ∀ d, d ≠ s.dieOf e.unit → m.freeLists.get d = s.freeLists.get d) ∧
       (c.kind = 1 → y.state = .retired ∧ y.eraseCount = x.eraseCount ∧ y.writePointer = x.writePointer ∧ y.valid = 0 ∧
         y.suspendCount = none ∧ m.freeLists = s.freeLists) ∧
       (m.dies.get e.die).state = .idle ∧ (m.dies.get e.die).current = none ∧ (m.dies.get e.die).opTimer = none ∧
       (m.dies.get e.die).heldErase = none ∧ (∀ p pl, (m.dies.get e.die).windows.get p ≠ .waiting pl) ∧ s.OtherDies e.die m ∧
       (s.FreeListsLegal → x.state = .erasing → m.FreeListsLegal) ∧
       (∀ y ∈ m.link.tags, y.tag ≠ c.tag) ∧
       s.Only [.units, .freeLists, .streams, .groups, .dies, .link, .masters] m ∧
       (c.kind = 0 → s.ExaminesFreed e.unit m n) ∧ (c.kind = 1 → n = m) ∧
       (s.NoWork → s.NoneSuspended → n.serveSuspended = m)) ∧
  (∀ (c : Completion) (s : State) (e : TagEntry) (x : UnitRecord),
     s.Names c e → e.kind = .check → s.unit? e.unit = some x →
     (s.dies.get e.die).suspendedProgram = none → (c.kind = 1 ∨ c.kind = 3 ∨ c.kind = 4) →
     ∃ m n y, exec (.checkCompletion c) s = .next n.serveSuspended ∧ m.unit? e.unit = some y ∧ s.OtherUnits e.unit m ∧
       (c.kind = 3 → y = { UnitRecord.blank with eraseCount := x.eraseCount } ∧
         (m.freeLists.get (s.dieOf e.unit)).Perm (e.unit :: s.freeLists.get (s.dieOf e.unit))) ∧
       (c.kind = 4 → y.state = (if s.plwAsserted then .unknown else .erasing) ∧ m.freeLists = s.freeLists) ∧
       (c.kind = 1 → y.state = .retired ∧ y.eraseCount = x.eraseCount ∧ m.freeLists = s.freeLists) ∧
       (s.FreeListsLegal → x.state = .unknown → m.FreeListsLegal) ∧
       (m.dies.get e.die).state = .idle ∧ (m.dies.get e.die).current = none ∧ (m.dies.get e.die).opTimer = none ∧
       (∀ y ∈ m.link.tags, y.tag ≠ c.tag) ∧
       s.Only [.units, .freeLists, .streams, .groups, .dies, .link, .masters] m ∧
       (c.kind = 3 → s.ExaminesFreed e.unit m n) ∧ (c.kind = 1 ∨ c.kind = 4 → n = m) ∧
       (s.NoWork → s.NoneSuspended → n.serveSuspended = m))

/-- SUSPEND_ANSWER (R122, R125, R128) in SUSPENDING: SUSPENDED to serve holds the erase, its timer kept and its WAITING windows granted;
SUSPENDED to abandon, or under PLW_N, makes the unit UNKNOWN and the die IDLE, PLW_N's level being that at the answer (log entry 36); FAIL returns the die to ERASE; DONE leaves it SUSPENDING. A die
that then serves issues the program that R117 chooses, as the suspended program with a timer of its own (R123), or, with no eligible page and
no window, hands a RESUME over at once (R124).
RESUME_ANSWER (R124): DONE releases the tag and changes nothing else; FAIL before the erase's own completion ends the erase as failed, its
unit RETIRED, its tag released and its die IDLE, no die being SUSPENDED; no unit has become FREE, so the waiting re-placement lists and the SPACE
entries wait on as they are (R55). -/
def Obligations.SuspensionAnswersDecide : Prop :=
  (∀ (c : Completion) (s : State) (e : TagEntry),
     s.Names c e → e.kind = .suspend → e.ended = false → (s.dies.get e.die).state = .suspending → s.NoneSuspended →
     let r := s.dies.get e.die
     (c.kind = 0 → ∃ t, exec (.suspendAnswer c) s = .next t ∧ t.dies = s.dies ∧ (∀ y ∈ t.link.tags, y.tag ≠ c.tag) ∧
       s.Only [.link] t) ∧
     (c.kind = 1 → ∃ t, exec (.suspendAnswer c) s = .next t ∧
       t.dies.get e.die = { r with state := .erase, purpose := none } ∧ s.OtherDies e.die t ∧
       (∀ y ∈ t.link.tags, y.tag ≠ c.tag) ∧ s.Only [.dies, .link] t) ∧
     (c.kind = 2 → r.purpose = some .serve → s.plwAsserted = false → (∃ p pl, r.windows.get p = .waiting pl) →
       ∃ t, exec (.suspendAnswer c) s = .next t ∧
         (t.dies.get e.die).state = .suspended ∧ (t.dies.get e.die).heldErase = r.opTimer ∧
         (t.dies.get e.die).current = r.current ∧
         (∀ p, (t.dies.get e.die).windows.get p = match r.windows.get p with
           | .waiting _ => .opened (max 1 s.limits.window) | w => w) ∧
         (∀ d, d ≠ e.die → t.dies.get d = s.dies.get d) ∧ s.Only [.dies, .link, .masters] t) ∧
     (let l : Link := { s.link with
        tags := s.link.tags.filter (fun y => decide (y.tag ≠ c.tag))
        queue := s.link.queue.filter (fun y => decide (y.tag ≠ c.tag)) }
      c.kind = 2 → r.purpose = some .serve → s.plwAsserted = false → r.suspendedProgram = none →
      s.link.queue.length < 32 → s.link.tags.length ≤ 32 → s.link.waiting = [] →
      (∀ v k, s.grantChoice e.die = some (v, k) → 0 < s.allowance e.die → s.urgent e.die = false → s.isRunning = true →
        ∃ t, exec (.suspendAnswer c) s = .next t ∧
          (t.dies.get e.die).state = .suspended ∧ (t.dies.get e.die).current = r.current ∧
          (t.dies.get e.die).suspendedProgram = some k ∧ (t.dies.get e.die).programs = some 1 ∧
          (t.dies.get e.die).heldErase = r.opTimer ∧ (t.dies.get e.die).opTimer = some (max 1 s.limits.op) ∧
          (t.dies.get e.die).backlogs = r.backlogs.modify v (·.erase k) ∧
          l.HandedOver t.link .program e.die k.unit (s.blockOf k.unit) (some k) (s.handleOf k) ∧
          s.OtherDies e.die t ∧ s.Only [.dies, .link, .masters] t) ∧
      ∀ u, s.grantChoice e.die = none → r.current = some (.erase u) → (∀ p, r.windows.get p = .closed) →
        ∃ t, exec (.suspendAnswer c) s = .next t ∧
          t.dies.get e.die = { r with state := .erase, purpose := none, programs := none, heldErase := none } ∧
          l.HandedOver t.link .resume e.die u 0 none 0 ∧ s.OtherDies e.die t ∧ s.Only [.dies, .link] t) ∧
     (∀ u x, c.kind = 2 → (r.purpose = some .abandon ∨ s.plwAsserted = true) → r.current = some (.erase u) →
       r.suspendedProgram = none → s.unit? u = some x → x.state = .erasing →
       ∃ t, exec (.suspendAnswer c) s = .next t ∧
         t.unit? u = some { x with state := .unknown, suspendCount := none } ∧ s.OtherUnits u t ∧
         (t.dies.get e.die).state = .idle ∧ (t.dies.get e.die).current = none ∧ (t.dies.get e.die).heldErase = none ∧
         (∀ y ∈ t.link.tags, y.tag ≠ c.tag) ∧ (∀ y ∈ t.link.tags, ¬ (y.die = e.die ∧ y.unit = u ∧ y.kind = .erase)) ∧
         s.Only [.units, .groups, .dies, .link, .masters] t)) ∧
  (∀ (c : Completion) (s : State) (e : TagEntry),
     s.Names c e → e.kind = .resume →
     (c.kind = 0 → ∃ t, exec (.resumeAnswer c) s = .next t ∧ s.Only [.link] t ∧
       t.link = { s.link with
         tags := s.link.tags.filter (fun y => decide (y.tag ≠ c.tag))
         queue := s.link.queue.filter (fun y => decide (y.tag ≠ c.tag)) }) ∧
     (∀ x, c.kind = 1 → e.ended = false → s.unit? e.unit = some x → s.NoneSuspended →
       (s.dies.get e.die).suspendedProgram = none →
       ∃ t, exec (.resumeAnswer c) s = .next t ∧ t.unitState e.unit = some .retired ∧ s.OtherUnits e.unit t ∧
         (t.dies.get e.die).state = .idle ∧ (t.dies.get e.die).current = none ∧
         (∀ y ∈ t.link.tags, y.tag ≠ c.tag) ∧
         (∀ y ∈ t.link.tags, ¬ (y.die = e.die ∧ y.unit = e.unit ∧ y.kind = .erase)) ∧
         t.link.lastFail = s.link.lastFail.set e.die (some (.resume, if c.cause = 1 then .aborted else .media)) ∧
         t.freeLists = s.freeLists ∧ s.Only [.units, .streams, .groups, .dies, .link, .masters] t))
end

