-- ==== Sys2Proof/Laws/Memory.lean ====
section
/-! SUPPORT. What port memory reads after a write, and that every memory operation keeps the canonical form. -/

namespace Sys2Proof.Machine

theorem leBytes_length (n v : Nat) : (leBytes n v).length = n := by
  induction n generalizing v with
  | zero => rfl
  | succ n ih => simp [leBytes, ih]

theorem padTo_length {α : Type} (x : α) (n : Nat) (l : List α) : (padTo x n l).length = n := by
  induction n generalizing l with
  | zero => cases l <;> rfl
  | succ n ih => cases l <;> simp [padTo, ih]

theorem indexWord_length (i : Nat) : (indexWord i).length = 4 := leBytes_length 4 i

/-! ## Reading -/

theorem Memory.read_append (m m' : Memory) (a : Nat) :
    Memory.read (m ++ m') a = if ∃ c ∈ m, c.1 = a then Memory.read m a else Memory.read m' a := by
  induction m with
  | nil => simp
  | cons c cs ih =>
    simp only [List.cons_append, Memory.read, List.mem_cons, exists_eq_or_imp]
    by_cases h : c.1 = a
    · simp [h]
    · simp only [h, if_false, false_or]; exact ih

theorem Memory.read_absent (m : Memory) (a : Nat) (h : ∀ c ∈ m, c.1 ≠ a) : m.read a = 0 := by
  induction m with
  | nil => rfl
  | cons c cs ih =>
    simp only [Memory.read]
    rw [if_neg (h c (by simp))]
    exact ih (fun d hd => h d (by simp [hd]))

theorem Memory.read_filter (m : Memory) (p : Nat → Bool) (a : Nat) :
    Memory.read (m.filter (fun c => p c.1)) a = if p a then m.read a else 0 := by
  induction m with
  | nil => simp [Memory.read]
  | cons c cs ih =>
    by_cases hp : p c.1
    · simp only [List.filter_cons, hp, if_true, Memory.read]
      by_cases h : c.1 = a
      · subst h; simp [hp]
      · simp only [h, if_false]; exact ih
    · simp only [List.filter_cons, hp, Memory.read]
      by_cases h : c.1 = a
      · subst h; simp [hp] at ih ⊢; simpa [hp] using ih
      · simp only [h, if_false]; simpa using ih

theorem Memory.mem_cells {a : Nat} {bytes : List Byte} {c : Host.Cell} (h : c ∈ Memory.cells a bytes) :
    a ≤ c.1 ∧ c.1 < a + bytes.length ∧ c.2 ≠ 0 := by
  induction bytes generalizing a with
  | nil => simp [Memory.cells] at h
  | cons b bs ih =>
    simp only [Memory.cells] at h
    split at h
    · have := ih h
      simp only [List.length_cons]
      exact ⟨by omega, by omega, this.2.2⟩
    · rcases List.mem_cons.mp h with rfl | h
      · simp only [List.length_cons]; exact ⟨le_refl _, by omega, by assumption⟩
      · have := ih h
        simp only [List.length_cons]; exact ⟨by omega, by omega, this.2.2⟩

theorem Memory.read_cells (a : Nat) (bytes : List Byte) (x : Nat) :
    Memory.read (Memory.cells a bytes) x = if a ≤ x then bytes.getD (x - a) 0 else 0 := by
  induction bytes generalizing a with
  | nil => simp [Memory.cells, Memory.read]
  | cons b bs ih =>
    by_cases hx : x = a
    · subst hx
      simp only [Memory.cells, le_refl, if_true, Nat.sub_self, List.getD_cons_zero]
      split
      · next h0 => rw [Memory.read_absent, h0]; intro c hc; have := Memory.mem_cells hc; omega
      · simp [Memory.read]
    · have key : Memory.read (Memory.cells (a + 1) bs) x = if a ≤ x then (b :: bs).getD (x - a) 0 else 0 := by
        rw [ih]
        by_cases h : a ≤ x
        · have h1 : a + 1 ≤ x := by omega
          rw [if_pos h, if_pos h1, show x - a = (x - (a + 1)) + 1 by omega, List.getD_cons_succ]
        · rw [if_neg h, if_neg (by omega)]
      simp only [Memory.cells]
      split
      · exact key
      · simp only [Memory.read]
        rw [if_neg (Ne.symm hx)]
        exact key

/-- A read after a write: the bytes written inside their run, and what was there before outside it. -/
theorem Memory.read_write (m : Memory) (a : Nat) (bytes : List Byte) (x : Nat) :
    (m.write a bytes).read x = if a ≤ x ∧ x < a + bytes.length then bytes.getD (x - a) 0 else m.read x := by
  unfold Memory.write
  rw [Memory.read_append, Memory.read_append]
  have f1 := Memory.read_filter m (fun y => decide (y < a)) x
  have f2 := Memory.read_filter m (fun y => decide (a + bytes.length ≤ y)) x
  by_cases hin : a ≤ x ∧ x < a + bytes.length
  · rw [if_pos hin]
    have hlow : ¬ ∃ c ∈ m.filter (fun c => decide (c.1 < a)), c.1 = x := by
      rintro ⟨c, hc, rfl⟩
      have := (List.mem_filter.mp hc).2
      simp at this; omega
    split
    · rw [Memory.read_cells, if_pos hin.1]
    · next hno =>
      have h0 : Memory.read (Memory.cells a bytes) x = 0 := by
        apply Memory.read_absent
        intro c hc he
        exact hno ⟨c, List.mem_append_right _ hc, he⟩
      rw [Memory.read_cells, if_pos hin.1] at h0
      rw [f2]
      simp only [decide_eq_true_eq]
      rw [if_neg (by omega), h0]
  · rw [if_neg hin]
    by_cases hx : x < a
    · simp only [hx, decide_true, if_true] at f1
      have hz : ¬ (a + bytes.length ≤ x) := by omega
      simp only [decide_eq_true_eq, hz, if_false] at f2
      split
      · split
        · exact f1
        · next _ hno =>
          rw [← f1, Memory.read_absent _ x (fun c hc he => hno ⟨c, hc, he⟩), Memory.read_cells, if_neg (by omega)]
      · next hno =>
        rw [f2, ← f1, Memory.read_absent _ x (fun c hc he => hno ⟨c, List.mem_append_left _ hc, he⟩)]
    · have hge : a + bytes.length ≤ x := by omega
      simp only [decide_eq_true_eq, hge, if_true] at f2
      split
      · next hyes =>
        obtain ⟨c, hc, he⟩ := hyes
        rcases List.mem_append.mp hc with hc | hc
        · have := (List.mem_filter.mp hc).2
          simp at this; omega
        · have := Memory.mem_cells hc; omega
      · exact f2

theorem Memory.read_write_outside (m : Memory) (a : Nat) (bytes : List Byte) (x : Nat)
    (h : x < a ∨ a + bytes.length ≤ x) : (m.write a bytes).read x = m.read x := by
  rw [Memory.read_write, if_neg (by omega)]

theorem Memory.readRange_length (m : Memory) (a n : Nat) : (m.readRange a n).length = n := by
  simp [Memory.readRange]

/-- A range read back just after it was written. -/
theorem Memory.readRange_write_self (m : Memory) (a : Nat) (bytes : List Byte) :
    (m.write a bytes).readRange a bytes.length = bytes := by
  apply List.ext_getElem
  · simp [Memory.readRange]
  · intro k h1 h2
    simp only [Memory.readRange, List.getElem_map, List.getElem_range]
    rw [Memory.read_write, if_pos ⟨by omega, by omega⟩]
    simp [h2]

/-- A range that a write does not reach. -/
theorem Memory.readRange_write_outside (m : Memory) (a : Nat) (bytes : List Byte) (b n : Nat)
    (h : b + n ≤ a ∨ a + bytes.length ≤ b) : (m.write a bytes).readRange b n = m.readRange b n := by
  apply List.ext_getElem
  · simp [Memory.readRange]
  · intro k h1 h2
    simp only [Memory.readRange, List.length_map, List.length_range] at h1
    simp only [Memory.readRange, List.getElem_map, List.getElem_range]
    exact Memory.read_write_outside _ _ _ _ (by omega)

/-! ## A master's writes -/

/-- What a byte reads after a master's write: the byte written, unless it lies outside the run or is dropped (R186, R187). -/
theorem Memory.read_writeByMaster (m : Memory) (start a : Nat) (bytes : List Byte) (x : Nat) :
    (m.writeByMaster start a bytes).read x =
      if a ≤ x ∧ x < a + bytes.length ∧ writeDropped start x = false then bytes.getD (x - a) 0 else m.read x := by
  induction bytes generalizing m a with
  | nil => simp [Memory.writeByMaster]; omega
  | cons b bs ih =>
    simp only [Memory.writeByMaster]
    rw [ih]
    by_cases hx : x = a
    · subst hx
      rw [if_neg (by omega)]
      by_cases hd : writeDropped start x = true
      · simp [hd]
      · have hd' : writeDropped start x = false := by simpa using hd
        simp [hd', Memory.read_write]
    · have hm : (if writeDropped start a = true then m else m.write a [b]).read x = m.read x := by
        split
        · rfl
        · apply Memory.read_write_outside; simp; omega
      rw [hm]
      by_cases hin : a + 1 ≤ x ∧ x < a + 1 + bs.length ∧ writeDropped start x = false
      · rw [if_pos hin, if_pos ⟨by omega, by simp; omega, hin.2.2⟩, show x - a = (x - (a + 1)) + 1 by omega,
          List.getD_cons_succ]
      · rw [if_neg hin, if_neg]
        rintro ⟨h1, h2, h3⟩
        simp only [List.length_cons] at h2
        exact hin ⟨by omega, by omega, h3⟩

/-! ## The canonical form -/

theorem Memory.cells_sorted (a : Nat) (bytes : List Byte) :
    (Memory.cells a bytes).Pairwise (fun c d => c.1 < d.1) := by
  induction bytes generalizing a with
  | nil => simp [Memory.cells]
  | cons b bs ih =>
    simp only [Memory.cells]
    split
    · exact ih _
    · refine List.pairwise_cons.mpr ⟨fun c hc => ?_, ih _⟩
      have := Memory.mem_cells hc
      show a < c.1
      omega

theorem Memory.wf_nil : Memory.wf [] := by simp [Memory.wf]

/-- A write keeps the canonical form. -/
theorem Memory.wf_write (m : Memory) (h : m.wf) (a : Nat) (bytes : List Byte) : (m.write a bytes).wf := by
  obtain ⟨hs, hz⟩ := h
  constructor
  · unfold Memory.write
    refine List.pairwise_append.mpr ⟨List.pairwise_append.mpr ⟨hs.filter _, Memory.cells_sorted a bytes, ?_⟩,
      hs.filter _, ?_⟩
    · intro c hc d hd
      have h1 := (List.mem_filter.mp hc).2
      have h2 := Memory.mem_cells hd
      simp at h1; omega
    · intro c hc d hd
      have h2 := (List.mem_filter.mp hd).2
      simp at h2
      rcases List.mem_append.mp hc with hc | hc
      · have h1 := (List.mem_filter.mp hc).2
        simp at h1; omega
      · have h1 := Memory.mem_cells hc; omega
  · intro c hc
    rcases List.mem_append.mp hc with hc | hc
    · rcases List.mem_append.mp hc with hc | hc
      · exact hz c (List.mem_filter.mp hc).1
      · exact (Memory.mem_cells hc).2.2
    · exact hz c (List.mem_filter.mp hc).1

/-- A master's write keeps the canonical form. -/
theorem Memory.wf_writeByMaster (m : Memory) (h : m.wf) (start a : Nat) (bytes : List Byte) :
    (m.writeByMaster start a bytes).wf := by
  induction bytes generalizing m a with
  | nil => exact h
  | cons b bs ih =>
    simp only [Memory.writeByMaster]
    split
    · exact ih m h _
    · exact ih _ (Memory.wf_write m h _ _) _

/-- Two memories in canonical form that read the same are the same. -/
theorem Memory.wf_read_zero_iff (m : Memory) (h : m.wf) (a : Nat) : m.read a = 0 ↔ ∀ c ∈ m, c.1 ≠ a := by
  constructor
  · intro hr c hc he
    have aux : ∀ (l : Memory), l.wf → c ∈ l → l.read a = c.2 := by
      intro l hl hcl
      induction l with
      | nil => cases hcl
      | cons d ds ih =>
        simp only [Memory.read]
        rcases List.mem_cons.mp hcl with rfl | hcl
        · rw [if_pos he]
        · have hlt := (List.pairwise_cons.mp hl.1).1 c hcl
          rw [if_neg (by omega)]
          exact ih ⟨(List.pairwise_cons.mp hl.1).2, fun e hm => hl.2 e (List.mem_cons_of_mem _ hm)⟩ hcl
    exact h.2 c hc ((aux m h hc).symm.trans hr)
  · exact Memory.read_absent m a

end Sys2Proof.Machine
end

