-- ==== Sys2Proof/Laws/Tables.lean ====
section
/-! SUPPORT. What a `Table` reads after each of its operations. -/

namespace Sys2Proof

variable {n : Nat} {α β : Type}

@[ext] theorem Table.ext_items (t u : Table n α) (h : t.items = u.items) : t = u := by
  cases t; cases u; simp_all

theorem Table.get_set (t : Table n α) (i j : Fin n) (x : α) :
    (t.set i x).get j = if i = j then x else t.get j := by
  simp only [Table.get, Table.set, List.getElem_set, Fin.ext_iff]

@[simp] theorem Table.get_set_self (t : Table n α) (i : Fin n) (x : α) : (t.set i x).get i = x := by
  simp [Table.get_set]

@[simp] theorem Table.get_set_ne (t : Table n α) (i j : Fin n) (x : α) (h : j ≠ i) :
    (t.set i x).get j = t.get j := by
  rw [Table.get_set, if_neg (Ne.symm h)]

theorem Table.get_modify (t : Table n α) (i j : Fin n) (f : α → α) :
    (t.modify i f).get j = if i = j then f (t.get j) else t.get j := by
  unfold Table.modify
  rw [Table.get_set]
  split
  · next h => rw [h]
  · rfl

@[simp] theorem Table.get_modify_self (t : Table n α) (i : Fin n) (f : α → α) :
    (t.modify i f).get i = f (t.get i) := by
  simp [Table.modify]

@[simp] theorem Table.get_modify_ne (t : Table n α) (i j : Fin n) (f : α → α) (h : j ≠ i) :
    (t.modify i f).get j = t.get j := by
  simp [Table.modify, h]

@[simp] theorem Table.get_map (t : Table n α) (f : α → β) (i : Fin n) : (t.map f).get i = f (t.get i) := by
  simp [Table.get, Table.map]

@[simp] theorem Table.get_tabulate (f : Fin n → α) (i : Fin n) : (Table.tabulate f).get i = f i := by
  simp [Table.get, Table.tabulate]

@[simp] theorem Table.get_replicate (x : α) (i : Fin n) : (Table.replicate n x).get i = x := by
  simp [Table.get, Table.replicate]

theorem Table.mem_items (t : Table n α) (x : α) : x ∈ t.items ↔ ∃ i, t.get i = x := by
  constructor
  · intro h
    obtain ⟨k, hk, rfl⟩ := List.getElem_of_mem h
    exact ⟨⟨k, by rw [← t.size]; exact hk⟩, rfl⟩
  · rintro ⟨i, rfl⟩
    exact List.getElem_mem _

/-- Two tables that read the same everywhere are the same. -/
theorem Table.ext_get (t u : Table n α) (h : ∀ i, t.get i = u.get i) : t = u := by
  apply Table.ext_items
  apply List.ext_getElem
  · rw [t.size, u.size]
  · intro k h₁ h₂
    exact h ⟨k, by rw [← t.size]; exact h₁⟩

theorem Table.mem_indices (t : Table n α) (p : α → Bool) (i : Fin n) : i ∈ t.indices p ↔ p (t.get i) = true := by
  simp [Table.indices]

end Sys2Proof
end

