-- ==== Sys2Proof/Laws/State.lean ====
section
/-! SUPPORT. What each field of the state is after each update of one record: one lemma for each field and update. -/

namespace Sys2Proof.Machine

@[simp] theorem State.modStream_units (s : State) (i : StreamId) (f : StreamRecord → StreamRecord) : (s.modStream i f).units = s.units := rfl
@[simp] theorem State.modStream_freeLists (s : State) (i : StreamId) (f : StreamRecord → StreamRecord) : (s.modStream i f).freeLists = s.freeLists := rfl
@[simp] theorem State.modStream_streams (s : State) (i : StreamId) (f : StreamRecord → StreamRecord) :
    (s.modStream i f).streams = s.streams.modify i f := rfl
@[simp] theorem State.modStream_tenants (s : State) (i : StreamId) (f : StreamRecord → StreamRecord) : (s.modStream i f).tenants = s.tenants := rfl
@[simp] theorem State.modStream_contexts (s : State) (i : StreamId) (f : StreamRecord → StreamRecord) : (s.modStream i f).contexts = s.contexts := rfl
@[simp] theorem State.modStream_lines (s : State) (i : StreamId) (f : StreamRecord → StreamRecord) : (s.modStream i f).lines = s.lines := rfl
@[simp] theorem State.modStream_pool (s : State) (i : StreamId) (f : StreamRecord → StreamRecord) : (s.modStream i f).pool = s.pool := rfl
@[simp] theorem State.modStream_waiters (s : State) (i : StreamId) (f : StreamRecord → StreamRecord) : (s.modStream i f).waiters = s.waiters := rfl
@[simp] theorem State.modStream_credit (s : State) (i : StreamId) (f : StreamRecord → StreamRecord) : (s.modStream i f).credit = s.credit := rfl
@[simp] theorem State.modStream_groups (s : State) (i : StreamId) (f : StreamRecord → StreamRecord) : (s.modStream i f).groups = s.groups := rfl
@[simp] theorem State.modStream_reclaim (s : State) (i : StreamId) (f : StreamRecord → StreamRecord) : (s.modStream i f).reclaim = s.reclaim := rfl
@[simp] theorem State.modStream_dies (s : State) (i : StreamId) (f : StreamRecord → StreamRecord) : (s.modStream i f).dies = s.dies := rfl
@[simp] theorem State.modStream_link (s : State) (i : StreamId) (f : StreamRecord → StreamRecord) : (s.modStream i f).link = s.link := rfl
@[simp] theorem State.modStream_masters (s : State) (i : StreamId) (f : StreamRecord → StreamRecord) : (s.modStream i f).masters = s.masters := rfl
@[simp] theorem State.modStream_mport (s : State) (i : StreamId) (f : StreamRecord → StreamRecord) : (s.modStream i f).mport = s.mport := rfl
@[simp] theorem State.modStream_time (s : State) (i : StreamId) (f : StreamRecord → StreamRecord) : (s.modStream i f).time = s.time := rfl
@[simp] theorem State.modStream_limits (s : State) (i : StreamId) (f : StreamRecord → StreamRecord) : (s.modStream i f).limits = s.limits := rfl
@[simp] theorem State.modStream_mgmt (s : State) (i : StreamId) (f : StreamRecord → StreamRecord) : (s.modStream i f).mgmt = s.mgmt := rfl
@[simp] theorem State.modStream_inputs (s : State) (i : StreamId) (f : StreamRecord → StreamRecord) : (s.modStream i f).inputs = s.inputs := rfl
@[simp] theorem State.modStream_pending (s : State) (i : StreamId) (f : StreamRecord → StreamRecord) : (s.modStream i f).pending = s.pending := rfl

@[simp] theorem State.modTenant_units (s : State) (t : Tenant) (f : TenantRecord → TenantRecord) : (s.modTenant t f).units = s.units := rfl
@[simp] theorem State.modTenant_freeLists (s : State) (t : Tenant) (f : TenantRecord → TenantRecord) : (s.modTenant t f).freeLists = s.freeLists := rfl
@[simp] theorem State.modTenant_streams (s : State) (t : Tenant) (f : TenantRecord → TenantRecord) : (s.modTenant t f).streams = s.streams := rfl
@[simp] theorem State.modTenant_tenants (s : State) (t : Tenant) (f : TenantRecord → TenantRecord) :
    (s.modTenant t f).tenants = s.tenants.modify t f := rfl
@[simp] theorem State.modTenant_contexts (s : State) (t : Tenant) (f : TenantRecord → TenantRecord) : (s.modTenant t f).contexts = s.contexts := rfl
@[simp] theorem State.modTenant_lines (s : State) (t : Tenant) (f : TenantRecord → TenantRecord) : (s.modTenant t f).lines = s.lines := rfl
@[simp] theorem State.modTenant_pool (s : State) (t : Tenant) (f : TenantRecord → TenantRecord) : (s.modTenant t f).pool = s.pool := rfl
@[simp] theorem State.modTenant_waiters (s : State) (t : Tenant) (f : TenantRecord → TenantRecord) : (s.modTenant t f).waiters = s.waiters := rfl
@[simp] theorem State.modTenant_credit (s : State) (t : Tenant) (f : TenantRecord → TenantRecord) : (s.modTenant t f).credit = s.credit := rfl
@[simp] theorem State.modTenant_groups (s : State) (t : Tenant) (f : TenantRecord → TenantRecord) : (s.modTenant t f).groups = s.groups := rfl
@[simp] theorem State.modTenant_reclaim (s : State) (t : Tenant) (f : TenantRecord → TenantRecord) : (s.modTenant t f).reclaim = s.reclaim := rfl
@[simp] theorem State.modTenant_dies (s : State) (t : Tenant) (f : TenantRecord → TenantRecord) : (s.modTenant t f).dies = s.dies := rfl
@[simp] theorem State.modTenant_link (s : State) (t : Tenant) (f : TenantRecord → TenantRecord) : (s.modTenant t f).link = s.link := rfl
@[simp] theorem State.modTenant_masters (s : State) (t : Tenant) (f : TenantRecord → TenantRecord) : (s.modTenant t f).masters = s.masters := rfl
@[simp] theorem State.modTenant_mport (s : State) (t : Tenant) (f : TenantRecord → TenantRecord) : (s.modTenant t f).mport = s.mport := rfl
@[simp] theorem State.modTenant_time (s : State) (t : Tenant) (f : TenantRecord → TenantRecord) : (s.modTenant t f).time = s.time := rfl
@[simp] theorem State.modTenant_limits (s : State) (t : Tenant) (f : TenantRecord → TenantRecord) : (s.modTenant t f).limits = s.limits := rfl
@[simp] theorem State.modTenant_mgmt (s : State) (t : Tenant) (f : TenantRecord → TenantRecord) : (s.modTenant t f).mgmt = s.mgmt := rfl
@[simp] theorem State.modTenant_inputs (s : State) (t : Tenant) (f : TenantRecord → TenantRecord) : (s.modTenant t f).inputs = s.inputs := rfl
@[simp] theorem State.modTenant_pending (s : State) (t : Tenant) (f : TenantRecord → TenantRecord) : (s.modTenant t f).pending = s.pending := rfl

@[simp] theorem State.modLines_units (s : State) (i : StreamId) (f : StreamLines → StreamLines) : (s.modLines i f).units = s.units := rfl
@[simp] theorem State.modLines_freeLists (s : State) (i : StreamId) (f : StreamLines → StreamLines) : (s.modLines i f).freeLists = s.freeLists := rfl
@[simp] theorem State.modLines_streams (s : State) (i : StreamId) (f : StreamLines → StreamLines) : (s.modLines i f).streams = s.streams := rfl
@[simp] theorem State.modLines_tenants (s : State) (i : StreamId) (f : StreamLines → StreamLines) : (s.modLines i f).tenants = s.tenants := rfl
@[simp] theorem State.modLines_contexts (s : State) (i : StreamId) (f : StreamLines → StreamLines) : (s.modLines i f).contexts = s.contexts := rfl
@[simp] theorem State.modLines_lines (s : State) (i : StreamId) (f : StreamLines → StreamLines) :
    (s.modLines i f).lines = s.lines.modify i f := rfl
@[simp] theorem State.modLines_pool (s : State) (i : StreamId) (f : StreamLines → StreamLines) : (s.modLines i f).pool = s.pool := rfl
@[simp] theorem State.modLines_waiters (s : State) (i : StreamId) (f : StreamLines → StreamLines) : (s.modLines i f).waiters = s.waiters := rfl
@[simp] theorem State.modLines_credit (s : State) (i : StreamId) (f : StreamLines → StreamLines) : (s.modLines i f).credit = s.credit := rfl
@[simp] theorem State.modLines_groups (s : State) (i : StreamId) (f : StreamLines → StreamLines) : (s.modLines i f).groups = s.groups := rfl
@[simp] theorem State.modLines_reclaim (s : State) (i : StreamId) (f : StreamLines → StreamLines) : (s.modLines i f).reclaim = s.reclaim := rfl
@[simp] theorem State.modLines_dies (s : State) (i : StreamId) (f : StreamLines → StreamLines) : (s.modLines i f).dies = s.dies := rfl
@[simp] theorem State.modLines_link (s : State) (i : StreamId) (f : StreamLines → StreamLines) : (s.modLines i f).link = s.link := rfl
@[simp] theorem State.modLines_masters (s : State) (i : StreamId) (f : StreamLines → StreamLines) : (s.modLines i f).masters = s.masters := rfl
@[simp] theorem State.modLines_mport (s : State) (i : StreamId) (f : StreamLines → StreamLines) : (s.modLines i f).mport = s.mport := rfl
@[simp] theorem State.modLines_time (s : State) (i : StreamId) (f : StreamLines → StreamLines) : (s.modLines i f).time = s.time := rfl
@[simp] theorem State.modLines_limits (s : State) (i : StreamId) (f : StreamLines → StreamLines) : (s.modLines i f).limits = s.limits := rfl
@[simp] theorem State.modLines_mgmt (s : State) (i : StreamId) (f : StreamLines → StreamLines) : (s.modLines i f).mgmt = s.mgmt := rfl
@[simp] theorem State.modLines_inputs (s : State) (i : StreamId) (f : StreamLines → StreamLines) : (s.modLines i f).inputs = s.inputs := rfl
@[simp] theorem State.modLines_pending (s : State) (i : StreamId) (f : StreamLines → StreamLines) : (s.modLines i f).pending = s.pending := rfl

@[simp] theorem State.modDie_units (s : State) (d : DieId) (f : DieRecord → DieRecord) : (s.modDie d f).units = s.units := rfl
@[simp] theorem State.modDie_freeLists (s : State) (d : DieId) (f : DieRecord → DieRecord) : (s.modDie d f).freeLists = s.freeLists := rfl
@[simp] theorem State.modDie_streams (s : State) (d : DieId) (f : DieRecord → DieRecord) : (s.modDie d f).streams = s.streams := rfl
@[simp] theorem State.modDie_tenants (s : State) (d : DieId) (f : DieRecord → DieRecord) : (s.modDie d f).tenants = s.tenants := rfl
@[simp] theorem State.modDie_contexts (s : State) (d : DieId) (f : DieRecord → DieRecord) : (s.modDie d f).contexts = s.contexts := rfl
@[simp] theorem State.modDie_lines (s : State) (d : DieId) (f : DieRecord → DieRecord) : (s.modDie d f).lines = s.lines := rfl
@[simp] theorem State.modDie_pool (s : State) (d : DieId) (f : DieRecord → DieRecord) : (s.modDie d f).pool = s.pool := rfl
@[simp] theorem State.modDie_waiters (s : State) (d : DieId) (f : DieRecord → DieRecord) : (s.modDie d f).waiters = s.waiters := rfl
@[simp] theorem State.modDie_credit (s : State) (d : DieId) (f : DieRecord → DieRecord) : (s.modDie d f).credit = s.credit := rfl
@[simp] theorem State.modDie_groups (s : State) (d : DieId) (f : DieRecord → DieRecord) : (s.modDie d f).groups = s.groups := rfl
@[simp] theorem State.modDie_reclaim (s : State) (d : DieId) (f : DieRecord → DieRecord) : (s.modDie d f).reclaim = s.reclaim := rfl
@[simp] theorem State.modDie_dies (s : State) (d : DieId) (f : DieRecord → DieRecord) :
    (s.modDie d f).dies = s.dies.modify d f := rfl
@[simp] theorem State.modDie_link (s : State) (d : DieId) (f : DieRecord → DieRecord) : (s.modDie d f).link = s.link := rfl
@[simp] theorem State.modDie_masters (s : State) (d : DieId) (f : DieRecord → DieRecord) : (s.modDie d f).masters = s.masters := rfl
@[simp] theorem State.modDie_mport (s : State) (d : DieId) (f : DieRecord → DieRecord) : (s.modDie d f).mport = s.mport := rfl
@[simp] theorem State.modDie_time (s : State) (d : DieId) (f : DieRecord → DieRecord) : (s.modDie d f).time = s.time := rfl
@[simp] theorem State.modDie_limits (s : State) (d : DieId) (f : DieRecord → DieRecord) : (s.modDie d f).limits = s.limits := rfl
@[simp] theorem State.modDie_mgmt (s : State) (d : DieId) (f : DieRecord → DieRecord) : (s.modDie d f).mgmt = s.mgmt := rfl
@[simp] theorem State.modDie_inputs (s : State) (d : DieId) (f : DieRecord → DieRecord) : (s.modDie d f).inputs = s.inputs := rfl
@[simp] theorem State.modDie_pending (s : State) (d : DieId) (f : DieRecord → DieRecord) : (s.modDie d f).pending = s.pending := rfl

@[simp] theorem State.modReclaim_units (s : State) (g : GroupId) (f : ReclaimRecord → ReclaimRecord) : (s.modReclaim g f).units = s.units := rfl
@[simp] theorem State.modReclaim_freeLists (s : State) (g : GroupId) (f : ReclaimRecord → ReclaimRecord) : (s.modReclaim g f).freeLists = s.freeLists := rfl
@[simp] theorem State.modReclaim_streams (s : State) (g : GroupId) (f : ReclaimRecord → ReclaimRecord) : (s.modReclaim g f).streams = s.streams := rfl
@[simp] theorem State.modReclaim_tenants (s : State) (g : GroupId) (f : ReclaimRecord → ReclaimRecord) : (s.modReclaim g f).tenants = s.tenants := rfl
@[simp] theorem State.modReclaim_contexts (s : State) (g : GroupId) (f : ReclaimRecord → ReclaimRecord) : (s.modReclaim g f).contexts = s.contexts := rfl
@[simp] theorem State.modReclaim_lines (s : State) (g : GroupId) (f : ReclaimRecord → ReclaimRecord) : (s.modReclaim g f).lines = s.lines := rfl
@[simp] theorem State.modReclaim_pool (s : State) (g : GroupId) (f : ReclaimRecord → ReclaimRecord) : (s.modReclaim g f).pool = s.pool := rfl
@[simp] theorem State.modReclaim_waiters (s : State) (g : GroupId) (f : ReclaimRecord → ReclaimRecord) : (s.modReclaim g f).waiters = s.waiters := rfl
@[simp] theorem State.modReclaim_credit (s : State) (g : GroupId) (f : ReclaimRecord → ReclaimRecord) : (s.modReclaim g f).credit = s.credit := rfl
@[simp] theorem State.modReclaim_groups (s : State) (g : GroupId) (f : ReclaimRecord → ReclaimRecord) :
    (s.modReclaim g f).groups = s.groups.modify g (Option.map (fun r => { r with reclaim := f r.reclaim })) := rfl
@[simp] theorem State.modReclaim_reclaim (s : State) (g : GroupId) (f : ReclaimRecord → ReclaimRecord) : (s.modReclaim g f).reclaim = s.reclaim := rfl
@[simp] theorem State.modReclaim_dies (s : State) (g : GroupId) (f : ReclaimRecord → ReclaimRecord) : (s.modReclaim g f).dies = s.dies := rfl
@[simp] theorem State.modReclaim_link (s : State) (g : GroupId) (f : ReclaimRecord → ReclaimRecord) : (s.modReclaim g f).link = s.link := rfl
@[simp] theorem State.modReclaim_masters (s : State) (g : GroupId) (f : ReclaimRecord → ReclaimRecord) : (s.modReclaim g f).masters = s.masters := rfl
@[simp] theorem State.modReclaim_mport (s : State) (g : GroupId) (f : ReclaimRecord → ReclaimRecord) : (s.modReclaim g f).mport = s.mport := rfl
@[simp] theorem State.modReclaim_time (s : State) (g : GroupId) (f : ReclaimRecord → ReclaimRecord) : (s.modReclaim g f).time = s.time := rfl
@[simp] theorem State.modReclaim_limits (s : State) (g : GroupId) (f : ReclaimRecord → ReclaimRecord) : (s.modReclaim g f).limits = s.limits := rfl
@[simp] theorem State.modReclaim_mgmt (s : State) (g : GroupId) (f : ReclaimRecord → ReclaimRecord) : (s.modReclaim g f).mgmt = s.mgmt := rfl
@[simp] theorem State.modReclaim_inputs (s : State) (g : GroupId) (f : ReclaimRecord → ReclaimRecord) : (s.modReclaim g f).inputs = s.inputs := rfl
@[simp] theorem State.modReclaim_pending (s : State) (g : GroupId) (f : ReclaimRecord → ReclaimRecord) : (s.modReclaim g f).pending = s.pending := rfl

@[simp] theorem State.modMaster_units (s : State) (p : MasterId) (f : MasterPort → MasterPort) : (s.modMaster p f).units = s.units := rfl
@[simp] theorem State.modMaster_freeLists (s : State) (p : MasterId) (f : MasterPort → MasterPort) : (s.modMaster p f).freeLists = s.freeLists := rfl
@[simp] theorem State.modMaster_streams (s : State) (p : MasterId) (f : MasterPort → MasterPort) : (s.modMaster p f).streams = s.streams := rfl
@[simp] theorem State.modMaster_tenants (s : State) (p : MasterId) (f : MasterPort → MasterPort) : (s.modMaster p f).tenants = s.tenants := rfl
@[simp] theorem State.modMaster_contexts (s : State) (p : MasterId) (f : MasterPort → MasterPort) : (s.modMaster p f).contexts = s.contexts := rfl
@[simp] theorem State.modMaster_lines (s : State) (p : MasterId) (f : MasterPort → MasterPort) : (s.modMaster p f).lines = s.lines := rfl
@[simp] theorem State.modMaster_pool (s : State) (p : MasterId) (f : MasterPort → MasterPort) : (s.modMaster p f).pool = s.pool := rfl
@[simp] theorem State.modMaster_waiters (s : State) (p : MasterId) (f : MasterPort → MasterPort) : (s.modMaster p f).waiters = s.waiters := rfl
@[simp] theorem State.modMaster_credit (s : State) (p : MasterId) (f : MasterPort → MasterPort) : (s.modMaster p f).credit = s.credit := rfl
@[simp] theorem State.modMaster_groups (s : State) (p : MasterId) (f : MasterPort → MasterPort) : (s.modMaster p f).groups = s.groups := rfl
@[simp] theorem State.modMaster_reclaim (s : State) (p : MasterId) (f : MasterPort → MasterPort) : (s.modMaster p f).reclaim = s.reclaim := rfl
@[simp] theorem State.modMaster_dies (s : State) (p : MasterId) (f : MasterPort → MasterPort) : (s.modMaster p f).dies = s.dies := rfl
@[simp] theorem State.modMaster_link (s : State) (p : MasterId) (f : MasterPort → MasterPort) : (s.modMaster p f).link = s.link := rfl
@[simp] theorem State.modMaster_masters (s : State) (p : MasterId) (f : MasterPort → MasterPort) :
    (s.modMaster p f).masters = s.masters.modify p f := rfl
@[simp] theorem State.modMaster_mport (s : State) (p : MasterId) (f : MasterPort → MasterPort) : (s.modMaster p f).mport = s.mport := rfl
@[simp] theorem State.modMaster_time (s : State) (p : MasterId) (f : MasterPort → MasterPort) : (s.modMaster p f).time = s.time := rfl
@[simp] theorem State.modMaster_limits (s : State) (p : MasterId) (f : MasterPort → MasterPort) : (s.modMaster p f).limits = s.limits := rfl
@[simp] theorem State.modMaster_mgmt (s : State) (p : MasterId) (f : MasterPort → MasterPort) : (s.modMaster p f).mgmt = s.mgmt := rfl
@[simp] theorem State.modMaster_inputs (s : State) (p : MasterId) (f : MasterPort → MasterPort) : (s.modMaster p f).inputs = s.inputs := rfl
@[simp] theorem State.modMaster_pending (s : State) (p : MasterId) (f : MasterPort → MasterPort) : (s.modMaster p f).pending = s.pending := rfl

@[simp] theorem State.modUnit_units (s : State) (u : Nat) (f : UnitRecord → UnitRecord) :
    (s.modUnit u f).units = s.units.modify u f := rfl
@[simp] theorem State.modUnit_freeLists (s : State) (u : Nat) (f : UnitRecord → UnitRecord) : (s.modUnit u f).freeLists = s.freeLists := rfl
@[simp] theorem State.modUnit_streams (s : State) (u : Nat) (f : UnitRecord → UnitRecord) : (s.modUnit u f).streams = s.streams := rfl
@[simp] theorem State.modUnit_tenants (s : State) (u : Nat) (f : UnitRecord → UnitRecord) : (s.modUnit u f).tenants = s.tenants := rfl
@[simp] theorem State.modUnit_contexts (s : State) (u : Nat) (f : UnitRecord → UnitRecord) : (s.modUnit u f).contexts = s.contexts := rfl
@[simp] theorem State.modUnit_lines (s : State) (u : Nat) (f : UnitRecord → UnitRecord) : (s.modUnit u f).lines = s.lines := rfl
@[simp] theorem State.modUnit_pool (s : State) (u : Nat) (f : UnitRecord → UnitRecord) : (s.modUnit u f).pool = s.pool := rfl
@[simp] theorem State.modUnit_waiters (s : State) (u : Nat) (f : UnitRecord → UnitRecord) : (s.modUnit u f).waiters = s.waiters := rfl
@[simp] theorem State.modUnit_credit (s : State) (u : Nat) (f : UnitRecord → UnitRecord) : (s.modUnit u f).credit = s.credit := rfl
@[simp] theorem State.modUnit_groups (s : State) (u : Nat) (f : UnitRecord → UnitRecord) : (s.modUnit u f).groups = s.groups := rfl
@[simp] theorem State.modUnit_reclaim (s : State) (u : Nat) (f : UnitRecord → UnitRecord) : (s.modUnit u f).reclaim = s.reclaim := rfl
@[simp] theorem State.modUnit_dies (s : State) (u : Nat) (f : UnitRecord → UnitRecord) : (s.modUnit u f).dies = s.dies := rfl
@[simp] theorem State.modUnit_link (s : State) (u : Nat) (f : UnitRecord → UnitRecord) : (s.modUnit u f).link = s.link := rfl
@[simp] theorem State.modUnit_masters (s : State) (u : Nat) (f : UnitRecord → UnitRecord) : (s.modUnit u f).masters = s.masters := rfl
@[simp] theorem State.modUnit_mport (s : State) (u : Nat) (f : UnitRecord → UnitRecord) : (s.modUnit u f).mport = s.mport := rfl
@[simp] theorem State.modUnit_time (s : State) (u : Nat) (f : UnitRecord → UnitRecord) : (s.modUnit u f).time = s.time := rfl
@[simp] theorem State.modUnit_limits (s : State) (u : Nat) (f : UnitRecord → UnitRecord) : (s.modUnit u f).limits = s.limits := rfl
@[simp] theorem State.modUnit_mgmt (s : State) (u : Nat) (f : UnitRecord → UnitRecord) : (s.modUnit u f).mgmt = s.mgmt := rfl
@[simp] theorem State.modUnit_inputs (s : State) (u : Nat) (f : UnitRecord → UnitRecord) : (s.modUnit u f).inputs = s.inputs := rfl
@[simp] theorem State.modUnit_pending (s : State) (u : Nat) (f : UnitRecord → UnitRecord) : (s.modUnit u f).pending = s.pending := rfl

@[simp] theorem State.modMgmt_units (s : State) (f : Management → Management) : (s.modMgmt f).units = s.units := rfl
@[simp] theorem State.modMgmt_freeLists (s : State) (f : Management → Management) : (s.modMgmt f).freeLists = s.freeLists := rfl
@[simp] theorem State.modMgmt_streams (s : State) (f : Management → Management) : (s.modMgmt f).streams = s.streams := rfl
@[simp] theorem State.modMgmt_tenants (s : State) (f : Management → Management) : (s.modMgmt f).tenants = s.tenants := rfl
@[simp] theorem State.modMgmt_contexts (s : State) (f : Management → Management) : (s.modMgmt f).contexts = s.contexts := rfl
@[simp] theorem State.modMgmt_lines (s : State) (f : Management → Management) : (s.modMgmt f).lines = s.lines := rfl
@[simp] theorem State.modMgmt_pool (s : State) (f : Management → Management) : (s.modMgmt f).pool = s.pool := rfl
@[simp] theorem State.modMgmt_waiters (s : State) (f : Management → Management) : (s.modMgmt f).waiters = s.waiters := rfl
@[simp] theorem State.modMgmt_credit (s : State) (f : Management → Management) : (s.modMgmt f).credit = s.credit := rfl
@[simp] theorem State.modMgmt_groups (s : State) (f : Management → Management) : (s.modMgmt f).groups = s.groups := rfl
@[simp] theorem State.modMgmt_reclaim (s : State) (f : Management → Management) : (s.modMgmt f).reclaim = s.reclaim := rfl
@[simp] theorem State.modMgmt_dies (s : State) (f : Management → Management) : (s.modMgmt f).dies = s.dies := rfl
@[simp] theorem State.modMgmt_link (s : State) (f : Management → Management) : (s.modMgmt f).link = s.link := rfl
@[simp] theorem State.modMgmt_masters (s : State) (f : Management → Management) : (s.modMgmt f).masters = s.masters := rfl
@[simp] theorem State.modMgmt_mport (s : State) (f : Management → Management) : (s.modMgmt f).mport = s.mport := rfl
@[simp] theorem State.modMgmt_time (s : State) (f : Management → Management) : (s.modMgmt f).time = s.time := rfl
@[simp] theorem State.modMgmt_limits (s : State) (f : Management → Management) : (s.modMgmt f).limits = s.limits := rfl
@[simp] theorem State.modMgmt_mgmt (s : State) (f : Management → Management) :
    (s.modMgmt f).mgmt = f s.mgmt := rfl
@[simp] theorem State.modMgmt_inputs (s : State) (f : Management → Management) : (s.modMgmt f).inputs = s.inputs := rfl
@[simp] theorem State.modMgmt_pending (s : State) (f : Management → Management) : (s.modMgmt f).pending = s.pending := rfl

@[simp] theorem State.modContext_units (s : State) (c : ContextId) (f : WriteContext → WriteContext) : (s.modContext c f).units = s.units := rfl
@[simp] theorem State.modContext_freeLists (s : State) (c : ContextId) (f : WriteContext → WriteContext) : (s.modContext c f).freeLists = s.freeLists := rfl
@[simp] theorem State.modContext_streams (s : State) (c : ContextId) (f : WriteContext → WriteContext) : (s.modContext c f).streams = s.streams := rfl
@[simp] theorem State.modContext_tenants (s : State) (c : ContextId) (f : WriteContext → WriteContext) : (s.modContext c f).tenants = s.tenants := rfl
@[simp] theorem State.modContext_contexts (s : State) (c : ContextId) (f : WriteContext → WriteContext) :
    (s.modContext c f).contexts = s.contexts.map (fun x => if x.id = c then f x else x) := rfl
@[simp] theorem State.modContext_lines (s : State) (c : ContextId) (f : WriteContext → WriteContext) : (s.modContext c f).lines = s.lines := rfl
@[simp] theorem State.modContext_pool (s : State) (c : ContextId) (f : WriteContext → WriteContext) : (s.modContext c f).pool = s.pool := rfl
@[simp] theorem State.modContext_waiters (s : State) (c : ContextId) (f : WriteContext → WriteContext) : (s.modContext c f).waiters = s.waiters := rfl
@[simp] theorem State.modContext_credit (s : State) (c : ContextId) (f : WriteContext → WriteContext) : (s.modContext c f).credit = s.credit := rfl
@[simp] theorem State.modContext_groups (s : State) (c : ContextId) (f : WriteContext → WriteContext) : (s.modContext c f).groups = s.groups := rfl
@[simp] theorem State.modContext_reclaim (s : State) (c : ContextId) (f : WriteContext → WriteContext) : (s.modContext c f).reclaim = s.reclaim := rfl
@[simp] theorem State.modContext_dies (s : State) (c : ContextId) (f : WriteContext → WriteContext) : (s.modContext c f).dies = s.dies := rfl
@[simp] theorem State.modContext_link (s : State) (c : ContextId) (f : WriteContext → WriteContext) : (s.modContext c f).link = s.link := rfl
@[simp] theorem State.modContext_masters (s : State) (c : ContextId) (f : WriteContext → WriteContext) : (s.modContext c f).masters = s.masters := rfl
@[simp] theorem State.modContext_mport (s : State) (c : ContextId) (f : WriteContext → WriteContext) : (s.modContext c f).mport = s.mport := rfl
@[simp] theorem State.modContext_time (s : State) (c : ContextId) (f : WriteContext → WriteContext) : (s.modContext c f).time = s.time := rfl
@[simp] theorem State.modContext_limits (s : State) (c : ContextId) (f : WriteContext → WriteContext) : (s.modContext c f).limits = s.limits := rfl
@[simp] theorem State.modContext_mgmt (s : State) (c : ContextId) (f : WriteContext → WriteContext) : (s.modContext c f).mgmt = s.mgmt := rfl
@[simp] theorem State.modContext_inputs (s : State) (c : ContextId) (f : WriteContext → WriteContext) : (s.modContext c f).inputs = s.inputs := rfl
@[simp] theorem State.modContext_pending (s : State) (c : ContextId) (f : WriteContext → WriteContext) : (s.modContext c f).pending = s.pending := rfl

@[simp] theorem State.modWaitList_units (s : State) (f : List WaitEntry → List WaitEntry) : (s.modWaitList f).units = s.units := rfl
@[simp] theorem State.modWaitList_freeLists (s : State) (f : List WaitEntry → List WaitEntry) : (s.modWaitList f).freeLists = s.freeLists := rfl
@[simp] theorem State.modWaitList_streams (s : State) (f : List WaitEntry → List WaitEntry) : (s.modWaitList f).streams = s.streams := rfl
@[simp] theorem State.modWaitList_tenants (s : State) (f : List WaitEntry → List WaitEntry) : (s.modWaitList f).tenants = s.tenants := rfl
@[simp] theorem State.modWaitList_contexts (s : State) (f : List WaitEntry → List WaitEntry) : (s.modWaitList f).contexts = s.contexts := rfl
@[simp] theorem State.modWaitList_lines (s : State) (f : List WaitEntry → List WaitEntry) : (s.modWaitList f).lines = s.lines := rfl
@[simp] theorem State.modWaitList_pool (s : State) (f : List WaitEntry → List WaitEntry) : (s.modWaitList f).pool = s.pool := rfl
@[simp] theorem State.modWaitList_waiters (s : State) (f : List WaitEntry → List WaitEntry) : (s.modWaitList f).waiters = s.waiters := rfl
@[simp] theorem State.modWaitList_groups (s : State) (f : List WaitEntry → List WaitEntry) : (s.modWaitList f).groups = s.groups := rfl
@[simp] theorem State.modWaitList_reclaim (s : State) (f : List WaitEntry → List WaitEntry) : (s.modWaitList f).reclaim = s.reclaim := rfl
@[simp] theorem State.modWaitList_dies (s : State) (f : List WaitEntry → List WaitEntry) : (s.modWaitList f).dies = s.dies := rfl
@[simp] theorem State.modWaitList_link (s : State) (f : List WaitEntry → List WaitEntry) : (s.modWaitList f).link = s.link := rfl
@[simp] theorem State.modWaitList_masters (s : State) (f : List WaitEntry → List WaitEntry) : (s.modWaitList f).masters = s.masters := rfl
@[simp] theorem State.modWaitList_mport (s : State) (f : List WaitEntry → List WaitEntry) : (s.modWaitList f).mport = s.mport := rfl
@[simp] theorem State.modWaitList_time (s : State) (f : List WaitEntry → List WaitEntry) : (s.modWaitList f).time = s.time := rfl
@[simp] theorem State.modWaitList_limits (s : State) (f : List WaitEntry → List WaitEntry) : (s.modWaitList f).limits = s.limits := rfl
@[simp] theorem State.modWaitList_mgmt (s : State) (f : List WaitEntry → List WaitEntry) : (s.modWaitList f).mgmt = s.mgmt := rfl
@[simp] theorem State.modWaitList_inputs (s : State) (f : List WaitEntry → List WaitEntry) : (s.modWaitList f).inputs = s.inputs := rfl
@[simp] theorem State.modWaitList_pending (s : State) (f : List WaitEntry → List WaitEntry) : (s.modWaitList f).pending = s.pending := rfl

@[simp] theorem State.modBalance_units (s : State) (t : Tenant) (f : Int → Int) : (s.modBalance t f).units = s.units := rfl
@[simp] theorem State.modBalance_freeLists (s : State) (t : Tenant) (f : Int → Int) : (s.modBalance t f).freeLists = s.freeLists := rfl
@[simp] theorem State.modBalance_streams (s : State) (t : Tenant) (f : Int → Int) : (s.modBalance t f).streams = s.streams := rfl
@[simp] theorem State.modBalance_tenants (s : State) (t : Tenant) (f : Int → Int) : (s.modBalance t f).tenants = s.tenants := rfl
@[simp] theorem State.modBalance_contexts (s : State) (t : Tenant) (f : Int → Int) : (s.modBalance t f).contexts = s.contexts := rfl
@[simp] theorem State.modBalance_lines (s : State) (t : Tenant) (f : Int → Int) : (s.modBalance t f).lines = s.lines := rfl
@[simp] theorem State.modBalance_pool (s : State) (t : Tenant) (f : Int → Int) : (s.modBalance t f).pool = s.pool := rfl
@[simp] theorem State.modBalance_waiters (s : State) (t : Tenant) (f : Int → Int) : (s.modBalance t f).waiters = s.waiters := rfl
@[simp] theorem State.modBalance_groups (s : State) (t : Tenant) (f : Int → Int) : (s.modBalance t f).groups = s.groups := rfl
@[simp] theorem State.modBalance_reclaim (s : State) (t : Tenant) (f : Int → Int) : (s.modBalance t f).reclaim = s.reclaim := rfl
@[simp] theorem State.modBalance_dies (s : State) (t : Tenant) (f : Int → Int) : (s.modBalance t f).dies = s.dies := rfl
@[simp] theorem State.modBalance_link (s : State) (t : Tenant) (f : Int → Int) : (s.modBalance t f).link = s.link := rfl
@[simp] theorem State.modBalance_masters (s : State) (t : Tenant) (f : Int → Int) : (s.modBalance t f).masters = s.masters := rfl
@[simp] theorem State.modBalance_mport (s : State) (t : Tenant) (f : Int → Int) : (s.modBalance t f).mport = s.mport := rfl
@[simp] theorem State.modBalance_time (s : State) (t : Tenant) (f : Int → Int) : (s.modBalance t f).time = s.time := rfl
@[simp] theorem State.modBalance_limits (s : State) (t : Tenant) (f : Int → Int) : (s.modBalance t f).limits = s.limits := rfl
@[simp] theorem State.modBalance_mgmt (s : State) (t : Tenant) (f : Int → Int) : (s.modBalance t f).mgmt = s.mgmt := rfl
@[simp] theorem State.modBalance_inputs (s : State) (t : Tenant) (f : Int → Int) : (s.modBalance t f).inputs = s.inputs := rfl
@[simp] theorem State.modBalance_pending (s : State) (t : Tenant) (f : Int → Int) : (s.modBalance t f).pending = s.pending := rfl

@[simp] theorem State.modNotices_units (s : State) (p : MasterId) (f : List NoticeRef → List NoticeRef) : (s.modNotices p f).units = s.units := rfl
@[simp] theorem State.modNotices_freeLists (s : State) (p : MasterId) (f : List NoticeRef → List NoticeRef) : (s.modNotices p f).freeLists = s.freeLists := rfl
@[simp] theorem State.modNotices_streams (s : State) (p : MasterId) (f : List NoticeRef → List NoticeRef) : (s.modNotices p f).streams = s.streams := rfl
@[simp] theorem State.modNotices_tenants (s : State) (p : MasterId) (f : List NoticeRef → List NoticeRef) : (s.modNotices p f).tenants = s.tenants := rfl
@[simp] theorem State.modNotices_contexts (s : State) (p : MasterId) (f : List NoticeRef → List NoticeRef) : (s.modNotices p f).contexts = s.contexts := rfl
@[simp] theorem State.modNotices_lines (s : State) (p : MasterId) (f : List NoticeRef → List NoticeRef) : (s.modNotices p f).lines = s.lines := rfl
@[simp] theorem State.modNotices_pool (s : State) (p : MasterId) (f : List NoticeRef → List NoticeRef) : (s.modNotices p f).pool = s.pool := rfl
@[simp] theorem State.modNotices_waiters (s : State) (p : MasterId) (f : List NoticeRef → List NoticeRef) : (s.modNotices p f).waiters = s.waiters := rfl
@[simp] theorem State.modNotices_credit (s : State) (p : MasterId) (f : List NoticeRef → List NoticeRef) : (s.modNotices p f).credit = s.credit := rfl
@[simp] theorem State.modNotices_groups (s : State) (p : MasterId) (f : List NoticeRef → List NoticeRef) : (s.modNotices p f).groups = s.groups := rfl
@[simp] theorem State.modNotices_dies (s : State) (p : MasterId) (f : List NoticeRef → List NoticeRef) : (s.modNotices p f).dies = s.dies := rfl
@[simp] theorem State.modNotices_link (s : State) (p : MasterId) (f : List NoticeRef → List NoticeRef) : (s.modNotices p f).link = s.link := rfl
@[simp] theorem State.modNotices_masters (s : State) (p : MasterId) (f : List NoticeRef → List NoticeRef) : (s.modNotices p f).masters = s.masters := rfl
@[simp] theorem State.modNotices_mport (s : State) (p : MasterId) (f : List NoticeRef → List NoticeRef) : (s.modNotices p f).mport = s.mport := rfl
@[simp] theorem State.modNotices_time (s : State) (p : MasterId) (f : List NoticeRef → List NoticeRef) : (s.modNotices p f).time = s.time := rfl
@[simp] theorem State.modNotices_limits (s : State) (p : MasterId) (f : List NoticeRef → List NoticeRef) : (s.modNotices p f).limits = s.limits := rfl
@[simp] theorem State.modNotices_mgmt (s : State) (p : MasterId) (f : List NoticeRef → List NoticeRef) : (s.modNotices p f).mgmt = s.mgmt := rfl
@[simp] theorem State.modNotices_inputs (s : State) (p : MasterId) (f : List NoticeRef → List NoticeRef) : (s.modNotices p f).inputs = s.inputs := rfl
@[simp] theorem State.modNotices_pending (s : State) (p : MasterId) (f : List NoticeRef → List NoticeRef) : (s.modNotices p f).pending = s.pending := rfl

@[simp] theorem State.setOrder_units (s : State) (r : NoticeRef) (o : Option Order) : (s.setOrder r o).units = s.units := rfl
@[simp] theorem State.setOrder_freeLists (s : State) (r : NoticeRef) (o : Option Order) : (s.setOrder r o).freeLists = s.freeLists := rfl
@[simp] theorem State.setOrder_streams (s : State) (r : NoticeRef) (o : Option Order) : (s.setOrder r o).streams = s.streams := rfl
@[simp] theorem State.setOrder_tenants (s : State) (r : NoticeRef) (o : Option Order) : (s.setOrder r o).tenants = s.tenants := rfl
@[simp] theorem State.setOrder_contexts (s : State) (r : NoticeRef) (o : Option Order) : (s.setOrder r o).contexts = s.contexts := rfl
@[simp] theorem State.setOrder_lines (s : State) (r : NoticeRef) (o : Option Order) : (s.setOrder r o).lines = s.lines := rfl
@[simp] theorem State.setOrder_pool (s : State) (r : NoticeRef) (o : Option Order) : (s.setOrder r o).pool = s.pool := rfl
@[simp] theorem State.setOrder_waiters (s : State) (r : NoticeRef) (o : Option Order) : (s.setOrder r o).waiters = s.waiters := rfl
@[simp] theorem State.setOrder_credit (s : State) (r : NoticeRef) (o : Option Order) : (s.setOrder r o).credit = s.credit := rfl
@[simp] theorem State.setOrder_reclaim (s : State) (r : NoticeRef) (o : Option Order) : (s.setOrder r o).reclaim = s.reclaim := rfl
@[simp] theorem State.setOrder_dies (s : State) (r : NoticeRef) (o : Option Order) : (s.setOrder r o).dies = s.dies := rfl
@[simp] theorem State.setOrder_link (s : State) (r : NoticeRef) (o : Option Order) : (s.setOrder r o).link = s.link := rfl
@[simp] theorem State.setOrder_masters (s : State) (r : NoticeRef) (o : Option Order) : (s.setOrder r o).masters = s.masters := rfl
@[simp] theorem State.setOrder_mport (s : State) (r : NoticeRef) (o : Option Order) : (s.setOrder r o).mport = s.mport := rfl
@[simp] theorem State.setOrder_time (s : State) (r : NoticeRef) (o : Option Order) : (s.setOrder r o).time = s.time := rfl
@[simp] theorem State.setOrder_limits (s : State) (r : NoticeRef) (o : Option Order) : (s.setOrder r o).limits = s.limits := rfl
@[simp] theorem State.setOrder_mgmt (s : State) (r : NoticeRef) (o : Option Order) : (s.setOrder r o).mgmt = s.mgmt := rfl
@[simp] theorem State.setOrder_inputs (s : State) (r : NoticeRef) (o : Option Order) : (s.setOrder r o).inputs = s.inputs := rfl
@[simp] theorem State.setOrder_pending (s : State) (r : NoticeRef) (o : Option Order) : (s.setOrder r o).pending = s.pending := rfl

@[simp] theorem State.modWaitList_balances (s : State) (f : List WaitEntry → List WaitEntry) :
    (s.modWaitList f).credit.balances = s.credit.balances := rfl
@[simp] theorem State.modWaitList_shares (s : State) (f : List WaitEntry → List WaitEntry) :
    (s.modWaitList f).credit.shares = s.credit.shares := rfl
@[simp] theorem State.modWaitList_waitList (s : State) (f : List WaitEntry → List WaitEntry) :
    (s.modWaitList f).credit.waitList = f s.credit.waitList := rfl
@[simp] theorem State.modBalance_balances (s : State) (t : Tenant) (f : Int → Int) :
    (s.modBalance t f).credit.balances = s.credit.balances.modify t f := rfl
@[simp] theorem State.modBalance_waitList (s : State) (t : Tenant) (f : Int → Int) :
    (s.modBalance t f).credit.waitList = s.credit.waitList := rfl
@[simp] theorem State.modBalance_shares (s : State) (t : Tenant) (f : Int → Int) :
    (s.modBalance t f).credit.shares = s.credit.shares := rfl
@[simp] theorem State.modNotices_notices (s : State) (p : MasterId) (f : List NoticeRef → List NoticeRef) :
    (s.modNotices p f).reclaim.notices = s.reclaim.notices.modify p f := rfl
@[simp] theorem State.modNotices_expiry (s : State) (p : MasterId) (f : List NoticeRef → List NoticeRef) :
    (s.modNotices p f).reclaim.expiry = s.reclaim.expiry := rfl

@[simp] theorem State.modRing_units (s : State) (p : PortId) (f : Ring → Ring) : (s.modRing p f).units = s.units := by
  cases p <;> rfl
@[simp] theorem State.modRing_freeLists (s : State) (p : PortId) (f : Ring → Ring) : (s.modRing p f).freeLists = s.freeLists := by
  cases p <;> rfl
@[simp] theorem State.modRing_streams (s : State) (p : PortId) (f : Ring → Ring) : (s.modRing p f).streams = s.streams := by
  cases p <;> rfl
@[simp] theorem State.modRing_tenants (s : State) (p : PortId) (f : Ring → Ring) : (s.modRing p f).tenants = s.tenants := by
  cases p <;> rfl
@[simp] theorem State.modRing_contexts (s : State) (p : PortId) (f : Ring → Ring) : (s.modRing p f).contexts = s.contexts := by
  cases p <;> rfl
@[simp] theorem State.modRing_lines (s : State) (p : PortId) (f : Ring → Ring) : (s.modRing p f).lines = s.lines := by
  cases p <;> rfl
@[simp] theorem State.modRing_pool (s : State) (p : PortId) (f : Ring → Ring) : (s.modRing p f).pool = s.pool := by
  cases p <;> rfl
@[simp] theorem State.modRing_waiters (s : State) (p : PortId) (f : Ring → Ring) : (s.modRing p f).waiters = s.waiters := by
  cases p <;> rfl
@[simp] theorem State.modRing_credit (s : State) (p : PortId) (f : Ring → Ring) : (s.modRing p f).credit = s.credit := by
  cases p <;> rfl
@[simp] theorem State.modRing_groups (s : State) (p : PortId) (f : Ring → Ring) : (s.modRing p f).groups = s.groups := by
  cases p <;> rfl
@[simp] theorem State.modRing_reclaim (s : State) (p : PortId) (f : Ring → Ring) : (s.modRing p f).reclaim = s.reclaim := by
  cases p <;> rfl
@[simp] theorem State.modRing_dies (s : State) (p : PortId) (f : Ring → Ring) : (s.modRing p f).dies = s.dies := by
  cases p <;> rfl
@[simp] theorem State.modRing_link (s : State) (p : PortId) (f : Ring → Ring) : (s.modRing p f).link = s.link := by
  cases p <;> rfl
@[simp] theorem State.modRing_time (s : State) (p : PortId) (f : Ring → Ring) : (s.modRing p f).time = s.time := by
  cases p <;> rfl
@[simp] theorem State.modRing_limits (s : State) (p : PortId) (f : Ring → Ring) : (s.modRing p f).limits = s.limits := by
  cases p <;> rfl
@[simp] theorem State.modRing_mgmt (s : State) (p : PortId) (f : Ring → Ring) : (s.modRing p f).mgmt = s.mgmt := by
  cases p <;> rfl
@[simp] theorem State.modRing_inputs (s : State) (p : PortId) (f : Ring → Ring) : (s.modRing p f).inputs = s.inputs := by
  cases p <;> rfl
@[simp] theorem State.modRing_pending (s : State) (p : PortId) (f : Ring → Ring) : (s.modRing p f).pending = s.pending := by
  cases p <;> rfl
@[simp] theorem State.modRing_master_mport (s : State) (p : MasterId) (f : Ring → Ring) :
    (s.modRing (.master p) f).mport = s.mport := rfl
@[simp] theorem State.modRing_management_masters (s : State) (f : Ring → Ring) :
    (s.modRing .management f).masters = s.masters := rfl
@[simp] theorem State.modRing_management_mport (s : State) (f : Ring → Ring) :
    (s.modRing .management f).mport = f s.mport := rfl
@[simp] theorem State.modRing_master_masters (s : State) (p : MasterId) (f : Ring → Ring) :
    (s.modRing (.master p) f).masters = s.masters.modify p (fun m => { m with ring := f m.ring }) := rfl

@[simp] theorem State.ring_modRing_self (s : State) (p : PortId) (f : Ring → Ring) : (s.modRing p f).ring p = f (s.ring p) := by
  cases p with
  | master p => simp [State.modRing, State.ring, State.modMaster]
  | management => rfl

theorem State.ring_modRing_ne (s : State) (p q : PortId) (f : Ring → Ring) (h : q ≠ p) : (s.modRing p f).ring q = s.ring q := by
  cases p <;> cases q <;> simp_all [State.modRing, State.ring, State.modMaster]

@[simp] theorem State.unit?_modUnit_self (s : State) (u : Nat) (f : UnitRecord → UnitRecord) :
    (s.modUnit u f).unit? u = (s.unit? u).map f := by
  simp [State.unit?]

theorem State.unit?_modUnit_ne (s : State) (u v : Nat) (f : UnitRecord → UnitRecord) (h : v ≠ u) :
    (s.modUnit u f).unit? v = s.unit? v := by
  simp [State.unit?, Ne.symm h]

end Sys2Proof.Machine
end

