-- ==== Sys2Proof/Laws/Ports.lean ====
section
/-!
SUPPORT. What the port operations do to a ring and to the rest of the state: taking a request (R152), writing a record (R154), and a
request that is taken and answered in one event.
-/

namespace Sys2Proof.Machine

/-! ## One ring -/

@[simp] theorem Ring.take_requestHead (r : Ring) : r.take.requestHead = r.requestHead + 1 := rfl
@[simp] theorem Ring.take_requestTail (r : Ring) : r.take.requestTail = r.requestTail := rfl
@[simp] theorem Ring.take_replyTail (r : Ring) : r.take.replyTail = r.replyTail := rfl
@[simp] theorem Ring.take_replyHead (r : Ring) : r.take.replyHead = r.replyHead := rfl
@[simp] theorem Ring.take_classes (r : Ring) : r.take.classes = r.classes := rfl
@[simp] theorem Ring.take_reservations (r : Ring) : r.take.reservations = r.freeSlot :: r.reservations := rfl
@[simp] theorem Ring.take_replyHoldings (r : Ring) : r.take.replyHoldings = r.replyHoldings + 1 := rfl
@[simp] theorem Ring.take_noticeHoldings (r : Ring) : r.take.noticeHoldings = r.noticeHoldings := rfl
@[simp] theorem Ring.take_refusals (r : Ring) : r.take.refusals = r.refusals := rfl
@[simp] theorem Ring.take_mem (r : Ring) :
    r.take.mem = r.mem.write requestHeadOffset (indexWord (r.requestHead + 1).toNat) := rfl

/-- Everything that writing a record does to a ring (R154), apart from the memory. -/
theorem Ring.writeRecord_fields (r : Ring) (cls : SlotClass) (record : List Byte) (words : List Word) :
    (r.writeRecord cls record words).requestTail = r.requestTail ∧
    (r.writeRecord cls record words).requestHead = r.requestHead ∧
    (r.writeRecord cls record words).replyTail = r.replyTail + 1 ∧
    (r.writeRecord cls record words).replyHead = r.replyHead ∧
    (r.writeRecord cls record words).reservations = r.reservations ∧
    (r.writeRecord cls record words).replyHoldings = r.replyHoldings ∧
    (r.writeRecord cls record words).refusals = r.refusals ∧
    (r.writeRecord cls record words).classes = r.classes.set (Fin.ofNat 64 r.nextSlot) cls ∧
    (r.writeRecord cls record words).noticeHoldings =
      (match cls with | .notice => r.noticeHoldings + 1 | .reply => r.noticeHoldings) :=
  ⟨rfl, rfl, rfl, rfl, rfl, rfl, rfl, rfl, rfl⟩

/-- The address list as bytes. -/
def listBytes (words : List Word) : List Byte := (padTo 0 64 words).flatMap (fun w => leBytes 4 w.toNat)

theorem flatMap_leBytes_length (l : List Word) : (l.flatMap (fun w => leBytes 4 w.toNat)).length = 4 * l.length := by
  induction l with
  | nil => rfl
  | cons w ws ih => simp [leBytes_length, ih]; omega

theorem listBytes_length (words : List Word) : (listBytes words).length = 256 := by
  unfold listBytes; rw [flatMap_leBytes_length, padTo_length]

theorem Ring.writeRecord_mem (r : Ring) (cls : SlotClass) (record : List Byte) (words : List Word) :
    (r.writeRecord cls record words).mem =
      ((r.mem.write (replySlotOffset r.nextSlot) (padTo 0 32 record)).write (addressListOffset r.nextSlot)
        (listBytes words)).write replyTailOffset (indexWord (r.replyTail + 1).toNat) := rfl

theorem Ring.nextSlot_lt (r : Ring) : r.nextSlot < 64 := Nat.mod_lt _ (by decide)

/-- The record, its address list and the reply tail word read back after they are written; the rest of memory is as before (R154). -/
theorem Ring.writeRecord_reads (r : Ring) (cls : SlotClass) (record : List Byte) (words : List Word) :
    (r.writeRecord cls record words).mem.readRange (replySlotOffset r.nextSlot) 32 = padTo 0 32 record ∧
    (r.writeRecord cls record words).mem.readRange (addressListOffset r.nextSlot) 256 = listBytes words ∧
    (r.writeRecord cls record words).mem.readRange replyTailOffset 4 = indexWord (r.replyTail + 1).toNat ∧
    ∀ a, ¬ (within a (replySlotOffset r.nextSlot) 32 ∨ within a (addressListOffset r.nextSlot) 256 ∨
      within a replyTailOffset 4) → (r.writeRecord cls record words).mem.read a = r.mem.read a := by
  have hs := r.nextSlot_lt
  have hl := listBytes_length words
  have hp : (padTo (0 : Byte) 32 record).length = 32 := padTo_length _ _ _
  have hw : (indexWord (r.replyTail + 1).toNat).length = 4 := leBytes_length _ _
  rw [Ring.writeRecord_mem]
  simp only [replySlotOffset, addressListOffset, replyTailOffset] at *
  refine ⟨?_, ?_, ?_, ?_⟩
  · rw [Memory.readRange_write_outside _ _ _ _ _ (by omega), Memory.readRange_write_outside _ _ _ _ _ (by omega)]
    have := Memory.readRange_write_self r.mem (0x0400 + 32 * r.nextSlot) (padTo 0 32 record)
    rwa [hp] at this
  · rw [Memory.readRange_write_outside _ _ _ _ _ (by omega)]
    have := Memory.readRange_write_self (r.mem.write (0x0400 + 32 * r.nextSlot) (padTo 0 32 record))
      (0x1000 + 256 * r.nextSlot) (listBytes words)
    rwa [hl] at this
  · have := Memory.readRange_write_self ((r.mem.write (0x0400 + 32 * r.nextSlot) (padTo 0 32 record)).write
      (0x1000 + 256 * r.nextSlot) (listBytes words)) 0x0C08 (indexWord (r.replyTail + 1).toNat)
    rwa [hw] at this
  · intro a ha
    simp only [within, not_or] at ha
    rw [Memory.read_write_outside _ _ _ _ (by omega), Memory.read_write_outside _ _ _ _ (by omega),
      Memory.read_write_outside _ _ _ _ (by omega)]

/-- A request taken and answered in one event leaves the ring as `Ring.Answered` says. -/
theorem Ring.answered_take_writeReply (r : Ring) (record : List Byte) (words : List Word) :
    r.Answered record words (r.take.writeReply r.freeSlot record words) := by
  have hf := r.take.writeRecord_fields .reply record words
  have hr := r.take.writeRecord_reads .reply record words
  have hslot : r.take.nextSlot = r.nextSlot := rfl
  have hs := r.nextSlot_lt
  rw [hslot] at hf hr
  obtain ⟨f1, f2, f3, f4, f5, f6, f7, f8, f9⟩ := hf
  obtain ⟨m1, m2, m3, m4⟩ := hr
  constructor
  · exact f1
  · exact f2
  · exact f3
  · exact f4
  · show ((r.take.writeRecord .reply record words).reservations.erase r.freeSlot) = r.reservations
    rw [f5]; simp
  · exact f6
  · exact f9
  · exact f7
  · exact f8
  · show (r.take.writeRecord .reply record words).mem.readRange requestHeadOffset 4 = _
    rw [Ring.writeRecord_mem]
    have hl := listBytes_length words
    have hp : (padTo (0 : Byte) 32 record).length = 32 := padTo_length _ _ _
    have hw : (indexWord (r.take.replyTail + 1).toNat).length = 4 := leBytes_length _ _
    rw [hslot]
    simp only [replySlotOffset, addressListOffset, replyTailOffset, requestHeadOffset] at *
    rw [Memory.readRange_write_outside _ _ _ _ _ (by omega), Memory.readRange_write_outside _ _ _ _ _ (by omega),
      Memory.readRange_write_outside _ _ _ _ _ (by omega)]
    have := Memory.readRange_write_self r.mem 0x0C04 (indexWord (r.requestHead + 1).toNat)
    rw [indexWord_length] at this
    exact this
  · exact m3
  · exact m1
  · exact m2
  · intro a ha
    simp only [Ring.answerTouches, not_or] at ha
    show (r.take.writeRecord .reply record words).mem.read a = _
    rw [m4 a (by simp only [not_or]; exact ⟨ha.2.1, ha.2.2.1, ha.2.2.2⟩)]
    have h1 := ha.1
    have hw : (indexWord (r.requestHead + 1).toNat).length = 4 := leBytes_length _ _
    simp only [within] at h1
    rw [Ring.take_mem, Memory.read_write_outside _ _ _ _ (by omega)]

/-! ## Index words -/

@[simp] theorem Ring.holdIndex_mem (r : Ring) (offset : Nat) (w : IndexWrite) :
    (r.holdIndex offset w).mem = r.mem.write offset (w.index :: w.rest.take 3) := rfl
@[simp] theorem Ring.holdIndex_requestHead (r : Ring) (offset : Nat) (w : IndexWrite) :
    (r.holdIndex offset w).requestHead = r.requestHead := rfl
@[simp] theorem Ring.holdIndex_replyHead (r : Ring) (offset : Nat) (w : IndexWrite) :
    (r.holdIndex offset w).replyHead = r.replyHead := rfl
@[simp] theorem Ring.holdIndex_replyTail (r : Ring) (offset : Nat) (w : IndexWrite) :
    (r.holdIndex offset w).replyTail = r.replyTail := rfl

/-! ## The state -/

theorem State.taken_ring (s : State) (p : PortId) : (s.taken p).ring p = (s.ring p).take := by
  cases p with
  | management => rfl
  | master m => simp [State.taken, State.modRing, State.ring, State.modMaster]; rfl

theorem State.taken_ring_ne (s : State) (p q : PortId) (h : q ≠ p) : (s.taken p).ring q = s.ring q := by
  cases p with
  | master m =>
    cases q with
    | master n =>
      have hn : n ≠ m := fun e => h (by rw [e])
      simp [State.taken, State.modRing, State.ring, State.modMaster, hn]
    | management => rfl
  | management =>
    cases q with
    | master n => rfl
    | management => exact absurd rfl h

theorem State.taken_only (s : State) (p : PortId) : s.Only [.masters, .mport] (s.taken p) := by
  intro f hf
  cases p <;> cases f <;> simp_all [State.agrees, State.taken]

theorem State.reply_ring (s : State) (p : PortId) (slot : ReplySlot) (kind : Nat) (tag : Half) (status : Status)
    (body : List Byte) (words : List Word) :
    (s.reply p slot kind tag status body words).ring p =
      (s.ring p).writeReply slot (replyRecord kind tag status body) words := by
  simp [State.reply]

theorem State.reply_ring_ne (s : State) (p q : PortId) (h : q ≠ p) (slot : ReplySlot) (kind : Nat) (tag : Half)
    (status : Status) (body : List Byte) (words : List Word) :
    (s.reply p slot kind tag status body words).ring q = s.ring q := by
  simp [State.reply, State.ring_modRing_ne _ _ _ _ h]

theorem State.reply_only (s : State) (p : PortId) (slot : ReplySlot) (kind : Nat) (tag : Half) (status : Status)
    (body : List Byte) (words : List Word) :
    s.Only [.masters, .mport] (s.reply p slot kind tag status body words) := by
  intro f hf
  cases p <;> cases f <;> simp_all [State.agrees, State.reply]

/-- A request taken and answered in one event, with effects between that leave the ports alone, leaves its port as `State.Answered`
says. -/
theorem State.answered (s u : State) (p : PortId) (hm : u.masters = (s.taken p).masters)
    (hp : u.mport = (s.taken p).mport) (status : Status) (body : List Byte) (words : List Word) :
    s.Answered p status body words ((s.headRequest p).answer u status body words) := by
  have hring : ∀ q, u.ring q = (s.taken p).ring q := by
    intro q; cases q with
    | master m => show (u.masters.get m).ring = ((s.taken p).masters.get m).ring; rw [hm]
    | management => exact hp
  have hself : ((s.headRequest p).answer u status body words).ring p =
      (s.ring p).take.writeReply (s.ring p).freeSlot
        (replyRecord (s.headRequest p).kind (s.headRequest p).tag status body) words := by
    show (u.reply p (s.ring p).freeSlot _ _ _ _ _).ring p = _
    rw [State.reply_ring, hring, State.taken_ring]
  have hother : ∀ x, x ≠ p → ((s.headRequest p).answer u status body words).ring x = s.ring x := by
    intro x hx
    show (u.reply p (s.ring p).freeSlot _ _ _ _ _).ring x = _
    rw [State.reply_ring_ne _ _ _ hx, hring, State.taken_ring_ne _ _ _ hx]
  refine ⟨?_, hother, ?_⟩
  · rw [hself]; exact Ring.answered_take_writeReply _ _ _
  · cases p with
    | management =>
      show ((u.modRing .management _).masters) = s.masters
      rw [State.modRing_management_masters, hm]; rfl
    | master m =>
      have h : ((s.headRequest (.master m)).answer u status body words).masters =
          u.masters.modify m (fun x => { x with ring := (x.ring.writeReply (s.ring (.master m)).freeSlot (replyRecord
            (s.headRequest (.master m)).kind (s.headRequest (.master m)).tag status body) words) }) := rfl
      refine ⟨?_, ?_, ?_, ?_⟩
      · intro q hq
        rw [h, Table.get_modify_ne _ _ _ _ hq, hm]
        simp [State.taken, State.modRing, hq]
      · rw [h, Table.get_modify_self, hm]; simp [State.taken, State.modRing]
      · rw [h, Table.get_modify_self, hm]; simp [State.taken, State.modRing]
      · rw [h, Table.get_modify_self, hm]; simp [State.taken, State.modRing]

theorem Request.answer_only (r : Request) (s : State) (status : Status) (body : List Byte) (words : List Word) :
    s.Only [.masters, .mport] (r.answer s status body words) := State.reply_only _ _ _ _ _ _ _ _

/-! ## Fences that are due -/

/-- Where no fence is due on a port, nothing comes before its event (R159). -/
theorem State.dueFence_none (s : State) (p : MasterId) (h : (s.masters.get p).fenceDue = false) : s.dueFence p = s := by
  simp [State.dueFence, State.fencePending, h]

/-- No fence is due on a port whose next request may be taken (R152, R159). -/
theorem State.settlePort_ready (s : State) (p : PortId) (h : s.mayTake p = true) : s.settlePort p = s := by
  cases p with
  | management => rfl
  | master m =>
    simp only [State.mayTake, State.mayTakeMaster, Bool.and_eq_true, Bool.not_eq_true'] at h
    exact s.dueFence_none m h.1.1.1.2

/-- A command of a request kind, when the next request is of that kind and may be taken. -/
theorem State.onRequest_ready (s : State) (p : PortId) (k : Nat) (accepts : Nat → Bool) (act : Request → State → State)
    (h : s.Ready p k) (ha : accepts k = true) :
    s.onRequest p accepts act = .next (act (s.headRequest p) (s.taken p)) := by
  simp [State.onRequest, s.settlePort_ready p h.1, h.1, h.2, ha]

/-! ## What taking and answering leave alone -/

@[simp] theorem State.taken_units (s : State) (p : PortId) : (s.taken p).units = s.units := by cases p <;> rfl
@[simp] theorem State.taken_freeLists (s : State) (p : PortId) : (s.taken p).freeLists = s.freeLists := by cases p <;> rfl
@[simp] theorem State.taken_streams (s : State) (p : PortId) : (s.taken p).streams = s.streams := by cases p <;> rfl
@[simp] theorem State.taken_tenants (s : State) (p : PortId) : (s.taken p).tenants = s.tenants := by cases p <;> rfl
@[simp] theorem State.taken_contexts (s : State) (p : PortId) : (s.taken p).contexts = s.contexts := by cases p <;> rfl
@[simp] theorem State.taken_lines (s : State) (p : PortId) : (s.taken p).lines = s.lines := by cases p <;> rfl
@[simp] theorem State.taken_pool (s : State) (p : PortId) : (s.taken p).pool = s.pool := by cases p <;> rfl
@[simp] theorem State.taken_waiters (s : State) (p : PortId) : (s.taken p).waiters = s.waiters := by cases p <;> rfl
@[simp] theorem State.taken_credit (s : State) (p : PortId) : (s.taken p).credit = s.credit := by cases p <;> rfl
@[simp] theorem State.taken_groups (s : State) (p : PortId) : (s.taken p).groups = s.groups := by cases p <;> rfl
@[simp] theorem State.taken_reclaim (s : State) (p : PortId) : (s.taken p).reclaim = s.reclaim := by cases p <;> rfl
@[simp] theorem State.taken_dies (s : State) (p : PortId) : (s.taken p).dies = s.dies := by cases p <;> rfl
@[simp] theorem State.taken_link (s : State) (p : PortId) : (s.taken p).link = s.link := by cases p <;> rfl
@[simp] theorem State.taken_time (s : State) (p : PortId) : (s.taken p).time = s.time := by cases p <;> rfl
@[simp] theorem State.taken_limits (s : State) (p : PortId) : (s.taken p).limits = s.limits := by cases p <;> rfl
@[simp] theorem State.taken_mgmt (s : State) (p : PortId) : (s.taken p).mgmt = s.mgmt := by cases p <;> rfl
@[simp] theorem State.taken_inputs (s : State) (p : PortId) : (s.taken p).inputs = s.inputs := by cases p <;> rfl
@[simp] theorem State.taken_pending (s : State) (p : PortId) : (s.taken p).pending = s.pending := by cases p <;> rfl

@[simp] theorem Request.answer_units (r : Request) (s : State) (status : Status) (body : List Byte) (words : List Word) :
    (r.answer s status body words).units = s.units := State.modRing_units _ _ _
@[simp] theorem Request.answer_freeLists (r : Request) (s : State) (status : Status) (body : List Byte) (words : List Word) :
    (r.answer s status body words).freeLists = s.freeLists := State.modRing_freeLists _ _ _
@[simp] theorem Request.answer_streams (r : Request) (s : State) (status : Status) (body : List Byte) (words : List Word) :
    (r.answer s status body words).streams = s.streams := State.modRing_streams _ _ _
@[simp] theorem Request.answer_tenants (r : Request) (s : State) (status : Status) (body : List Byte) (words : List Word) :
    (r.answer s status body words).tenants = s.tenants := State.modRing_tenants _ _ _
@[simp] theorem Request.answer_contexts (r : Request) (s : State) (status : Status) (body : List Byte) (words : List Word) :
    (r.answer s status body words).contexts = s.contexts := State.modRing_contexts _ _ _
@[simp] theorem Request.answer_lines (r : Request) (s : State) (status : Status) (body : List Byte) (words : List Word) :
    (r.answer s status body words).lines = s.lines := State.modRing_lines _ _ _
@[simp] theorem Request.answer_pool (r : Request) (s : State) (status : Status) (body : List Byte) (words : List Word) :
    (r.answer s status body words).pool = s.pool := State.modRing_pool _ _ _
@[simp] theorem Request.answer_waiters (r : Request) (s : State) (status : Status) (body : List Byte) (words : List Word) :
    (r.answer s status body words).waiters = s.waiters := State.modRing_waiters _ _ _
@[simp] theorem Request.answer_credit (r : Request) (s : State) (status : Status) (body : List Byte) (words : List Word) :
    (r.answer s status body words).credit = s.credit := State.modRing_credit _ _ _
@[simp] theorem Request.answer_groups (r : Request) (s : State) (status : Status) (body : List Byte) (words : List Word) :
    (r.answer s status body words).groups = s.groups := State.modRing_groups _ _ _
@[simp] theorem Request.answer_reclaim (r : Request) (s : State) (status : Status) (body : List Byte) (words : List Word) :
    (r.answer s status body words).reclaim = s.reclaim := State.modRing_reclaim _ _ _
@[simp] theorem Request.answer_dies (r : Request) (s : State) (status : Status) (body : List Byte) (words : List Word) :
    (r.answer s status body words).dies = s.dies := State.modRing_dies _ _ _
@[simp] theorem Request.answer_link (r : Request) (s : State) (status : Status) (body : List Byte) (words : List Word) :
    (r.answer s status body words).link = s.link := State.modRing_link _ _ _
@[simp] theorem Request.answer_time (r : Request) (s : State) (status : Status) (body : List Byte) (words : List Word) :
    (r.answer s status body words).time = s.time := State.modRing_time _ _ _
@[simp] theorem Request.answer_limits (r : Request) (s : State) (status : Status) (body : List Byte) (words : List Word) :
    (r.answer s status body words).limits = s.limits := State.modRing_limits _ _ _
@[simp] theorem Request.answer_mgmt (r : Request) (s : State) (status : Status) (body : List Byte) (words : List Word) :
    (r.answer s status body words).mgmt = s.mgmt := State.modRing_mgmt _ _ _
@[simp] theorem Request.answer_inputs (r : Request) (s : State) (status : Status) (body : List Byte) (words : List Word) :
    (r.answer s status body words).inputs = s.inputs := State.modRing_inputs _ _ _
@[simp] theorem Request.answer_pending (r : Request) (s : State) (status : Status) (body : List Byte) (words : List Word) :
    (r.answer s status body words).pending = s.pending := State.modRing_pending _ _ _

@[simp] theorem State.taken_unit? (s : State) (p : PortId) (u : Nat) : (s.taken p).unit? u = s.unit? u := by
  simp [State.unit?]

@[simp] theorem Request.answer_unit? (r : Request) (s : State) (status : Status) (body : List Byte) (words : List Word) (u : Nat) :
    (r.answer s status body words).unit? u = s.unit? u := by simp [State.unit?]

theorem State.taken_only_master (s : State) (p : MasterId) : s.Only [.masters] (s.taken (.master p)) := by
  intro f hf; cases f <;> first | rfl | simp at hf

theorem State.taken_only_management (s : State) : s.Only [.mport] (s.taken .management) := by
  intro f hf; cases f <;> first | rfl | simp at hf

theorem Request.answer_only_master (r : Request) (p : MasterId) (h : r.port = .master p) (s : State) (status : Status)
    (body : List Byte) (words : List Word) : s.Only [.masters] (r.answer s status body words) := by
  cases r; cases h; intro f hf; cases f <;> first | rfl | simp at hf

theorem Request.answer_only_management (r : Request) (h : r.port = .management) (s : State) (status : Status)
    (body : List Byte) (words : List Word) : s.Only [.mport] (r.answer s status body words) := by
  cases r; cases h; intro f hf; cases f <;> first | rfl | simp at hf

/-- A request answered with no effect between: nothing else of the part changes. -/
theorem State.answered_at_once (s : State) (p : PortId) (status : Status) (body : List Byte) (words : List Word) :
    s.OnlyAnswered p status body words ((s.headRequest p).answer (s.taken p) status body words) := by
  refine ⟨State.answered s _ p rfl rfl status body words, ?_⟩
  intro f hf
  cases f <;> simp_all [State.agrees]

/-! ## Frames -/

theorem State.Only.refl (s : State) (fs : List Field) : s.Only fs s := by
  intro f _; cases f <;> rfl

theorem State.Only.trans {s t u : State} {fs gs : List Field} (h : s.Only fs t) (k : t.Only gs u) :
    s.Only (fs ++ gs) u := by
  intro f hf
  simp only [List.mem_append, not_or] at hf
  have h1 := h f hf.1
  have h2 := k f hf.2
  cases f <;> exact Eq.trans h2 h1

theorem State.Only.mono {s t : State} {fs gs : List Field} (h : s.Only fs t) (hs : fs ⊆ gs) : s.Only gs t :=
  fun f hf => h f (fun hm => hf (hs hm))

end Sys2Proof.Machine
end

