-- ==== Sys2Proof/Laws/Frames.lean ====
section
/-!
SUPPORT. The frame of every shared operation: `State.<operation>_only` says which fields of the state the operation may change; every
other field is as before. A proof takes a field out with the lemma applied to the field's name.
-/

namespace Sys2Proof.Machine

set_option Elab.async false

/-- Two changes after one another, the second's fields among the first's. -/
theorem State.Only.andThen {s t u : State} {fs gs : List Field} (h : s.Only gs t) (k : t.Only fs u)
    (hs : fs ⊆ gs := by decide) : s.Only gs u := by
  intro f hf
  have h1 := h f hf
  have h2 := k f (fun hm => hf (hs hm))
  cases f <;> exact Eq.trans h2 h1

/-- A fold whose every step changes only the named fields. -/
theorem State.Only.foldl {α : Type} (fs : List Field) (l : List α) (f : State → α → State)
    (h : ∀ (s : State) (x : α), s.Only fs (f s x)) (s : State) : s.Only fs (l.foldl f s) := by
  induction l generalizing s with
  | nil => exact .refl s _
  | cons x xs ih => exact (h s x).andThen (ih _) (fun _ hm => hm)

/-! ## Changing one record -/

theorem State.modStream_only (s : State) (i : StreamId) (g : StreamRecord → StreamRecord) : s.Only [.streams] (s.modStream i g) := by
  intro f hf; cases f <;> first | rfl | simp at hf

theorem State.modTenant_only (s : State) (i : Tenant) (g : TenantRecord → TenantRecord) : s.Only [.tenants] (s.modTenant i g) := by
  intro f hf; cases f <;> first | rfl | simp at hf

theorem State.modLines_only (s : State) (i : StreamId) (g : StreamLines → StreamLines) : s.Only [.lines] (s.modLines i g) := by
  intro f hf; cases f <;> first | rfl | simp at hf

theorem State.modDie_only (s : State) (i : DieId) (g : DieRecord → DieRecord) : s.Only [.dies] (s.modDie i g) := by
  intro f hf; cases f <;> first | rfl | simp at hf

theorem State.modReclaim_only (s : State) (i : GroupId) (g : ReclaimRecord → ReclaimRecord) : s.Only [.groups] (s.modReclaim i g) := by
  intro f hf; cases f <;> first | rfl | simp at hf

theorem State.modMaster_only (s : State) (i : MasterId) (g : MasterPort → MasterPort) : s.Only [.masters] (s.modMaster i g) := by
  intro f hf; cases f <;> first | rfl | simp at hf

theorem State.modUnit_only (s : State) (u : Nat) (g : UnitRecord → UnitRecord) : s.Only [.units] (s.modUnit u g) := by
  intro f hf; cases f <;> first | rfl | simp at hf

theorem State.modMgmt_only (s : State) (g : Management → Management) : s.Only [.mgmt] (s.modMgmt g) := by
  intro f hf; cases f <;> first | rfl | simp at hf

theorem State.modSticky_only (s : State) (g : Sticky → Sticky) : s.Only [.mgmt] (s.modSticky g) := by
  intro f hf; cases f <;> first | rfl | simp at hf

theorem State.modContext_only (s : State) (c : ContextId) (g : WriteContext → WriteContext) : s.Only [.contexts] (s.modContext c g) := by
  intro f hf; cases f <;> first | rfl | simp at hf

theorem State.modPage_only (s : State) (r : PageRef) (g : PageRecord → PageRecord) : s.Only [.contexts] (s.modPage r g) := by
  intro f hf; cases f <;> first | rfl | simp at hf

theorem State.modBalance_only (s : State) (t : Tenant) (g : Int → Int) : s.Only [.credit] (s.modBalance t g) := by
  intro f hf; cases f <;> first | rfl | simp at hf

theorem State.modWaitList_only (s : State) (g : List WaitEntry → List WaitEntry) : s.Only [.credit] (s.modWaitList g) := by
  intro f hf; cases f <;> first | rfl | simp at hf

theorem State.modNotices_only (s : State) (p : MasterId) (g : List NoticeRef → List NoticeRef) : s.Only [.reclaim] (s.modNotices p g) := by
  intro f hf; cases f <;> first | rfl | simp at hf

theorem State.insertFree_only (s : State) (u : Nat) : s.Only [.freeLists] (s.insertFree u) := by
  intro f hf; cases f <;> first | rfl | simp at hf

theorem State.removeFree_only (s : State) (u : Nat) : s.Only [.freeLists] (s.removeFree u) := by
  intro f hf; cases f <;> first | rfl | simp at hf

theorem State.modRing_only (s : State) (p : PortId) (g : Ring → Ring) : s.Only [.masters, .mport] (s.modRing p g) := by
  intro f hf; cases p <;> cases f <;> first | rfl | simp at hf

theorem State.modRingMaster_only (s : State) (p : MasterId) (g : Ring → Ring) : s.Only [.masters] (s.modRing (.master p) g) := by
  intro f hf; cases f <;> first | rfl | simp at hf

theorem State.modRingManagement_only (s : State) (g : Ring → Ring) : s.Only [.mport] (s.modRing .management g) := by
  intro f hf; cases f <;> first | rfl | simp at hf

/-! ## Reports and the background queues -/

theorem State.wakeGroup_only (s : State) (g : GroupId) : s.Only [.groups] (s.wakeGroup g) := by
  intro f hf; cases f <;> first | rfl | simp at hf

theorem State.wakeUnit_only (s : State) (u : Nat) : s.Only [.groups] (s.wakeUnit u) := by
  unfold State.wakeUnit; split
  · exact s.wakeGroup_only _
  · exact .refl s _

theorem State.wakeAll_only (s : State) : s.Only [.groups] (s.wakeAll) := by
  intro f hf; cases f <;> first | rfl | simp at hf

theorem State.evaluateActivity_only (s : State) (g : GroupId) : s.Only [.groups] (s.evaluateActivity g) := by
  unfold State.evaluateActivity; split
  · exact .refl s _
  · exact s.modReclaim_only _ _

theorem State.reportCounts_only (s : State) (u : Nat) : s.Only [.groups] (s.reportCounts u) := by
  unfold State.reportCounts; split
  · exact s.evaluateActivity_only _
  · exact .refl s _

theorem State.fillOne_only (s : State) (d : DieId) : s.Only [.dies] (s.fillOne d) := by
  unfold State.fillOne; dsimp only; split
  · split
    · exact .refl s _
    · exact s.modDie_only _ _
  · exact .refl s _

theorem State.fillQueue_only (s : State) (d : DieId) : s.Only [.dies] (s.fillQueue d) := by
  exact ((((State.Only.refl s _).andThen (State.fillOne_only _ _)).andThen (State.fillOne_only _ _)).andThen
    (State.fillOne_only _ _)).andThen (State.fillOne_only _ _)

theorem State.addWaiting_only (s : State) (u : Nat) : s.Only [.dies] (s.addWaiting u) := by
  intro f hf; cases f <;> first | rfl | simp at hf

theorem State.dropBackground_only (s : State) (u : Nat) : s.Only [.dies] (s.dropBackground u) := by
  intro f hf; cases f <;> first | rfl | simp at hf

theorem State.handBackground_only (s : State) (u : Nat) : s.Only [.units, .dies] (s.handBackground u) := by
  unfold State.handBackground; dsimp only
  refine State.Only.andThen (State.Only.andThen (State.Only.andThen ?_ (State.fillQueue_only _ _)) (State.addWaiting_only _ _))
    (State.fillQueue_only _ _)
  split
  · exact (s.modUnit_only _ _).mono (by decide)
  · exact .refl s _

/-! ## The Unit Table -/

theorem State.leaveYoung_only (s : State) (u : Nat) : s.Only [.streams] (s.leaveYoung u) := by
  unfold State.leaveYoung; split
  · exact s.modStream_only _ _
  · exact .refl s _

theorem State.pushYoung_only (s : State) (st : StreamId) (u : Nat) : s.Only [.streams, .groups] (s.pushYoung st u) := by
  unfold State.pushYoung; dsimp only; split
  · split
    · exact ((State.Only.refl s _).andThen (s.modStream_only _ _)).andThen (State.wakeUnit_only _ _)
    · exact (s.modStream_only _ _).mono (by decide)
  · exact .refl s _

theorem State.emptyYoung_only (s : State) (st : StreamId) : s.Only [.streams, .groups] (s.emptyYoung st) := by
  exact ((State.Only.refl s _).andThen (s.modStream_only _ _)).andThen (State.Only.foldl [.groups] _ _ State.wakeUnit_only _)

theorem State.enterErasing_only (s : State) (u : Nat) : s.Only [.units, .streams, .groups, .dies] (s.enterErasing u) := by
  exact ((((State.Only.refl s _).andThen (s.leaveYoung_only u)).andThen (State.modUnit_only _ _ _)).andThen
    (State.handBackground_only _ _)).andThen (State.reportCounts_only _ _)

theorem State.enterRetired_only (s : State) (u : Nat) : s.Only [.units, .streams, .groups] (s.enterRetired u) := by
  exact (((State.Only.refl s _).andThen (s.leaveYoung_only u)).andThen (State.modUnit_only _ _ _)).andThen
    (State.reportCounts_only _ _)

theorem State.enterFree_only (s : State) (u n : Nat) : s.Only [.units, .freeLists, .groups] (s.enterFree u n) := by
  exact (((State.Only.refl s _).andThen (s.modUnit_only u _)).andThen (State.insertFree_only _ _)).andThen
    (State.reportCounts_only _ _)

theorem State.leaveForErase_only (s : State) (u : Nat) : s.Only [.units, .streams, .groups, .dies] (s.leaveForErase u) := by
  unfold State.leaveForErase; split
  · exact .refl s _
  · split
    · exact (s.enterRetired_only u).mono (by decide)
    · exact s.enterErasing_only u

theorem State.checkEmpty_only (s : State) (u : Nat) : s.Only [.units, .streams, .groups, .dies] (s.checkEmpty u) := by
  unfold State.checkEmpty; split
  · exact .refl s _
  · split
    · exact s.leaveForErase_only u
    · exact .refl s _

theorem State.sealUnit_only (s : State) (u : Nat) : s.Only [.units, .streams, .groups, .dies] (s.sealUnit u) := by
  unfold State.sealUnit; split
  · exact .refl s _
  · dsimp only
    refine State.Only.andThen (State.Only.andThen ?_ (State.wakeUnit_only _ _)) (State.checkEmpty_only _ _)
    split
    · exact ((State.Only.refl s _).andThen (s.modUnit_only u _)).andThen (State.pushYoung_only _ _ _)
    · exact (s.modUnit_only u _).mono (by decide)

theorem State.failUnit_only (s : State) (u p : Nat) : s.Only [.units, .streams, .groups, .dies] (s.failUnit u p) := by
  exact (((State.Only.refl s _).andThen (s.modUnit_only u _)).andThen (State.wakeUnit_only _ _)).andThen
    (State.checkEmpty_only _ _)

theorem State.returnToSealed_only (s : State) (u : Nat) : s.Only [.units, .streams, .groups, .dies] (s.returnToSealed u) := by
  exact ((((State.Only.refl s _).andThen (s.modUnit_only u _)).andThen (State.wakeUnit_only _ _)).andThen
    (State.reportCounts_only _ _)).andThen (State.checkEmpty_only _ _)

theorem State.moveToReclaim_only (s : State) (u : Nat) (k : OrderSlotId) : s.Only [.units, .groups] (s.moveToReclaim u k) := by
  exact ((State.Only.refl s _).andThen (s.modUnit_only u _)).andThen (State.reportCounts_only _ _)

theorem State.replaceUnit_only (s : State) (u : Nat) (r : UnitRecord) : s.Only [.units, .groups] (s.replaceUnit u r) := by
  unfold State.replaceUnit; split
  · exact .refl s _
  · dsimp only; split
    · exact ((State.Only.refl s _).andThen (s.modUnit_only u _)).andThen (State.wakeUnit_only _ _)
    · exact (s.modUnit_only _ _).mono (by decide)

theorem State.abandonUnits_only (s : State) (us : List Nat) : s.Only [.units, .groups] (s.abandonUnits us) := by
  exact State.Only.foldl [.units, .groups] _ _ (fun s u => ((State.Only.refl s _).andThen (s.modUnit_only u _)).andThen
    (State.reportCounts_only _ _)) s

theorem State.lowerValid_only (s : State) (u n : Nat) : s.Only [.units] (s.lowerValid u n) := by
  intro f hf; cases f <;> first | rfl | simp at hf

/-! ## The Channel Link Unit and the Die Scheduler -/

theorem State.joinWaiting_only (s : State) (d : DieId) : s.Only [.link] (s.joinWaiting d) := by
  unfold State.joinWaiting; split
  · exact .refl s _
  · intro f hf; cases f <;> first | rfl | simp at hf

theorem State.handOver_only (s : State) (k : DescriptorKind) (d : DieId) (u : Nat) (page : Option PageKey) : s.Only [.link] (s.handOver k d u page) := by
  intro f hf; cases f <;> first | rfl | simp at hf

theorem State.takeMatched_only (s : State) (c : Completion) (e : TagEntry) : s.Only [.link] (s.takeMatched c e) := by
  intro f hf; cases f <;> first | rfl | simp at hf

theorem State.replyMaster_only (s : State) (p : MasterId) (slot : ReplySlot) (kind : Nat) (tag : Half) (status : Status) (body : List Byte)
    (words : List Word) : s.Only [.masters] (s.reply (.master p) slot kind tag status body words) := by
  exact s.modRingMaster_only _ _

theorem State.replyManagement_only (s : State) (slot : ReplySlot) (kind : Nat) (tag : Half) (status : Status) (body : List Byte)
    (words : List Word) : s.Only [.mport] (s.reply .management slot kind tag status body words) := by
  exact s.modRingManagement_only _

theorem State.grantWindow_only (s : State) (d : DieId) (p : MasterId) : s.Only [.dies, .masters] (s.grantWindow d p) := by
  unfold State.grantWindow; split
  · exact ((State.Only.refl s _).andThen (s.modDie_only d _)).andThen (State.replyMaster_only _ _ _ _ _ _ _ _)
  · exact .refl s _

theorem State.grantWindows_only (s : State) (d : DieId) : s.Only [.dies, .masters] (s.grantWindows d) := by
  exact State.Only.foldl _ _ _ (fun s p => s.grantWindow_only d p) s

theorem State.issuePage_only (s : State) (d : DieId) (l : Level) (k : PageKey) : s.Only [.dies, .link] (s.issuePage d l k) := by
  exact ((State.Only.refl s _).andThen (s.modDie_only d _)).andThen (State.handOver_only _ _ _ _ _)

theorem State.issueProgram_only (s : State) (d : DieId) (l : Level) (k : PageKey) : s.Only [.dies, .link] (s.issueProgram d l k) := by
  exact (s.issuePage_only d l k).andThen (State.modDie_only _ _ _)

theorem State.issueSuspended_only (s : State) (d : DieId) (l : Level) (k : PageKey) : s.Only [.dies, .link] (s.issueSuspended d l k) := by
  exact (s.issuePage_only d l k).andThen (State.modDie_only _ _ _)

theorem State.issueBackground_only (s : State) (d : DieId) (e : BackgroundEntry) : s.Only [.dies, .link] (s.issueBackground d e) := by
  unfold State.issueBackground; dsimp only; split <;>
    exact ((State.Only.refl s _).andThen (s.modDie_only d _)).andThen (State.handOver_only _ _ _ _ _)

theorem State.arbitrateDie_only (s : State) (d : DieId) (o : Bool) : s.Only [.dies, .link] (s.arbitrateDie d o) := by
  unfold State.arbitrateDie; split
  · exact .refl s _
  · split
    · exact s.issueProgram_only _ _ _
    · exact (s.joinWaiting_only _).mono (by decide)
  · split
    · exact s.issueBackground_only _ _
    · exact (s.joinWaiting_only _).mono (by decide)

theorem State.suspendToServe_only (s : State) (d : DieId) (u : Nat) : s.Only [.units, .dies, .link] (s.suspendToServe d u) := by
  exact (((State.Only.refl s _).andThen (s.modUnit_only u _)).andThen (State.modDie_only _ _ _)).andThen
    (State.handOver_only _ _ _ _ _)

theorem State.suspendToAbandon_only (s : State) (d : DieId) (u : Nat) : s.Only [.dies, .link] (s.suspendToAbandon d u) := by
  exact ((State.Only.refl s _).andThen (State.modDie_only _ _ _)).andThen (State.handOver_only _ _ _ _ _)

theorem State.trigger_only (s : State) (d : DieId) (o : Bool) : s.Only [.units, .dies, .link] (s.trigger d o) := by
  unfold State.trigger; dsimp only; split
  · split
    · exact .refl s _
    · split
      · split
        · exact s.suspendToServe_only _ _
        · exact (s.joinWaiting_only _).mono (by decide)
      · exact .refl s _
  · exact .refl s _

theorem State.resumeErase_only (s : State) (d : DieId) (u : Nat) : s.Only [.dies, .link] (s.resumeErase d u) := by
  exact ((State.Only.refl s _).andThen (State.modDie_only _ _ _)).andThen (State.handOver_only _ _ _ _ _)

theorem State.serveDie_only (s : State) (d : DieId) (o : Bool) : s.Only [.dies, .link] (s.serveDie d o) := by
  unfold State.serveDie; dsimp only; split
  · split
    · split
      · exact .refl s _
      · split
        · exact s.issueSuspended_only _ _ _
        · exact (s.joinWaiting_only _).mono (by decide)
    · split
      · split
        · exact .refl s _
        · split
          · exact s.resumeErase_only _ _
          · exact (s.joinWaiting_only _).mono (by decide)
      · exact .refl s _
  · exact .refl s _

theorem State.serveSuspended_only (s : State) : s.Only [.dies, .link] (s.serveSuspended) := by
  exact State.Only.foldl _ _ _ (fun s d => s.serveDie_only d false) s

theorem State.dieAfterErase_only (s : State) (d : DieId) : s.Only [.dies, .masters] (s.dieAfterErase d) := by
  exact ((State.Only.refl s _).andThen (s.modDie_only d _)).andThen (State.grantWindows_only _ _)

theorem State.setLink_only (s : State) (l : Link) : s.Only [.link] { s with link := l } := by
  intro f hf; cases f <;> first | rfl | simp at hf

theorem State.abandonErase_only (s : State) (d : DieId) : s.Only [.units, .groups, .dies, .link, .masters] (s.abandonErase d) := by
  unfold State.abandonErase; split
  · exact .refl s _
  · exact (((((State.Only.refl s _).andThen (s.modUnit_only _ _)).andThen (State.setLink_only _ _)).andThen
      (State.dieAfterErase_only _ _)).andThen (State.handBackground_only _ _)).andThen (State.reportCounts_only _ _)

theorem State.eraseOutcome_only (s : State) (u : Nat) (b : Bool) : s.Only [.units, .freeLists, .streams, .groups] (s.eraseOutcome u b) := by
  unfold State.eraseOutcome; split
  · exact .refl s _
  · split
    · exact (s.enterFree_only _ _).mono (by decide)
    · exact (s.enterRetired_only _).mono (by decide)

/-! ## The Placement Engine -/

theorem State.callSpace_only (s : State) (p : StreamId → Bool) : s.Only [.credit] (s.callSpace p) := by
  intro f hf; cases f <;> first | rfl | simp at hf

theorem State.callReplace_only (s : State) (p : StreamId → Bool) : s.Only [.waiters] (s.callReplace p) := by
  intro f hf; cases f <;> first | rfl | simp at hf

theorem State.callWork_only (s : State) (p : StreamId → Bool) : s.Only [.waiters, .credit] (s.callWork p) := by
  exact ((State.Only.refl s _).andThen (s.callReplace_only p)).andThen (State.callSpace_only _ _)

theorem State.takeProfile_only (s : State) (st : StreamId) (p : Profile) : s.Only [.streams, .waiters, .credit] (s.takeProfile st p) := by
  exact ((State.Only.refl s _).andThen (s.modStream_only _ _)).andThen (State.callWork_only _ _)

theorem State.applyPending_only (s : State) (st : StreamId) : s.Only [.streams, .waiters, .credit] (s.applyPending st) := by
  unfold State.applyPending; dsimp only; split
  · split
    · exact s.takeProfile_only _ _
    · exact .refl s _
  · exact .refl s _

theorem State.emptySlot_only (s : State) (st : StreamId) (q : Position) : s.Only [.streams] (s.emptySlot st q) := by
  intro f hf; cases f <;> first | rfl | simp at hf

theorem State.sealSlot_only (s : State) (st : StreamId) (q : Position) : s.Only [.units, .streams, .waiters, .credit, .groups, .dies] (s.sealSlot st q) := by
  unfold State.sealSlot; split
  · exact .refl s _
  · exact (((State.Only.refl s _).andThen (s.emptySlot_only _ _)).andThen (State.sealUnit_only _ _)).andThen
      (State.applyPending_only _ _)

theorem State.sealAllSlots_only (s : State) (st : StreamId) : s.Only [.units, .streams, .waiters, .credit, .groups, .dies] (s.sealAllSlots st) := by
  exact (State.Only.foldl [.units, .streams, .waiters, .credit, .groups, .dies] _ _ (fun s q => s.sealSlot_only st q) s).andThen (State.applyPending_only _ _)

theorem State.dueSeal_only (s : State) (st : StreamId) (q : Position) : s.Only [.units, .streams, .waiters, .credit, .groups, .dies] (s.dueSeal st q) := by
  unfold State.dueSeal; split
  · split
    · exact s.sealSlot_only st q
    · exact .refl s _
  · exact .refl s _

theorem State.settleSlots_only (s : State) (st : StreamId) : s.Only [.units, .streams, .waiters, .credit, .groups, .dies] (s.settleSlots st) := by
  exact State.Only.foldl _ _ _ (fun s q => s.dueSeal_only st q) s

theorem State.setFreeLists_only (s : State) (f : Table 32 (List Nat)) : s.Only [.freeLists] { s with freeLists := f } := by
  intro f hf; cases f <;> first | rfl | simp at hf

theorem State.openUnit_only (s : State) (st : StreamId) (q : Position) (d : DieId) : s.Only [.units, .freeLists, .streams, .credit, .groups] (s.openUnit st q d) := by
  unfold State.openUnit; split
  · exact .refl s _
  · exact (((((State.Only.refl s _).andThen (s.setFreeLists_only _)).andThen (State.modUnit_only _ _ _)).andThen
      (State.modStream_only _ _ _)).andThen (State.reportCounts_only _ _)).andThen (State.callSpace_only _ _)

theorem State.moveCursor_only (s : State) (st : StreamId) (q : Position) : s.Only [.streams] (s.moveCursor st q) := by
  exact s.modStream_only _ _

theorem State.pageTrigger_only (s : State) (d : DieId) (k : PageKey) : s.Only [.units, .dies, .link] (s.pageTrigger d k) := by
  unfold State.pageTrigger; split
  · exact s.trigger_only _ _
  · exact .refl s _

theorem State.setPool_only (s : State) (l : List PoolEntry) : s.Only [.pool] { s with pool := l } := by
  intro f hf; cases f <;> first | rfl | simp at hf

theorem State.takePage_only (s : State) (st : StreamId) (c : GroupConfig) (q : Position) (x : WriteContext) (n : Nat) : s.Only [.units, .streams, .contexts, .pool, .waiters, .credit, .groups, .dies, .link] (s.takePage st c q x n) := by
  unfold State.takePage; split
  · exact .refl s _
  · dsimp only
    split
    · refine State.Only.andThen ?_ (State.sealSlot_only _ _ _)
      exact (((((((State.Only.refl s _).andThen (s.modUnit_only _ _)).andThen (State.modStream_only _ _ _)).andThen
        (State.setPool_only _ _)).andThen (State.modPage_only _ _ _)).andThen (State.modDie_only _ _ _)).andThen
        (State.moveCursor_only _ _ _)).andThen (State.pageTrigger_only _ _ _)
    · exact (((((((State.Only.refl s _).andThen (s.modUnit_only _ _)).andThen (State.modStream_only _ _ _)).andThen
        (State.setPool_only _ _)).andThen (State.modPage_only _ _ _)).andThen (State.modDie_only _ _ _)).andThen
        (State.moveCursor_only _ _ _)).andThen (State.pageTrigger_only _ _ _)

theorem State.tryPlace_only (s t : State) (st : StreamId) (k : PlaceKind) (x : WriteContext) (n : Nat)
    (h : s.tryPlace st k x n = some t) :
    s.Only [.units, .freeLists, .streams, .contexts, .pool, .waiters, .credit, .groups, .dies, .link] t := by
  unfold State.tryPlace at h
  split at h
  · cases h
  · split at h
    · cases h
    · dsimp only at h
      cases h
      split
      · exact (State.takePage_only _ _ _ _ _ _).mono (by decide)
      · exact ((State.Only.refl s _).andThen (s.openUnit_only _ _ _)).andThen (State.takePage_only _ _ _ _ _ _)

theorem State.leaveLines_only (s : State) (st : StreamId) (c : ContextId) : s.Only [.lines] (s.leaveLines st c) := by
  intro f hf; cases f <;> first | rfl | simp at hf

theorem State.releaseShare_only (s : State) (p : MasterId) : s.Only [.credit] (s.releaseShare p) := by
  intro f hf; cases f <;> first | rfl | simp at hf

theorem State.afterFresh_only (s : State) (st : StreamId) (x : WriteContext) : s.Only [.contexts, .lines, .credit] (s.afterFresh st x) := by
  unfold State.afterFresh; dsimp only; split
  · exact ((((State.Only.refl s _).andThen (s.modContext_only _ _)).andThen (State.leaveLines_only _ _ _)).andThen
      (State.modWaitList_only _ _)).andThen (State.releaseShare_only _ _)
  · exact ((State.Only.refl s _).andThen (s.modContext_only _ _)).andThen (State.modWaitList_only _ _)

theorem State.waitForSpace_only (s : State) (x : WriteContext) : s.Only [.credit] (s.waitForSpace x) := by
  unfold State.waitForSpace; split <;> exact s.modWaitList_only _

theorem State.attemptFresh_only (s : State) (st : StreamId) (x : WriteContext) : s.Only [.units, .freeLists, .streams, .contexts, .lines, .pool, .waiters, .credit, .groups, .dies, .link] (s.attemptFresh st x).1 := by
  unfold State.attemptFresh; dsimp only; split
  · next h =>
      exact (((State.Only.refl s _).andThen (s.applyPending_only st)).andThen (State.tryPlace_only _ _ _ _ _ _ h)).andThen
        (State.afterFresh_only _ _ _)
  · exact ((State.Only.refl s _).andThen (s.applyPending_only st)).andThen (State.waitForSpace_only _ _)

theorem State.placeRun_only (n : Nat) (s : State) (st : StreamId) (cls : WriteClass) (id : ContextId) :
    s.Only [.units, .freeLists, .streams, .contexts, .lines, .pool, .waiters, .credit, .groups, .dies, .link] (State.placeRun n s st cls id) := by
  induction n generalizing s with
  | zero => exact .refl s _
  | succ n ih =>
    unfold State.placeRun
    split
    · exact .refl s _
    · split
      · split
        · next h => exact State.Only.andThen (by have := s.attemptFresh_only st ‹_›; rwa [h] at this) (ih _) (by decide)
        · next h => have := s.attemptFresh_only st ‹_›; rwa [h] at this
      · exact .refl s _

theorem State.waitReplace_only (s : State) (st : StreamId) : s.Only [.waiters] (s.waitReplace st) := by
  unfold State.waitReplace; split <;> intro f hf <;> cases f <;> first | rfl | simp at hf

theorem State.dropReplaceHead_only (s : State) (st : StreamId) : s.Only [.lines, .waiters] (s.dropReplaceHead st) := by
  unfold State.dropReplaceHead; dsimp only; split
  · intro f hf; cases f <;> first | rfl | simp at hf
  · exact (s.modLines_only _ _).mono (by decide)

theorem State.attemptReplace_only (s : State) (st : StreamId) : s.Only [.units, .freeLists, .streams, .contexts, .lines, .pool, .waiters, .credit, .groups, .dies, .link] (s.attemptReplace st).1 := by
  unfold State.attemptReplace; dsimp only; split
  · exact (s.applyPending_only st).mono (by decide)
  · split
    · exact ((State.Only.refl s _).andThen (s.applyPending_only st)).andThen (State.dropReplaceHead_only _ _)
    · split
      · next h =>
          exact (((State.Only.refl s _).andThen (s.applyPending_only st)).andThen
            (State.tryPlace_only _ _ _ _ _ _ h)).andThen (State.dropReplaceHead_only _ _)
      · exact ((State.Only.refl s _).andThen (s.applyPending_only st)).andThen (State.waitReplace_only _ _)

theorem State.replaceRun_only (n : Nat) (s : State) (st : StreamId) :
    s.Only [.units, .freeLists, .streams, .contexts, .lines, .pool, .waiters, .credit, .groups, .dies, .link] (State.replaceRun n s st) := by
  induction n generalizing s with
  | zero => exact .refl s _
  | succ n ih =>
    unfold State.replaceRun
    split
    · next h => exact State.Only.andThen (by have := s.attemptReplace_only st; rwa [h] at this) (ih _) (by decide)
    · next h => have := s.attemptReplace_only st; rwa [h] at this

theorem State.serveList_only (s : State) (st : StreamId) : s.Only [.units, .freeLists, .streams, .contexts, .lines, .pool, .waiters, .credit, .groups, .dies, .link] (s.serveList st) := by
  have h := s.settleSlots_only st
  unfold State.serveList; dsimp only
  generalize s.settleSlots st = u at h ⊢
  exact (h.mono (by decide)).andThen (State.replaceRun_only _ u st)

theorem State.serveEntry_only (s : State) (e : WaitEntry) : s.Only [.units, .freeLists, .streams, .contexts, .lines, .pool, .waiters, .credit, .groups, .dies, .link] (s.serveEntry e) := by
  have h := s.settleSlots_only e.stream
  unfold State.serveEntry
  generalize s.settleSlots e.stream = u at h ⊢
  exact (h.mono (by decide)).andThen (State.placeRun_only _ u _ _ _)

theorem State.examineCalled_only (s : State) (p : StreamId → Bool) : s.Only [.units, .freeLists, .streams, .contexts, .lines, .pool, .waiters, .credit, .groups, .dies, .link] (s.examineCalled p) := by
  exact State.Only.foldl _ _ _ State.serveEntry_only s

theorem State.examineWork_only (s : State) (p : StreamId → Bool) : s.Only [.units, .freeLists, .streams, .contexts, .lines, .pool, .waiters, .credit, .groups, .dies, .link] (s.examineWork p) := by
  exact ((((State.Only.refl s _).andThen (s.callWork_only p)).andThen
    (State.Only.foldl [.units, .freeLists, .streams, .contexts, .lines, .pool, .waiters, .credit, .groups, .dies, .link] _ _ (fun s w => s.serveList_only _) _)).andThen
    (State.Only.foldl [.units, .freeLists, .streams, .contexts, .lines, .pool, .waiters, .credit, .groups, .dies, .link] _ _ State.serveEntry_only _)).andThen (State.examineCalled_only _ _)

theorem State.examineGroup_only (s : State) (g : GroupId) : s.Only [.units, .freeLists, .streams, .contexts, .lines, .pool, .waiters, .credit, .groups, .dies, .link] (s.examineGroup g) := by
  exact s.examineWork_only _

theorem State.examineFreed_only (s : State) (u : Nat) : s.Only [.units, .freeLists, .streams, .contexts, .lines, .pool, .waiters, .credit, .groups, .dies, .link] (s.examineFreed u) := by
  unfold State.examineFreed; split
  · split
    · exact s.examineGroup_only _
    · exact .refl s _
  · exact .refl s _

theorem State.slotLower_only (s : State) (u : Nat) : s.Only [.streams] (s.slotLower u) := by
  unfold State.slotLower; split
  · exact .refl s _
  · exact s.modStream_only _ _

theorem State.freeEntry_only (s : State) (e : PoolEntry) : s.Only [.pool, .dies] (s.freeEntry e) := by
  exact ((State.Only.refl s _).andThen (s.setPool_only _)).andThen (State.modDie_only _ _ _)

theorem State.relocDone_only (s : State) (x : WriteContext) : s.Only [.units, .streams, .contexts, .groups, .dies] (s.relocDone x) := by
  unfold State.relocDone; split
  · exact .refl s _
  · split
    · exact (s.modContext_only _ _).mono (by decide)
    · split
      · dsimp only; split
        · exact (((State.Only.refl s _).andThen (s.lowerValid_only _ _)).andThen (State.wakeUnit_only _ _)).andThen
            (State.checkEmpty_only _ _)
        · exact (s.lowerValid_only _ _).mono (by decide)
      · exact (s.modContext_only _ _).mono (by decide)

theorem State.settleCheck_only (s : State) (u : Nat) : s.Only [.units, .streams, .groups, .dies] (s.settleCheck u) := by
  unfold State.settleCheck; split
  · exact .refl s _
  · split
    · exact ((State.Only.refl s _).andThen (s.wakeUnit_only _)).andThen (State.checkEmpty_only _ _)
    · exact .refl s _

theorem State.pageDone_only (s : State) (k : PageKey) : s.Only [.units, .streams, .contexts, .pool, .groups, .dies] (s.pageDone k) := by
  unfold State.pageDone; split
  · exact .refl s _
  · dsimp only
    refine State.Only.andThen ?_ (State.settleCheck_only _ _)
    split
    · exact (((((State.Only.refl s _).andThen (s.freeEntry_only _)).andThen (State.modPage_only _ _ _)).andThen
        (State.modUnit_only _ _ _)).andThen (State.slotLower_only _ _)).andThen (State.relocDone_only _ _)
    · exact ((((State.Only.refl s _).andThen (s.freeEntry_only _)).andThen (State.modPage_only _ _ _)).andThen
        (State.modUnit_only _ _ _)).andThen (State.slotLower_only _ _)

theorem State.failPage_only (s : State) (r : PageRef) : s.Only [.contexts] (s.failPage r) := by
  unfold State.failPage; split
  · exact .refl s _
  · split
    · exact s.modPage_only _ _
    · exact ((State.Only.refl s _).andThen (s.modPage_only _ _)).andThen (State.modContext_only _ _ _)

theorem State.programFailed_only (s : State) (k : PageKey) : s.Only [.units, .streams, .contexts, .lines, .pool, .waiters, .credit, .groups, .dies] (s.programFailed k) := by
  unfold State.programFailed; split
  · dsimp only
    have h : ∀ (l : List PoolEntry) (u : State), u.Only [.contexts, .pool, .dies] (l.foldl (fun s x =>
        (s.freeEntry x).modPage x.ref (fun p => { p with outcome := .unplaced })) u) := fun l u =>
      State.Only.foldl [.contexts, .pool, .dies] _ _ (fun s x => ((State.Only.refl s _).andThen (s.freeEntry_only x)).andThen
        (State.modPage_only _ _ _)) u
    split
    · exact (((((((State.Only.refl s _).andThen (s.failUnit_only k.unit k.index)).andThen (State.freeEntry_only _ _)).andThen
        (State.failPage_only _ _)).andThen (h _ _)).andThen (State.modLines_only _ _ _)).andThen
        (State.emptySlot_only _ _ _)).andThen (State.applyPending_only _ _)
    · exact (((((State.Only.refl s _).andThen (s.failUnit_only k.unit k.index)).andThen (State.freeEntry_only _ _)).andThen
        (State.failPage_only _ _)).andThen (h _ _)).andThen (State.modLines_only _ _ _)
  · exact .refl s _

/-! ## The Credit Accountant -/

theorem State.charge_only (s : State) (t : Tenant) (n : Nat) : s.Only [.credit] (s.charge t n) := by
  unfold State.charge; split
  · exact s.modBalance_only _ _
  · exact .refl s _

theorem State.countPages_only (s : State) (t : Tenant) (c : WriteClass) (n : Nat) : s.Only [.tenants] (s.countPages t c n) := by
  exact s.modTenant_only _ _

theorem State.joinLine_only (s : State) (st : StreamId) (cls : WriteClass) (c : ContextId) : s.Only [.lines] (s.joinLine st cls c) := by
  exact s.modLines_only _ _

theorem State.admitPages_only (s : State) (st : StreamId) (t : Tenant) (cls : WriteClass) (c : ContextId) (n : Nat) : s.Only [.tenants, .lines, .credit] (s.admitPages st t cls c n) := by
  exact (((State.Only.refl s _).andThen (s.charge_only _ _)).andThen (State.countPages_only _ _ _ _)).andThen
    (State.joinLine_only _ _ _ _)

theorem State.admitEntry_only (s : State) (e : WaitEntry) : s.Only [.tenants, .lines, .credit] (s.admitEntry e) := by
  exact ((State.Only.refl s _).andThen (s.modWaitList_only _)).andThen (State.admitPages_only _ _ _ _ _ _)

theorem State.examineEntry_only (s : State) (e : WaitEntry) : s.Only [.tenants, .lines, .credit] (s.examineEntry e) := by
  unfold State.examineEntry; split
  · exact s.admitEntry_only _
  · exact .refl s _

theorem State.examineCredit_only (s : State) (t : Tenant) : s.Only [.tenants, .lines, .credit] (s.examineCredit t) := by
  exact State.Only.foldl _ _ _ State.examineEntry_only s

theorem State.settleCredit_only (s : State) (t : Tenant) : s.Only [.tenants, .lines, .credit] (s.settleCredit t) := s.examineCredit_only t

theorem State.settleRefills_only (s : State) : s.Only [.tenants, .lines, .credit] s.settleRefills := by
  exact State.Only.foldl _ _ _ State.settleCredit_only s

theorem State.creditArrival_only (s : State) (x : WriteContext) : s.Only [.tenants, .lines, .credit] (s.creditArrival x) := by
  unfold State.creditArrival; dsimp only
  refine State.Only.andThen (fs := [.tenants, .lines, .credit]) (s.settleCredit_only (s.streams.get x.stream).tenant) ?_
  generalize s.settleCredit (s.streams.get x.stream).tenant = u
  split
  · exact u.admitPages_only _ _ _ _ _
  · split
    · exact u.admitPages_only _ _ _ _ _
    · split
      · exact u.admitPages_only _ _ _ _ _
      · exact (u.modWaitList_only _).mono (by decide)

theorem State.admitStream_only (s : State) (st : StreamId) : s.Only [.tenants, .lines, .credit] (s.admitStream st) := by
  exact State.Only.foldl _ _ _ State.admitEntry_only s

theorem State.admitTenant_only (s : State) (t : Tenant) : s.Only [.tenants, .lines, .credit] (s.admitTenant t) := by
  exact State.Only.foldl _ _ _ State.admitEntry_only s

/-! ## The Reclaim Controller -/

theorem State.setOrder_only (s : State) (r : NoticeRef) (o : Option Order) : s.Only [.groups] (s.setOrder r o) := by
  intro f hf; cases f <;> first | rfl | simp at hf

theorem State.addExpiry_only (s : State) (o : Order) : s.Only [.reclaim] (s.addExpiry o) := by
  intro f hf; cases f <;> first | rfl | simp at hf

theorem State.writeNotice_only (s : State) (p : MasterId) (r : NoticeRef) : s.Only [.groups, .masters] (s.writeNotice p r) := by
  unfold State.writeNotice; split
  · exact .refl s _
  · split
    · exact .refl s _
    · exact ((State.Only.refl s _).andThen (s.modRingMaster_only _ _)).andThen (State.setOrder_only _ _ _)
    · exact ((State.Only.refl s _).andThen (s.modRingMaster_only _ _)).andThen (State.setOrder_only _ _ _)

theorem State.writeOldest_only (s : State) (p : MasterId) : s.Only [.groups, .reclaim, .masters] (s.writeOldest p) := by
  unfold State.writeOldest; split
  · exact .refl s _
  · split
    · exact ((State.Only.refl s _).andThen (s.modNotices_only _ _)).andThen (State.writeNotice_only _ _ _)
    · exact .refl s _

theorem State.flushNotices_only (n : Nat) (s : State) (p : MasterId) :
    s.Only [.groups, .reclaim, .masters] (State.flushNotices n s p) := by
  induction n generalizing s with
  | zero => exact .refl s _
  | succ n ih => exact (s.writeOldest_only p).andThen (ih _)

theorem State.offerNotice_only (s : State) (p : MasterId) (r : NoticeRef) : s.Only [.groups, .reclaim, .masters] (s.offerNotice p r) := by
  exact ((State.Only.refl s _).andThen (s.modNotices_only _ _)).andThen (State.flushNotices_only _ _ _)

theorem State.dropNotice_only (s : State) (p : MasterId) (r : NoticeRef) : s.Only [.reclaim] (s.dropNotice p r) := by
  intro f hf; cases f <;> first | rfl | simp at hf

theorem State.closeOrder_only (s : State) (r : NoticeRef) (o : Order) (c : OrderCause) : s.Only [.units, .streams, .groups, .reclaim, .dies, .masters] (s.closeOrder r o c) := by
  exact ((((State.Only.refl s _).andThen (s.returnToSealed_only _)).andThen (State.setOrder_only _ _ _)).andThen
    (State.addExpiry_only _ _)).andThen (State.offerNotice_only _ _ _)

theorem State.withdrawOrder_only (s : State) (r : NoticeRef) (o : Order) : s.Only [.units, .streams, .groups, .reclaim, .dies] (s.withdrawOrder r o) := by
  exact (((State.Only.refl s _).andThen (s.returnToSealed_only _)).andThen (State.dropNotice_only _ _ _)).andThen
    (State.setOrder_only _ _ _)

theorem State.cancelSlot_only (s : State) (r : NoticeRef) : s.Only [.units, .streams, .groups, .reclaim, .dies, .masters] (s.cancelSlot r) := by
  unfold State.cancelSlot; split
  · exact .refl s _
  · split
    · exact (s.withdrawOrder_only _ _).mono (by decide)
    · exact s.closeOrder_only _ _ _
    · exact .refl s _

theorem State.fenceSlot_only (s : State) (p : MasterId) (r : NoticeRef) : s.Only [.units, .streams, .groups, .reclaim, .dies] (s.fenceSlot p r) := by
  unfold State.fenceSlot; split
  · exact .refl s _
  · split
    · split
      · exact s.withdrawOrder_only _ _
      · exact ((State.Only.refl s _).andThen (s.returnToSealed_only _)).andThen (State.setOrder_only _ _ _)
      · exact ((State.Only.refl s _).andThen (s.dropNotice_only _ _)).andThen (State.setOrder_only _ _ _)
    · exact .refl s _

theorem State.setReclaim_only (s : State) (r : ReclaimShared) : s.Only [.reclaim] { s with reclaim := r } := by
  intro f hf; cases f <;> first | rfl | simp at hf

theorem State.fenceOrders_only (s : State) (p : MasterId) : s.Only [.units, .streams, .groups, .reclaim, .dies] (s.fenceOrders p) := by
  exact ((State.Only.foldl [.units, .streams, .groups, .reclaim, .dies] _ _ (fun s r => s.fenceSlot_only p r) s).andThen (State.modNotices_only _ _ _)).andThen
    (State.setReclaim_only _ _)

theorem State.resetSlot_only (s : State) (r : NoticeRef) : s.Only [.units, .streams, .groups, .reclaim, .dies] (s.resetSlot r) := by
  unfold State.resetSlot; split
  · exact .refl s _
  · split
    · exact s.withdrawOrder_only _ _
    · exact (((State.Only.refl s _).andThen (s.returnToSealed_only _)).andThen (State.addExpiry_only _ _)).andThen
        (State.setOrder_only _ _ _)
    · exact ((State.Only.refl s _).andThen (s.dropNotice_only _ _)).andThen (State.setOrder_only _ _ _)

theorem State.resetOrders_only (s : State) (g : GroupId) : s.Only [.units, .streams, .groups, .reclaim, .dies] (s.resetOrders g) := by
  exact State.Only.foldl _ _ _ (fun s k => s.resetSlot_only _) s

/-! ## Ends of requests, drains and the fence -/

theorem State.flagOverrun_only (s : State) : s.Only [.mgmt] (s.flagOverrun) := by
  intro f hf; cases f <;> first | rfl | simp at hf

theorem State.flagStray_only (s : State) : s.Only [.mgmt] (s.flagStray) := by
  intro f hf; cases f <;> first | rfl | simp at hf

theorem State.flagPlw_only (s : State) : s.Only [.mgmt] (s.flagPlw) := by
  intro f hf; cases f <;> first | rfl | simp at hf

theorem State.stopIssue_only (s : State) : s.Only [.groups] s.stopIssue := by
  intro f hf; cases f <;> first | rfl | simp at hf

theorem State.flagDieFault_only (s : State) (d : DieId) (c : FaultCause) : s.Only [.mgmt] (s.flagDieFault d c) := by
  intro f hf; cases f <;> first | rfl | simp at hf

theorem State.flagFence_only (s : State) (p : MasterId) (c : FenceCause) : s.Only [.mgmt] (s.flagFence p c) := by
  intro f hf; cases f <;> first | rfl | simp at hf

theorem State.offerManagement_only (s : State) (k : Nat) (b : List Byte) : s.Only [.mport, .mgmt] (s.offerManagement k b) := by
  unfold State.offerManagement; split
  · exact (s.modRingManagement_only _).mono (by decide)
  · exact s.flagOverrun_only.mono (by decide)

theorem State.releaseSlot_only (s : State) (p : MasterId) (i : ReplySlot) : s.Only [.masters] (s.releaseSlot p i) := by
  exact s.modRingMaster_only _ _

theorem State.answerWrite_only (s : State) (x : WriteContext) : s.Only [.masters] (s.answerWrite x) := by
  unfold State.answerWrite; split
  · exact s.releaseSlot_only _ _
  · exact s.replyMaster_only _ _ _ _ _ _ _

theorem State.leaveShare_only (s : State) (x : WriteContext) : s.Only [.credit] (s.leaveShare x) := by
  unfold State.leaveShare; split
  · exact s.releaseShare_only _
  · exact .refl s _

theorem State.requestGone_only (s : State) (st : StreamId) : s.Only [.units, .streams, .waiters, .credit, .groups, .dies] (s.requestGone st) := by
  unfold State.requestGone; dsimp only; split
  · exact ((State.Only.refl s _).andThen (s.modStream_only _ _)).andThen (State.sealAllSlots_only _ _)
  · exact (s.modStream_only _ _).mono (by decide)

theorem State.dropContext_only (s : State) (c : ContextId) : s.Only [.contexts] (s.dropContext c) := by
  intro f hf; cases f <;> first | rfl | simp at hf

theorem State.endRequest_only (s : State) (x : WriteContext) : s.Only [.units, .streams, .contexts, .waiters, .credit, .groups, .dies, .masters] (s.endRequest x) := by
  exact ((((State.Only.refl s _).andThen (s.answerWrite_only _)).andThen (State.leaveShare_only _ _)).andThen
    (State.dropContext_only _ _)).andThen (State.requestGone_only _ _)

theorem State.endDrain_only (s : State) (st : StreamId) : s.Only [.units, .streams, .waiters, .credit, .groups, .dies, .masters] (s.endDrain st) := by
  unfold State.endDrain; dsimp only; split
  · exact (((State.Only.refl s _).andThen (s.sealAllSlots_only st)).andThen (State.modStream_only _ _ _)).andThen
      (State.replyMaster_only _ _ _ _ _ _ _ _)
  · exact ((State.Only.refl s _).andThen (s.sealAllSlots_only st)).andThen (State.modStream_only _ _ _)

theorem State.parkStream_only (s : State) (st : StreamId) : s.Only [.units, .streams, .waiters, .credit, .groups, .dies, .masters] (s.parkStream st) := by
  unfold State.parkStream; dsimp only
  have a := ((((State.Only.refl s [.units, .streams, .waiters, .credit, .groups, .dies, .masters]).andThen (s.sealAllSlots_only st)).andThen
    (State.emptyYoung_only _ st))).andThen (State.modStream_only _ st (fun r => { r with
      state := .parked, port := none, drain := none }))
  split
  · exact a.andThen (State.releaseSlot_only _ _ _)
  · exact a

theorem State.setContexts_only (s : State) (l : List WriteContext) : s.Only [.contexts] { s with contexts := l } := by
  intro f hf; cases f <;> first | rfl | simp at hf

theorem State.setCredit_only (s : State) (c : Credit) : s.Only [.credit] { s with credit := c } := by
  intro f hf; cases f <;> first | rfl | simp at hf

theorem State.orphanContexts_only (s : State) (p : MasterId) : s.Only [.contexts, .lines] (s.orphanContexts p) := by
  exact ((State.Only.foldl [.lines] _ _ (fun (s : State) (x : WriteContext) => s.leaveLines_only x.stream x.id) s).mono (by decide)).andThen
    (State.setContexts_only _ _)

theorem State.endOrphans_only (s : State) (p : MasterId) : s.Only [.units, .streams, .contexts, .waiters, .credit, .groups, .dies, .masters] (s.endOrphans p) := by
  exact State.Only.foldl _ _ _ State.endRequest_only s

theorem State.fenceCredit_only (s : State) (p : MasterId) : s.Only [.tenants, .lines, .credit] (s.fenceCredit p) := by
  exact (((State.Only.refl s _).andThen (s.modWaitList_only _)).andThen (State.setCredit_only _ _)).andThen
    (State.Only.foldl [.tenants, .lines, .credit] _ _ State.examineCredit_only _)

theorem State.fenceWindow_only (s : State) (p : MasterId) (d : DieId) : s.Only [.dies, .masters] (s.fenceWindow p d) := by
  unfold State.fenceWindow; dsimp only; split
  · exact ((State.Only.refl s _).andThen (s.modDie_only _ _)).andThen (State.releaseSlot_only _ _ _)
  · exact (s.modDie_only _ _).mono (by decide)

theorem State.fence_only (s : State) (p : MasterId) (c : FenceCause) : s.Only [.units, .streams, .tenants, .contexts, .lines, .waiters, .credit, .groups, .reclaim, .dies, .link, .masters, .mport, .mgmt] (s.fence p c) := by
  exact (((((((((((State.Only.refl s _).andThen (s.modMaster_only p _)).andThen (State.flagFence_only _ _ _)).andThen
    (State.Only.foldl [.units, .streams, .waiters, .credit, .groups, .dies, .masters] _ _ State.parkStream_only _)).andThen (State.orphanContexts_only _ _)).andThen
    (State.fenceCredit_only _ _)).andThen (State.endOrphans_only _ _)).andThen (State.fenceOrders_only _ _)).andThen
    (State.Only.foldl [.dies, .masters] _ _ (fun s d => s.fenceWindow_only p d) _)).andThen (State.modRingMaster_only _ _ _)).andThen
    (State.offerManagement_only _ _ _)).andThen (State.serveSuspended_only _)

theorem State.dueFence_only (s : State) (p : MasterId) : s.Only [.units, .streams, .tenants, .contexts, .lines, .waiters, .credit, .groups, .reclaim, .dies, .link, .masters, .mport, .mgmt] (s.dueFence p) := by
  unfold State.dueFence; split
  · exact s.fence_only p _
  · exact .refl s _

end Sys2Proof.Machine
end

