-- ==== Sys2Proof/Laws/Waiting.lean ====
section
/-!
SUPPORT. What an examination of waiting work does (R55): serving a re-placement list or a SPACE entry, and the examination as a whole,
in the terms of `State.Examined`; and the seals and fences that a tick has made due (R57, R159).
-/

namespace Sys2Proof.Machine

/-! ## Due seals -/

/-- Where no seal is due on a stream's slots, nothing comes before its placements (R57). -/
theorem State.settleSlots_none (s : State) (st : StreamId) (h : s.NoSealDue st) : s.settleSlots st = s := by
  have one : ∀ q, s.dueSeal st q = s := fun q => by
    unfold State.dueSeal; split
    · next o ho =>
      have hq := h q
      simp only [ho, Option.any_some] at hq
      simp [hq]
    · rfl
  unfold State.settleSlots
  induction (List.finRange 8) with
  | nil => rfl
  | cons q qs ih => rw [List.foldl_cons, one q]; exact ih

/-! ## Lists and entries -/

/-- Placing one page leaves every line as it is. -/
theorem State.tryPlace_lines (s m : State) (st : StreamId) (k : PlaceKind) (x : WriteContext) (n : Nat)
    (h : s.tryPlace st k x n = some m) : m.lines = s.lines := State.tryPlace_only _ _ _ _ _ _ h .lines (by decide)

/-- A pending profile that takes effect leaves the lines and the contexts as they are. -/
theorem State.applyPending_lines (s : State) (st : StreamId) : (s.applyPending st).lines = s.lines :=
  s.applyPending_only st .lines (by decide)

theorem State.applyPending_context (s : State) (st : StreamId) (c : ContextId) : (s.applyPending st).context c = s.context c := by
  have h : (s.applyPending st).contexts = s.contexts := s.applyPending_only st .contexts (by decide)
  simp [State.context, h]

/-- A list loses its head when a page leaves it (R65). -/
theorem State.dropReplaceHead_replace (s : State) (st : StreamId) :
    ((s.dropReplaceHead st).lines.get st).replace = (s.lines.get st).replace.tail := by
  unfold State.dropReplaceHead; dsimp only; split <;> simp

/-- What serving a re-placement list does, page by page (R55, R65). -/
theorem State.replaceRun_served (n : Nat) (s : State) (st : StreamId) (h : (s.lines.get st).replace.length = n) :
    State.ListServed st s (s.replaceRun n st) := by
  induction n generalizing s with
  | zero => exact .emptied (List.length_eq_zero_iff.mp h)
  | succ n ih =>
    obtain ⟨ref, rest, hl⟩ := List.exists_cons_of_length_eq_add_one h
    have hrest : rest.length = n := by simpa [hl] using h
    have hhead : (s.lines.get st).replace.head? = some ref := by simp [hl]
    have next : ∀ m : State, m.lines = s.lines → ((m.dropReplaceHead st).lines.get st).replace.length = n := fun m hm => by
      rw [State.dropReplaceHead_replace, hm, hl]; simpa using hrest
    simp only [State.replaceRun, State.attemptReplace, State.applyPending_lines, hhead, State.applyPending_context]
    cases hx : s.context ref.ctx with
    | none => exact .gone hhead hx (ih _ (next _ (s.applyPending_lines st)))
    | some x =>
      cases hp : (s.applyPending st).tryPlace st .replacement x ref.page with
      | none => simp only [hp]; exact .stopped hhead hx hp
      | some m =>
        simp only [hp]
        exact .placed hhead hx hp (ih _ (next _ ((State.tryPlace_lines _ _ _ _ _ _ hp).trans (s.applyPending_lines st))))

/-- What serving a SPACE entry does, page by page (R54, R55). -/
theorem State.placeRun_served (n : Nat) (s : State) (e : WaitEntry) :
    State.EntryServed e n s (s.placeRun n e.stream e.cls e.ctx) := by
  induction n generalizing s with
  | zero => exact .enough
  | succ n ih =>
    simp only [State.placeRun]
    cases hx : s.headContext e.stream e.cls with
    | none => exact .passed (fun x hh => by have h := hh.1; rw [hx] at h; cases h)
    | some x =>
      by_cases hc : x.id = e.ctx ∧ (s.lines.get e.stream).replace.isEmpty = true
      · have hh : s.Heads e x := ⟨hx, hc.1, List.isEmpty_iff.mp hc.2⟩
        simp only [if_pos hc, State.attemptFresh]
        cases hp : (s.applyPending e.stream).tryPlace e.stream (freshKind x.cls) x x.nextFresh with
        | none => exact .stopped hh hp
        | some m => exact .placed hh hp (ih _)
      · simp only [if_neg hc]
        refine .passed (fun y hh => hc ?_)
        obtain ⟨hy, hid, hr⟩ := hh
        rw [hx] at hy; cases hy
        exact ⟨hid, by simp [hr]⟩

/-- What serving a list in an examination does. -/
theorem State.serveList_turn (s : State) (w : ReplaceWaiter) : State.ListTurn w s (s.serveList w.stream) := by
  unfold State.ListTurn State.serveList; dsimp only
  generalize s.settleSlots w.stream = u
  exact State.replaceRun_served _ u w.stream rfl

/-- What serving an entry in an examination does. -/
theorem State.serveEntry_turn (s : State) (e : WaitEntry) : State.EntryTurn e s (s.serveEntry e) := by
  unfold State.EntryTurn State.serveEntry
  generalize s.settleSlots e.stream = u
  exact State.placeRun_served 64 u e

/-- A fold whose every step acts as a relation says acts on the list in turn. -/
theorem InTurn.foldl {α : Type} {act : α → State → State → Prop} {f : State → α → State} (h : ∀ s a, act a s (f s a)) (l : List α) (s : State) :
    InTurn act l s (l.foldl f s) := by
  induction l generalizing s with
  | nil => exact .nil s
  | cons a l ih => exact .cons (h s a) (ih _)

/-- What an examination does (R55). -/
theorem State.examineWork_examined (s : State) (p : StreamId → Bool) : s.Examined p (s.examineWork p) := by
  unfold State.Examined State.examineWork State.examineCalled
  dsimp only
  exact ⟨_, _, InTurn.foldl State.serveList_turn _ _, InTurn.foldl State.serveEntry_turn _ _, InTurn.foldl State.serveEntry_turn _ _⟩

/-! ## Where nothing waits -/

/-- An examination where no page of the streams waits for a place changes nothing. -/
theorem State.examineWork_none (s : State) (p : StreamId → Bool) (hw : ∀ w ∈ s.waiters, p w.stream = false)
    (he : ∀ e ∈ s.credit.waitList, e.reason = .space → p e.stream = false) : s.examineWork p = s := by
  have hl : s.waiters.filter (fun w => p w.stream) = [] := by simpa using hw
  have hc : s.callWork p = s := by
    have h1 : s.waiters.map (fun w => if p w.stream = true then { w with examine := true } else w) = s.waiters := by
      refine (List.map_congr_left (fun w h => ?_)).trans (List.map_id _); simp [hw w h]
    have h2 : s.credit.waitList.map (fun e => if e.reason = .space ∧ p e.stream = true then { e with examine := true } else e) =
        s.credit.waitList := by
      refine (List.map_congr_left (fun e h => ?_)).trans (List.map_id _)
      have := he e h
      by_cases hr : e.reason = .space <;> simp_all
    simp only [State.callWork, State.callSpace, State.callReplace, h1, h2]
  have hn : s.credit.waitList.filter (fun e => decide (e.reason = .space) && p e.stream) = [] := by
    simp only [List.filter_eq_nil_iff]; intro e h; have := he e h; by_cases hr : e.reason = .space <;> simp_all
  have hd : s.credit.waitList.filter (fun e => decide (e.reason = .space) && e.examine && p e.stream) = [] := by
    simp only [List.filter_eq_nil_iff]; intro e h; have := he e h; by_cases hr : e.reason = .space <;> simp_all
  simp [State.examineWork, hl, hn, hc, State.examineCalled, hd]

end Sys2Proof.Machine
end

