-- ==== Sys2Proof/Laws/Operations.lean ====
section
/-!
SUPPORT. What the operations do that several statements rest on: a command whose request is at the head of its ring, notices and
credit where nothing waits, dies at rest, the granting and keeping of read windows, descriptors handed over, and orders issued.
-/

namespace Sys2Proof.Machine

/-! ## Commands that take a request -/

/-- A request command on a ring with a request of its kind at the head is the act on the state with the request taken (R152). -/
theorem exec_of_ready (s : State) (p : PortId) (k : Nat) (acc : Nat → Bool) (act : Request → State → State) (c : Instr)
    (he : exec c s = s.onRequest p acc act) (h : s.Ready p k) (ha : acc k = true) :
    exec c s = .next (act (s.headRequest p) (s.taken p)) := by rw [he, State.onRequest_ready _ _ _ _ _ h ha]

/-- The same for a command that takes requests of one kind. -/
theorem exec_of_kind (s : State) (p : PortId) (k : Nat) (act : Request → State → State) (c : Instr)
    (he : exec c s = s.onRequest p (fun x => decide (x = k)) act) (h : s.Ready p k) :
    exec c s = .next (act (s.headRequest p) (s.taken p)) := by rw [he, State.onRequest_ready _ _ _ _ _ h (by simp)]

/-- A request that is answered at once with no other effect leaves all but its port as it was. -/
theorem onlyAnswered_of_exec {c : Instr} {s : State} {p : PortId} {st : Status} {body : List Byte} {words : List Word}
    (h : exec c s = .next ((s.headRequest p).answer (s.taken p) st body words)) :
    ∃ t, exec c s = .next t ∧ s.OnlyAnswered p st body words t := ⟨_, h, State.answered_at_once _ _ _ _ _⟩

/-- A request taken and left unanswered, with effects that leave the ports alone, holds its reservation and nothing else. -/
theorem pledged_of_ports (s t : State) (p : PortId) (hm : t.masters = (s.taken p).masters) (hp : t.mport = (s.taken p).mport) : s.Pledged p t := by
  have hring : ∀ q, t.ring q = (s.taken p).ring q := by
    intro q; cases q with
    | master m => show (t.masters.get m).ring = ((s.taken p).masters.get m).ring; rw [hm]
    | management => exact hp
  exact ⟨hring p, fun x hx => by rw [hring, State.taken_ring_ne _ _ _ hx]⟩

/-- Taking a request raises the reply holdings by 1. -/
theorem State.taken_replyHoldings (s : State) (p : PortId) : ((s.taken p).ring p).replyHoldings = (s.ring p).replyHoldings + 1 := by
  rw [State.taken_ring]; rfl

/-! ## Notices, credit and rest -/

/-- With no notice waiting for a port, none is written. -/
theorem State.flushNotices_nil (n : Nat) (s : State) (p : MasterId) (h : s.reclaim.notices.get p = []) : State.flushNotices n s p = s := by
  induction n with
  | zero => rfl
  | succ n ih => simp only [State.flushNotices, State.writeOldest, h, ih]

/-- An entry whose tenant has no credit is left as it stands (R73). -/
theorem State.examineEntry_noCredit (s : State) (e : WaitEntry) (h : s.credit.balances.get e.tenant ≤ 0) : s.examineEntry e = s := by
  unfold State.examineEntry; rw [if_neg]; omega

/-- Where no examination is due for a tenant, examining it changes nothing (R73). -/
theorem State.examineCredit_none (s : State) (n : Tenant) (h : s.NoCreditDue n) : s.examineCredit n = s := by
  unfold State.examineCredit State.creditEntries
  rcases h with h | h
  · have : ∀ l : List WaitEntry, (∀ e ∈ l, e.tenant = n) → l.foldl State.examineEntry s = s := fun l => by
      induction l with
      | nil => exact fun _ => rfl
      | cons e l ih =>
        intro hl
        rw [List.foldl_cons, State.examineEntry_noCredit s e (by rw [hl e (.head _)]; exact h)]
        exact ih (fun x hx => hl x (.tail _ hx))
    exact this _ (fun e he => by simp_all)
  · rw [List.filter_eq_nil_iff.mpr (fun e he => by simpa using h e he)]; rfl

/-- What a tick examines before its refills (R72, R73). -/
theorem State.settleRefills_examined (s : State) : s.TenantsExamined s.settleRefills := by
  unfold State.TenantsExamined State.settleRefills
  exact InTurn.foldl (act := fun n u v => exec (.creditAdmission n) u = .next v) (fun _ _ => rfl) _ s

/-- Where no examination is due for any tenant, a tick examines nothing. -/
theorem State.settleRefills_none (s : State) (h : ∀ n, s.NoCreditDue n) : s.settleRefills = s := by
  unfold State.settleRefills
  induction List.finRange 64 with
  | nil => rfl
  | cons n l ih => rw [List.foldl_cons, State.settleCredit, s.examineCredit_none n (h n)]; exact ih

/-- Every configured die is at rest when each is IDLE or FAULTED. -/
theorem State.allAtRest_iff (s : State) : s.allAtRest = true ↔ ∀ d : DieId, d.val < s.dieCount → (s.dies.get d).state = .idle ∨ (s.dies.get d).state = .faulted := by
  simp [State.allAtRest, DieRecord.atRest]
  constructor
  · intro h d hd; rcases h d with h | h
    · omega
    · exact h
  · intro h d; by_cases hd : d.val < s.dieCount
    · right; exact h d hd
    · left; omega

/-! ## Reports to the Reclaim Controller, and records replaced -/

/-- A wake event of a unit reaches the group that the unit lies in, and no other (R92). -/
theorem State.wakeUnit_groups (s : State) (u : Nat) (g : GroupId) :
    (s.wakeUnit u).groups.get g = if s.groupOfUnit u = some g
      then (s.groups.get g).map (fun r => { r with reclaim := r.reclaim.wake }) else s.groups.get g := by
  unfold State.wakeUnit; split <;> rename_i h
  · rename_i k
    by_cases hk : g = k
    · subst hk; simp [State.wakeGroup, h]
    · simp [State.wakeGroup, h, hk, Ne.symm hk]
  · simp [h]

/-- The report of a unit's counts evaluates the activity of the group that the unit lies in, and of no other (R84). -/
theorem State.reportCounts_groups (s : State) (u : Nat) (g : GroupId) (c : GroupConfig) (k : ReclaimRecord)
    (h : s.groups.get g = some ⟨c, k⟩) :
    let sum := s.freeCount c + s.countUnits c .erasing + s.countUnits c .reclaim
    (s.reportCounts u).groups.get g = some ⟨c,
      if s.groupOfUnit u ≠ some g then k
      else if (k.active = true ∨ s.freeCount c ≤ c.low) ∧ sum < c.high then { k with active := true }
      else k.deactivate⟩ := by
  unfold State.reportCounts; dsimp only; split <;> rename_i hu
  · rename_i j
    by_cases hj : j = g
    · subst hj
      simp only [State.evaluateActivity, h, State.modReclaim_groups, Table.get_modify_self, Option.map_some, hu, ne_eq,
        not_true_eq_false, if_false, nextActivity]
      cases hk : k.active <;> simp
    · have hg : (s.evaluateActivity j).groups.get g = s.groups.get g := by
        unfold State.evaluateActivity; split
        · rfl
        · simp [Ne.symm hj]
      simp [hu, hj, hg, h]
  · simp [hu, h]

/-- A unit that exists has the record that replaces its own. -/
theorem State.replaceUnit_unit (s : State) (u : Nat) (old r : UnitRecord) (h : s.unit? u = some old) :
    (s.replaceUnit u r).unit? u = some r := by
  have hw : ∀ t : State, (t.wakeUnit u).unit? u = t.unit? u := fun t =>
    congrArg (fun us : List UnitRecord => us[u]?) (t.wakeUnit_only u .units (by decide))
  simp only [State.replaceUnit, h]; split <;> simp [hw, h]

/-- The replacement of a record wakes the unit's group exactly where it returns the unit's hold to NONE (R92). -/
theorem State.replaceUnit_groups (s : State) (u : Nat) (old r : UnitRecord) (g : GroupId) (h : s.unit? u = some old) :
    (s.replaceUnit u r).groups.get g = if (old.hold ≠ .noHold ∧ r.hold = .noHold) ∧ s.groupOfUnit u = some g
      then (s.groups.get g).map (fun x => { x with reclaim := x.reclaim.wake }) else s.groups.get g := by
  have hg : (s.modUnit u (fun _ => r)).groupOfUnit u = s.groupOfUnit u := rfl
  simp only [State.replaceUnit, h, UnitRecord.liftsHold, decide_eq_true_eq]
  by_cases hl : old.hold ≠ .noHold ∧ r.hold = .noHold
  · rw [if_pos hl, State.wakeUnit_groups, hg]; simp [hl.1, hl.2]
  · rw [if_neg hl, if_neg (fun k => hl k.1)]; rfl

/-- The group that a unit lies in depends on the geometry and the configured groups alone (R2, R172). -/
theorem State.groupOfUnit_congr (s t : State) (u : Nat) (hm : t.mgmt.geometry = s.mgmt.geometry) (hc : ∀ g, t.config g = s.config g) :
    t.groupOfUnit u = s.groupOfUnit u := by
  have hd : t.dieOf u = s.dieOf u := by simp only [State.dieOf, State.bpd, hm]
  have hf : t.config = s.config := funext hc
  simp only [State.groupOfUnit, State.groupOfDie, hd, hf]

/-- The number of a group's units in a state depends on the unit table and the geometry alone (R84). -/
theorem State.countUnits_congr (s t : State) (c : GroupConfig) (st : UnitState) (hu : t.units = s.units)
    (hm : t.mgmt.geometry = s.mgmt.geometry) :
    t.countUnits c st = s.countUnits c st := by
  have hg : t.groupUnits c = s.groupUnits c := by simp only [State.groupUnits, State.bpd, hm]
  have hs : t.unitState = s.unitState := by funext u; simp only [State.unitState, State.unit?, hu]
  simp only [State.countUnits, hg, hs]

/-- What applying a loaded record leaves of a group's record (R21, R84, R92): the unit's group is woken where the record returns the unit's
hold to NONE, and its activity follows its counts; every other group is as before. -/
theorem State.applyRecord_groups (s : State) (u : Nat) (old r : UnitRecord) (g : GroupId) (c : GroupConfig) (k : ReclaimRecord)
    (h : s.unit? u = some old) (hg : s.groups.get g = some ⟨c, k⟩) :
    let t := s.applyRecord u r
    let w := if old.hold ≠ .noHold ∧ r.hold = .noHold then k.wake else k
    let sum := t.freeCount c + t.countUnits c .erasing + t.countUnits c .reclaim
    t.groups.get g = some ⟨c,
      if s.groupOfUnit u ≠ some g then k
      else if (k.active = true ∨ t.freeCount c ≤ c.low) ∧ sum < c.high then { w with active := true }
      else w.deactivate⟩ := by
  let a := ((s.removeFree u).leaveYoung u).dropBackground u
  have oa : s.Only [.freeLists, .streams, .dies] a :=
    (((State.Only.refl s _).andThen (s.removeFree_only u)).andThen (State.leaveYoung_only _ u)).andThen (State.dropBackground_only _ u)
  let b := a.replaceUnit u r
  let v := match r.state with
    | .free => b.insertFree u
    | .unknown => b.handBackground u
    | _ => b
  have ov : b.Only [.units, .freeLists, .dies] v := by
    show b.Only _ (match r.state with | .free => b.insertFree u | .unknown => b.handBackground u | _ => b)
    split
    · exact (b.insertFree_only u).mono (by decide)
    · exact (b.handBackground_only u).mono (by decide)
    · exact .refl b _
  have ha : a.unit? u = some old := (congrArg (fun us : List UnitRecord => us[u]?) (oa .units (by decide))).trans h
  have ga : a.groups = s.groups := oa .groups (by decide)
  have ea : a.groupOfUnit u = s.groupOfUnit u :=
    State.groupOfUnit_congr s a u (congrArg Management.geometry (oa .mgmt (by decide))) (fun j => by simp only [State.config, ga])
  have hv : ∀ j, v.groups.get j = if (old.hold ≠ .noHold ∧ r.hold = .noHold) ∧ s.groupOfUnit u = some j
      then (s.groups.get j).map (fun x => { x with reclaim := x.reclaim.wake }) else s.groups.get j := by
    intro j; rw [show v.groups = b.groups from ov .groups (by decide), State.replaceUnit_groups a u old r j ha, ea, ga]
  have ev : v.groupOfUnit u = s.groupOfUnit u := by
    refine State.groupOfUnit_congr s v u ?_ (fun j => ?_)
    · exact congrArg Management.geometry
        ((ov .mgmt (by decide)).trans ((a.replaceUnit_only u r .mgmt (by decide)).trans (oa .mgmt (by decide))))
    · simp only [State.config, hv]; split
      · rw [Option.map_map]; rfl
      · rfl
  have hr := State.reportCounts_groups v u g c
    (if (old.hold ≠ .noHold ∧ r.hold = .noHold) ∧ s.groupOfUnit u = some g then k.wake else k) (by
      rw [hv]; split <;> simp [hg])
  have rep := v.reportCounts_only u
  have hf : (v.reportCounts u).freeCount c = v.freeCount c := by
    simp only [State.freeCount, show (v.reportCounts u).freeLists = v.freeLists from rep .freeLists (by decide)]
  have hn : ∀ st, (v.reportCounts u).countUnits c st = v.countUnits c st := fun st =>
    State.countUnits_congr v _ c st (rep .units (by decide)) (congrArg Management.geometry (rep .mgmt (by decide)))
  have hk : ∀ x : ReclaimRecord, x.wake.active = x.active := by
    intro x; unfold ReclaimRecord.wake; split <;> rfl
  show (v.reportCounts u).groups.get g = _
  rw [hr, show s.applyRecord u r = v.reportCounts u from rfl, ev]
  simp only [hf, hn]
  by_cases hu : s.groupOfUnit u = some g
  · by_cases hl : old.hold ≠ .noHold ∧ r.hold = .noHold
    · simp only [hu, hl, and_self, if_true, ne_eq, not_true_eq_false, if_false, not_false_eq_true, hk]
    · simp only [hu, hl, false_and, if_false, ne_eq, not_true_eq_false]
  · simp only [hu, and_false, if_false, ne_eq, not_false_eq_true, if_true]

/-! ## The background queue (R113) -/

/-- A queue that is not open takes no waiting unit. -/
theorem State.fillQueue_closed (s : State) (d : DieId) (h : s.queueOpen d = false) : s.fillQueue d = s := by
  simp [State.fillQueue, State.fillOne, h]

/-- With no unit waiting, filling a queue changes nothing. -/
theorem State.fillQueue_idle (s : State) (d : DieId) (h : (s.dies.get d).waiting = []) : s.fillQueue d = s := by
  simp [State.fillQueue, State.fillOne, h]

/-- A unit that is handed over while the queue is closed joins the waiting units (R113). -/
theorem State.handBackground_closed (s : State) (u : Nat) (h : s.queueOpen (s.dieOf u) = false) :
    (s.handBackground u).dies.get (s.dieOf u) =
      { s.dies.get (s.dieOf u) with waiting := insertNat u (s.dies.get (s.dieOf u)).waiting } := by
  have key : ∀ t : State, t.dies = s.dies → t.mgmt = s.mgmt → t.inputs = s.inputs →
      (((t.fillQueue (t.dieOf u)).addWaiting u).fillQueue (t.dieOf u)).dies.get (t.dieOf u) =
        { s.dies.get (s.dieOf u) with waiting := insertNat u (s.dies.get (s.dieOf u)).waiting } := by
    intro t hd hm hi
    have he : t.dieOf u = s.dieOf u := by simp only [State.dieOf, State.bpd, hm]
    have ho : ∀ v : State, (v.dies.get (s.dieOf u)).state = (s.dies.get (s.dieOf u)).state → v.mgmt = s.mgmt → v.inputs = s.inputs →
        v.queueOpen (s.dieOf u) = false := by
      intro v hs hm hi; rw [← h]; simp only [State.queueOpen, State.isRunning, State.plwAsserted, hs, hm, hi]
    rw [he, State.fillQueue_closed t _ (ho t (by rw [hd]) hm hi), State.fillQueue_closed]
    · simp [State.addWaiting, he, hd]
    · exact ho _ (by simp [State.addWaiting, he, hd]) hm hi
  unfold State.handBackground; dsimp only; split
  · exact key _ rfl rfl rfl
  · exact key _ rfl rfl rfl

/-- A unit that is handed over to an open queue with a place and no unit waiting has its entry made at the queue's end (R113). -/
theorem State.handBackground_queued (s : State) (u : Nat) (h : s.queueOpen (s.dieOf u) = true)
    (hw : (s.dies.get (s.dieOf u)).waiting = []) (hl : (s.dies.get (s.dieOf u)).queue.length < Config.backgroundLimit) :
    (s.handBackground u).dies.get (s.dieOf u) =
      { s.dies.get (s.dieOf u) with queue := (s.dies.get (s.dieOf u)).queue ++ [s.backgroundEntry u] } := by
  have hp : s.plwAsserted = false := by
    simp only [State.queueOpen, Bool.and_eq_true, Bool.not_eq_true'] at h; exact h.1.2
  let t := s.addWaiting u
  have hd : t.dies.get (s.dieOf u) = { s.dies.get (s.dieOf u) with waiting := [u] } := by simp [t, State.addWaiting, hw, insertNat]
  have ho : t.queueOpen (s.dieOf u) = true := by
    rw [← h]; simp only [State.queueOpen, hd]; rfl
  have h1 : t.fillOne (s.dieOf u) = t.modDie (s.dieOf u) (fun r => { r with
      queue := r.queue ++ [s.backgroundEntry u], waiting := [] }) := by
    simp only [State.fillOne, ho, hd, hl, decide_true, Bool.and_self, if_true]; rfl
  have hi : ∀ v : State, (v.dies.get (s.dieOf u)).waiting = [] → v.fillOne (s.dieOf u) = v := by
    intro v hv; simp [State.fillOne, hv]
  have h2 : t.fillQueue (s.dieOf u) = t.fillOne (s.dieOf u) := by
    have : ((t.fillOne (s.dieOf u)).dies.get (s.dieOf u)).waiting = [] := by rw [h1]; simp
    simp only [State.fillQueue, hi _ this]
  simp only [State.handBackground, hp, Bool.false_eq_true, if_false, State.fillQueue_idle s _ hw]
  show (t.fillQueue (s.dieOf u)).dies.get (s.dieOf u) = _
  rw [h2, h1]; simp [hd, hw]

/-! ## Dies -/

/-- A configured die is found by its number. -/
theorem State.configuredDie_some (s : State) (d : DieId) (n : Nat) (h : n = d.val) (hd : d.val < s.dieCount) : s.configuredDie n = some d := by
  subst h; simp [State.configuredDie, hd, asFin]

/-- A die number at or above the die count names no die. -/
theorem State.configuredDie_none (s : State) (n : Nat) (h : s.dieCount ≤ n) : s.configuredDie n = none := by
  simp [State.configuredDie, Nat.not_lt.mpr h]

@[simp] theorem State.taken_configuredDie (s : State) (p : PortId) (n : Nat) : (s.taken p).configuredDie n = s.configuredDie n := by
  cases p <;> rfl

/-- Joining the waiting dies leaves the die records. -/
theorem State.joinWaiting_dies (s : State) (d : DieId) : (s.joinWaiting d).dies = s.dies := s.joinWaiting_only d .dies (by decide)

/-- Handing a descriptor over leaves the die records. -/
theorem State.handOver_dies (s : State) (k d u pg) : (s.handOver k d u pg).dies = s.dies := s.handOver_only k d u pg .dies (by decide)

/-- A trigger leaves the die records, or puts its die into another state with purpose SERVE. -/
theorem State.trigger_dies (s : State) (d : DieId) (o : Bool) : (s.trigger d o).dies = s.dies ∨
    ∃ st, (s.trigger d o).dies = s.dies.modify d (fun r => { r with state := st, purpose := some .serve }) := by
  unfold State.trigger; dsimp only
  split
  · split
    · exact .inl rfl
    · split
      · split
        · exact .inr ⟨.suspending, by simp only [State.suspendToServe, State.handOver_dies]; rfl⟩
        · exact .inl (State.joinWaiting_dies _ _)
      · exact .inl rfl
  · exact .inl rfl

/-- Serving a die leaves every window and lapsed flag. -/
theorem State.serveDie_windows (s : State) (d : DieId) (o : Bool) (x : DieId) :
    ((s.serveDie d o).dies.get x).windows = (s.dies.get x).windows ∧ ((s.serveDie d o).dies.get x).lapsed = (s.dies.get x).lapsed := by
  have mod : ∀ (u : State) (f : DieRecord → DieRecord), (∀ r, (f r).windows = r.windows ∧ (f r).lapsed = r.lapsed) →
      ((u.modDie d f).dies.get x).windows = (u.dies.get x).windows ∧ ((u.modDie d f).dies.get x).lapsed = (u.dies.get x).lapsed := by
    intro u f hf
    by_cases hx : x = d
    · subst hx; simp [hf]
    · simp [hx]
  unfold State.serveDie; dsimp only
  split
  · split
    · split
      · exact ⟨rfl, rfl⟩
      · split
        · simp only [State.issueSuspended, State.issuePage]
          rw [(mod _ _ (by intro r; exact ⟨rfl, rfl⟩)).1, (mod _ _ (by intro r; exact ⟨rfl, rfl⟩)).2, State.handOver_dies,
            (mod _ _ (by intro r; exact ⟨rfl, rfl⟩)).1, (mod _ _ (by intro r; exact ⟨rfl, rfl⟩)).2]
          exact ⟨rfl, rfl⟩
        · rw [State.joinWaiting_dies]; exact ⟨rfl, rfl⟩
    · split
      · split
        · exact ⟨rfl, rfl⟩
        · split
          · simp only [State.resumeErase]
            rw [State.handOver_dies]
            exact mod _ _ (by intro r; exact ⟨rfl, rfl⟩)
          · rw [State.joinWaiting_dies]; exact ⟨rfl, rfl⟩
      · exact ⟨rfl, rfl⟩
  · exact ⟨rfl, rfl⟩

/-- Serving the SUSPENDED dies leaves every window and lapsed flag. -/
theorem State.serveSuspended_windows (s : State) (x : DieId) :
    ((s.serveSuspended).dies.get x).windows = (s.dies.get x).windows ∧ ((s.serveSuspended).dies.get x).lapsed = (s.dies.get x).lapsed := by
  unfold State.serveSuspended
  generalize (s.dies.indices _) = l
  induction l generalizing s with
  | nil => exact ⟨rfl, rfl⟩
  | cons d ds ih => simp only [List.foldl_cons]; rw [(ih _).1, (ih _).2]; exact State.serveDie_windows _ _ _ _

/-! ## Read windows -/

/-- One window is granted if it is WAITING, and nothing changes otherwise (R125). -/
theorem State.grantWindow_cases (s : State) (d : DieId) (p : MasterId) : (s.grantWindow d p).dies = s.dies ∧ (s.grantWindow d p) = s ∧ (∀ pl, (s.dies.get d).windows.get p ≠ .waiting pl) ∨
   ∃ pl, (s.dies.get d).windows.get p = .waiting pl ∧ (s.grantWindow d p).dies = s.dies.modify d (fun r => { r with windows := r.windows.set p (.opened s.windowTicks) }) ∧
     (s.grantWindow d p).masters = s.masters.modify p (fun m => { m with ring := m.ring.writeReply pl.slot (replyRecord kindReadWindow pl.tag .granted []) [] }) := by
  unfold State.grantWindow
  cases hw : (s.dies.get d).windows.get p with
  | waiting pl => right; exact ⟨pl, rfl, rfl, rfl⟩
  | closed => left; simp
  | opened n => left; simp

/-- What granting the windows of some ports does (R125). -/
theorem State.grantWindows_fold (s : State) (d : DieId) (l : List MasterId) (hl : l.Nodup) :
    let t := l.foldl (fun s p => s.grantWindow d p) s
    (∀ x, x ≠ d → t.dies.get x = s.dies.get x) ∧
    t.dies.get d = { s.dies.get d with windows := (t.dies.get d).windows } ∧
    (∀ p, p ∉ l → (t.dies.get d).windows.get p = (s.dies.get d).windows.get p ∧ t.masters.get p = s.masters.get p) ∧
    (∀ p ∈ l, (∀ pl, (s.dies.get d).windows.get p = .waiting pl → (t.dies.get d).windows.get p = .opened s.windowTicks ∧
        t.masters.get p = { s.masters.get p with ring := (s.masters.get p).ring.writeReply pl.slot (replyRecord kindReadWindow pl.tag .granted []) [] }) ∧
      ((∀ pl, (s.dies.get d).windows.get p ≠ .waiting pl) → (t.dies.get d).windows.get p = (s.dies.get d).windows.get p ∧ t.masters.get p = s.masters.get p)) := by
  induction l generalizing s with
  | nil => simp
  | cons p ps ih =>
    intro t
    have hn : p ∉ ps := (List.nodup_cons.mp hl).1
    have hi := ih (s.grantWindow d p) (List.nodup_cons.mp hl).2
    have ht : t = ps.foldl (fun s p => s.grantWindow d p) (s.grantWindow d p) := rfl
    rw [← ht] at hi
    have hlim : (s.grantWindow d p).windowTicks = s.windowTicks := by
      have := s.grantWindow_only d p .limits (by decide); simp only [State.agrees] at this; simp [State.windowTicks, this]
    rw [hlim] at hi
    obtain ⟨h1, h2, h3, h4⟩ := hi
    rcases State.grantWindow_cases s d p with ⟨-, he, hw⟩ | ⟨pl, hw, hd, hm⟩
    · rw [he] at h1 h2 h3 h4
      refine ⟨h1, h2, fun q hq => h3 q (by simp at hq; tauto), fun q hq => ?_⟩
      by_cases hqp : q = p
      · subst hqp; refine ⟨fun pl hpl => absurd hpl (hw pl), fun _ => h3 q hn⟩
      · exact h4 q (by simp at hq; tauto)
    · have hdd : (s.grantWindow d p).dies.get d = { s.dies.get d with windows := (s.dies.get d).windows.set p (.opened s.windowTicks) } := by rw [hd]; simp
      refine ⟨fun x hx => by rw [h1 x hx, hd]; simp [hx], ?_, fun q hq => ?_, fun q hq => ?_⟩
      · rw [h2, hdd]
      · have hq' : q ≠ p ∧ q ∉ ps := by simp at hq; tauto
        have := h3 q hq'.2; rw [hdd, hm] at this; simpa [hq'.1] using this
      · by_cases hqp : q = p
        · subst hqp
          have := h3 q hn
          rw [hdd, hm] at this
          refine ⟨fun pl' hpl' => ?_, fun hw' => absurd hw (hw' pl)⟩
          rw [hw] at hpl'; cases hpl'
          simpa using this
        · have := h4 q (by simp at hq; tauto)
          rw [hdd, hm] at this
          simpa [hqp] using this

/-- What granting the windows of a die does: each WAITING window opens with its reply written, and nothing else changes (R125). -/
theorem State.grantWindows_cases (s : State) (d : DieId) :
    (∀ x, x ≠ d → (s.grantWindows d).dies.get x = s.dies.get x) ∧
    (s.grantWindows d).dies.get d = { s.dies.get d with windows := ((s.grantWindows d).dies.get d).windows } ∧
    (∀ p, (∀ pl, (s.dies.get d).windows.get p = .waiting pl → ((s.grantWindows d).dies.get d).windows.get p = .opened s.windowTicks ∧
        (s.grantWindows d).masters.get p = { s.masters.get p with ring := (s.masters.get p).ring.writeReply pl.slot (replyRecord kindReadWindow pl.tag .granted []) [] }) ∧
      ((∀ pl, (s.dies.get d).windows.get p ≠ .waiting pl) → ((s.grantWindows d).dies.get d).windows.get p = (s.dies.get d).windows.get p ∧ (s.grantWindows d).masters.get p = s.masters.get p)) := by
  have h := State.grantWindows_fold s d (List.finRange 4) (List.nodup_finRange 4)
  exact ⟨h.1, h.2.1, fun p => h.2.2.2 p (List.mem_finRange p)⟩

/-! ## Descriptors -/

theorem Link.outstanding_iff (l : Link) (t : Byte) : l.outstanding t = true ↔ ∃ e ∈ l.tags, e.tag = t := by simp [Link.outstanding]

/-- While fewer than 256 tags are outstanding, a tag value is free. -/
theorem Link.free_tag (l : Link) (h : l.tags.length < 256) : ∃ n, n < 256 ∧ l.outstanding (l.cursor + BitVec.ofNat 8 n) = false := by
  by_contra hc
  have hall : ∀ n < 256, l.cursor + BitVec.ofNat 8 n ∈ (l.tags.map (·.tag)).toFinset := fun n hn => by
    obtain ⟨e, he, ht⟩ := (l.outstanding_iff _).mp (by simpa using fun hf => hc ⟨n, hn, hf⟩)
    exact List.mem_toFinset.mpr (List.mem_map.mpr ⟨e, he, ht⟩)
  have hinj : Set.InjOn (fun n => l.cursor + BitVec.ofNat 8 n) (Finset.range 256) := fun a ha b hb hab => by
    have := congrArg BitVec.toNat (BitVec.add_right_inj _ |>.mp hab)
    simp only [Finset.coe_range, Set.mem_Iio] at ha hb
    simpa [BitVec.toNat_ofNat, Nat.mod_eq_of_lt ha, Nat.mod_eq_of_lt hb] using this
  have hle := (Finset.card_le_card_of_injOn _ (fun n hn => hall n (Finset.mem_range.mp hn)) hinj).trans (List.toFinset_card_le _)
  simp at hle
  omega

/-- With a tag value free, the tag assigned next is the first that is free at or after the cursor (R138). -/
theorem Link.nextTag_firstFree (l : Link) (h : l.tags.length < 256) : l.FirstFree l.nextTag := by
  obtain ⟨n, hn, hfree⟩ := l.free_tag h
  cases hf : (List.range 256).find? (fun n => !l.outstanding (l.cursor + BitVec.ofNat 8 n)) with
  | none => simp [List.find?_eq_none] at hf; exact absurd (hf n hn) (by simp [hfree])
  | some k =>
    obtain ⟨hk, hkm, hlow⟩ := List.find?_range_eq_some.mp hf
    refine ⟨k, by simpa using hkm, ?_, fun e he ht => ?_, fun m hm => ?_⟩
    · simp [Link.nextTag, List.find?_map, hf]
    · simp [Link.nextTag, List.find?_map, hf] at ht
      simp [(l.outstanding_iff _).mpr ⟨e, he, ht⟩] at hk
    · exact (l.outstanding_iff _).mp (by simpa using hlow m hm)

/-- What handing a descriptor over does to the link: the block is that of the unit, and 0 for a SUSPEND or a RESUME (R138, R141). -/
theorem State.handOver_handedOver (s : State) (kind : DescriptorKind) (d : DieId) (u : Nat) (page : Option PageKey)
    (h : s.link.tags.length < 256) :
    s.link.HandedOver (s.handOver kind d u page).link kind d u (if kind = .suspend ∨ kind = .resume then 0 else s.blockOf u) page
      ((page.map s.handleOf).getD 0) :=
  ⟨s.link.nextTag, s.link.nextTag_firstFree h, by cases kind <;> rfl⟩

/-! ## Young lists, orders and waiting requests -/

/-- A unit has no young owner exactly when it stands in no stream's young list (R38). -/
theorem State.youngOwner_eq_none (s : State) (u : Nat) : s.youngOwner u = none ↔ ∀ st, u ∉ (s.streams.get st).young := by
  simp [State.youngOwner, List.head?_eq_none_iff, List.eq_nil_iff_forall_not_mem, Table.mem_indices]

/-- What an order that may be issued says of its unit (R10, R38, R94): it is movable, in no young list, and its route gives the order. -/
theorem State.issuePlan_cases (s : State) (u : Nat) (q : IssuePlan) (h : s.issuePlan u = some q) :
    ∃ x, s.unit? u = some x ∧ x.movable = true ∧ (∀ st, u ∉ (s.streams.get st).young) ∧ q.unit = u ∧ x.tenant = some q.tenant ∧
      s.usableRoute x = some q.target ∧ (s.streams.get q.target).port = some q.port := by
  simp only [State.issuePlan] at h
  split at h
  · cases h
  · next x hx =>
    split at h
    · next hm =>
      simp only [Bool.and_eq_true, Option.isNone_iff_eq_none, State.youngOwner_eq_none] at hm
      split at h
      · next t st ht hr =>
        obtain ⟨p, hp, rfl⟩ := Option.map_eq_some_iff.mp h
        exact ⟨x, hx, hm.1, hm.2, rfl, ht, hr, hp⟩
      · cases h
    · cases h

/-- The entry that is examined next is a SPACE entry of its stream that an event has called for (R55). -/
theorem State.firstCalled_cases (s : State) (st : StreamId) (c : ContextId) (h : s.firstCalled st = some c) :
    ∃ e ∈ s.credit.waitList, e.ctx = c ∧ e.reason = .space ∧ e.stream = st ∧ e.examine = true := by
  obtain ⟨e, he, rfl⟩ := Option.map_eq_some_iff.mp h
  have := List.find?_some he
  simp at this
  exact ⟨e, List.mem_of_find?_eq_some he, rfl, this.1.1, this.1.2, this.2⟩

/-! ## Searches that are stopped -/

/-- What stopping a search does (R84, R85): a record that is SEARCHING has its result marked for discard, and any other stays. -/
theorem ReclaimRecord.stop_eq (k : ReclaimRecord) : k.stop = if k.search = .searching then { k with discard := true } else k := by
  cases h : k.search <;> simp [ReclaimRecord.stop, h]

@[simp] theorem ReclaimRecord.stop_search (k : ReclaimRecord) : k.stop.search = k.search := by rw [stop_eq]; split <;> rfl
@[simp] theorem ReclaimRecord.stop_active (k : ReclaimRecord) : k.stop.active = k.active := by rw [stop_eq]; split <;> rfl
@[simp] theorem ReclaimRecord.stop_slots (k : ReclaimRecord) : k.stop.slots = k.slots := by rw [stop_eq]; split <;> rfl
@[simp] theorem ReclaimRecord.toIdle_search (k : ReclaimRecord) : k.toIdle.search = .idle := rfl
@[simp] theorem ReclaimRecord.toIdle_active (k : ReclaimRecord) : k.toIdle.active = k.active := rfl
@[simp] theorem ReclaimRecord.toIdle_slots (k : ReclaimRecord) : k.toIdle.slots = k.slots := rfl
@[simp] theorem ReclaimRecord.toIdle_discard (k : ReclaimRecord) : k.toIdle.discard = false := rfl

@[simp] theorem ReclaimRecord.deactivate_active (k : ReclaimRecord) : k.deactivate.active = false := by
  cases h : k.search <;> simp [ReclaimRecord.deactivate, h]
@[simp] theorem ReclaimRecord.deactivate_slots (k : ReclaimRecord) : k.deactivate.slots = k.slots := by
  cases h : k.search <;> simp [ReclaimRecord.deactivate, h]

@[simp] theorem State.stopIssue_reclaimOf (s : State) (g : GroupId) : s.stopIssue.reclaimOf g = (s.reclaimOf g).map ReclaimRecord.stop := by
  simp only [State.reclaimOf, State.stopIssue, Table.get_map]
  cases s.groups.get g <;> rfl
@[simp] theorem State.stopIssue_config (s : State) (g : GroupId) : s.stopIssue.config g = s.config g := by
  simp only [State.config, State.stopIssue, Table.get_map]
  cases s.groups.get g <;> rfl

/-- What examining a unit does to a record (R83, R86, R89): it may set the zero-score flag and change the candidate, and nothing else. -/
theorem State.examined_eq (s : State) (u : Nat) (k : ReclaimRecord) :
    s.examined u k = { k with zeroScore := (s.examined u k).zeroScore, candidate := (s.examined u k).candidate } := by
  unfold State.examined
  split
  · rfl
  · split <;> rfl

/-- The zero-score flag after a unit is examined (R83, R86). -/
theorem State.examined_zeroScore (s : State) (u : Nat) (k : ReclaimRecord) (x : UnitRecord) (h : s.unit? u = some x) :
    (s.examined u k).zeroScore = (k.zeroScore || s.victimEligible u && decide (s.score x = 0)) := by
  simp only [State.examined, h]
  cases s.victimEligible u <;> simp

/-- A search whose result is used ran in an active group while orders could be issued, without a stop of either (R84, R85, R91). -/
theorem State.mayUse_iff (s : State) (k : ReclaimRecord) : s.mayUse k = true ↔ k.active = true ∧ s.mayIssue = true ∧ k.discard = false := by
  simp [State.mayUse, and_assoc]

/-! ## Program grants -/

/-- The levels a grant chooses among are those with an eligible page (R117). -/
theorem State.mem_eligibleLevels (s : State) (d : DieId) (l : Level) : l ∈ s.eligibleLevels d ↔ (s.oldestEligible d l).isSome := by
  simp [State.eligibleLevels]

/-- The level a grant chooses has an eligible page (R117). -/
theorem State.grantLevel_eligible (s : State) (d : DieId) (l : Level) (h : s.grantLevel d = some l) : (s.oldestEligible d l).isSome := by
  rw [← s.mem_eligibleLevels]
  simp only [State.grantLevel] at h
  split at h
  · next hl =>
    cases h
    exact List.mem_of_find?_eq_some hl
  · exact List.mem_of_head? h

/-! ## Status words -/

/-- The length of the DIE section: 28 words, one for each queue entry and one for each tag of the die (R135, R148; log entry 26). -/
theorem State.dieWords_length (s : State) (d : DieId) :
    (s.dieWords d).length = 28 + (s.dies.get d).queue.length + (s.link.tags.filter (fun e => decide (e.die = d))).length := by
  simp [State.dieWords, (s.dies.get d).passOver.size]
  omega

end Sys2Proof.Machine
end

