-- ==== Sys2Proof/Tests/Slice0.lean ====
section
/-!
SUPPORT. The model's own tests: the ill-formed commands that `Instr.wellFormed` refuses, small steps whose expected results are worked out
from the rules, and for each obligation with hypotheses a state and operands that meet them, clause by clause.
-/

open Sys2Proof Sys2Proof.Machine

namespace Sys2Proof.Tests

set_option Elab.async false
set_option maxRecDepth 8000

/-! ## Well-formedness -/

theorem test_no_bytes_refused : (Instr.otherMemoryWrite .management 0 []).wellFormed = false := by decide
theorem test_past_block_refused : (Instr.otherMemoryWrite .management 20479 [1, 2]).wellFormed = false := by decide
theorem test_last_byte_accepted : (Instr.otherMemoryWrite .management 20479 [1]).wellFormed = true := by decide
theorem test_tail_byte_refused : (Instr.otherMemoryWrite .management 0x0BFF [1, 2]).wellFormed = false := by decide
theorem test_head_byte_refused : (Instr.otherMemoryWrite .management 0x0C0C [1]).wellFormed = false := by decide
theorem test_word_rest_accepted : (Instr.requestTailWrite .management ⟨1, [2, 3, 4]⟩).wellFormed = true := by decide
theorem test_tail_rest_refused : (Instr.requestTailWrite .management ⟨1, [2, 3, 4, 5]⟩).wellFormed = false := by decide
theorem test_head_rest_refused : (Instr.replyHeadWrite .management ⟨1, [2, 3, 4, 5]⟩).wellFormed = false := by decide
theorem test_program_done_kind_refused : (Instr.programDone ⟨1, 0, 0, 0⟩).wellFormed = false := by decide
theorem test_program_fail_kind_refused : (Instr.programFail ⟨0, 0, 0, 0⟩).wellFormed = false := by decide
theorem test_erase_kind_refused : (Instr.eraseCompletion ⟨2, 0, 0, 0⟩).wellFormed = false := by decide
theorem test_check_kind_refused : (Instr.checkCompletion ⟨0, 0, 0, 0⟩).wellFormed = false := by decide
theorem test_suspend_kind_refused : (Instr.suspendAnswer ⟨3, 0, 0, 0⟩).wellFormed = false := by decide
theorem test_resume_kind_refused : (Instr.resumeAnswer ⟨2, 0, 0, 0⟩).wellFormed = false := by decide

/-! ## A small part

Two dies of 64 blocks of 64 pages in one group, RUNNING. Units 0 to 7 are in the seven unit states (7 is a second SEALED unit) and the
others are FREE. Stream 0 is OPEN on P0 with unit 0 in its slot 0 and one request in progress; 1 is QUIESCED on P0; 2 is CLOSED and
placeable; 3 has no group; 4 is DRAINING on P0 with nothing outstanding; 5 is OPEN on P1 for a metered tenant. -/

/-- Unit 0, OPEN: two pages allocated, one programmed. -/
def unit0 : UnitRecord := ⟨.opened, some 1, some 0, 2, 1, 1, 3, none, .noHold, false, false, none, none⟩
/-- Unit 1, SEALED with ten valid pages. -/
def unit1 : UnitRecord := ⟨.sealed, some 1, some 0, 64, 64, 10, 3, some 0, .noHold, false, false, none, none⟩
/-- Unit 2, SEALED, HELD and empty. -/
def unit2 : UnitRecord := ⟨.sealed, some 1, some 0, 64, 64, 0, 3, some 0, .held, false, false, none, none⟩
/-- Unit 3, RECLAIM in order slot 0. -/
def unit3 : UnitRecord := ⟨.reclaim, some 1, some 0, 64, 64, 5, 3, some 0, .noHold, false, false, some 0, none⟩
/-- Unit 4, ERASING. -/
def unit4 : UnitRecord := ⟨.erasing, none, none, 64, 64, 0, 65535, none, .noHold, false, false, none, some 0⟩
/-- Unit 5, UNKNOWN. -/
def unit5 : UnitRecord := ⟨.unknown, none, none, 64, 64, 0, 3, none, .noHold, false, false, none, none⟩
/-- Unit 6, RETIRED. -/
def unit6 : UnitRecord := ⟨.retired, none, none, 64, 64, 0, 3, none, .noHold, false, true, none, none⟩
/-- Unit 7, SEALED with every page valid and FIXED. -/
def unit7 : UnitRecord := ⟨.sealed, some 1, some 0, 64, 64, 64, 3, some 0, .fixed, false, false, none, none⟩

/-- The order in slot 0 of group 0: unit 3 for stream 0 on P0, with no ticks left. -/
def order0 : Order := ⟨3, 1, 0, 0, 7, .issued 0⟩
/-- Group 0: dies 0 and 1, reserve 2, watermarks 6 and 14, two order slots. -/
def config0 : GroupConfig := ⟨0, 1, 2, 6, 14, 2, 4, 8, none⟩
/-- Group 0's reclaim record, active, with one order. -/
def reclaim0 : ReclaimRecord := ⟨true, .idle, none, none, false, false, none, false, [some order0, none]⟩

/-- The request in progress: a HOST WRITE of three pages on stream 0, the first placed on page 1 of unit 0. -/
def write0 : WriteContext :=
  ⟨⟨0, 0⟩, 9, 0, .host, 100, none, 1, [⟨.allocated, some ⟨0, 0, 1⟩, 0⟩, ⟨.unplaced, none, 0⟩, ⟨.unplaced, none, 0⟩], 0, 0, false⟩
/-- The page of it that is placed. -/
def key0 : PageKey := ⟨0, 1⟩

/-- The part. -/
def part : State :=
  let stream := fun (state : StreamState) (tenant : Tenant) (port : Option MasterId) (st : StreamId) =>
    { StreamRecord.reset st with state := state, tenant := tenant, group := some 0, port := port, profile := ⟨.pack, 3, 2⟩ }
  let slots : Table 8 (Option OpenSlot) := (Table.replicate 8 none).set 0 (some ⟨0, 1, 30000, false⟩)
  let streams := State.reset.streams
  let streams := streams.set 0 { stream .opened 1 (some 0) 0 with slots := slots, outstanding := 1 }
  let streams := streams.set 1 (stream .quiesced 1 (some 0) 1)
  let streams := streams.set 2 (stream .closed 1 none 2)
  let streams := streams.set 4 { stream .draining 1 (some 0) 4 with drain := some ⟨5, 8⟩ }
  let streams := streams.set 5 (stream .opened 2 (some 1) 5)
  let ring0 : Ring := { Ring.reset with reservations := [0, 5], replyHoldings := 2 }
  let backlogs : Table 7 (List PageKey) := (Table.replicate 7 []).set 2 [key0]
  { State.reset with
    units := [unit0, unit1, unit2, unit3, unit4, unit5, unit6, unit7] ++ List.replicate 120 UnitRecord.blank
    freeLists := ((Table.replicate 32 []).set 0 (List.range' 8 56)).set 1 (List.range' 64 64)
    streams := streams
    tenants := State.reset.tenants.set 2 ⟨true, 10, 100, 0, 0⟩
    contexts := [write0]
    lines := State.reset.lines.set 0 ⟨[⟨0, 0⟩], [], []⟩
    pool := [⟨⟨⟨0, 0⟩, 0⟩, key0, 0, 2, 100⟩]
    credit := { State.reset.credit with shares := (Table.replicate 4 0).set 0 1 }
    groups := State.reset.groups.set 0 (some ⟨config0, reclaim0⟩)
    dies := State.reset.dies.set 0 { DieRecord.reset with backlogs := backlogs, waiting := [4, 5] }
    masters := State.reset.masters.set 0 { MasterPort.reset with ring := ring0 }
    mgmt := { State.reset.mgmt with device := .running, geometry := some ⟨2, 64, 64⟩ } }

/-- A request record with master tag 0x1234: its kind, its count byte and its bytes from byte 4. -/
def record (kind count : Nat) (rest : List Nat) : List Byte :=
  (kind :: count :: 0x34 :: 0x12 :: rest).map (BitVec.ofNat 8)

/-- A state with one request record in the ring of a port. -/
def ask (s : State) (p : PortId) (bytes : List Byte) : State :=
  s.modRing p (fun r => { r with mem := r.mem.write 0 bytes, requestTail := 1 })

/-- The part with a request of P0. -/
def ask0 (kind count : Nat) (rest : List Nat) : State := ask part (.master 0) (record kind count rest)

/-- The part with a request of port M. -/
def askM (s : State) (kind count : Nat) (rest : List Nat) : State := ask s .management (record kind count rest)

/-- The state after a command, where it gives a next state. -/
def after (c : Instr) (s : State) : Option State :=
  match exec c s with
  | .next t => some t
  | .fault _ => none
  | .refused _ => none

/-- The part in a device state. -/
def partIn (d : DeviceState) : State := part.setDevice d

/-- The part with die 0 changed. -/
def withDie (f : DieRecord → DieRecord) : State := part.modDie 0 f

/-- The part with one tag entry SENT. -/
def withTag (s : State) (e : TagEntry) : State := { s with link := { s.link with tags := [e] } }

/-- The part with a tick having made due the seal of unit 0. -/
def sealDue0 : State := part.modStream 0 (fun r => { r with slots := r.slots.set 0 (some ⟨0, 1, 30000, true⟩) })

/-- The part with a tick having made due the fence of P0. -/
def fenceDue0 : State := part.modMaster 0 (fun m => { m with fenceDue := true })

/-- The part with page 1 of the request waiting to be placed again. -/
def replaceWaits (s : State) : State := s.modLines 0 (fun l => { l with replace := [⟨⟨0, 0⟩, 1⟩] })

/-- A state whose stream 0 waits for space: page 1 of the request to be placed again, and page 2 as its last fresh one. -/
def workWaits (s : State) : State := { replaceWaits s with
  contexts := [{ write0 with nextFresh := 2 }]
  waiters := [⟨0, 3, false⟩]
  credit := { s.credit with waitList := [⟨⟨0, 0⟩, 0, 1, .host, .space, 1, false⟩] } }

/-- Stream 0 of the state waits, with its list and with its request, and group 0 holds unit `u` and die `d`. -/
def Waits (s : State) (u : Nat) (d : DieId) : Prop :=
  (∃ w ∈ s.waiters, w.stream = 0) ∧ (∃ e ∈ s.credit.waitList, e.reason = .space ∧ e.stream = 0) ∧
  (s.lines.get 0).replace ≠ [] ∧ s.groupOfUnit u = some 0 ∧ s.groupOfDie d = some 0

/-- The status byte of the reply in slot 0 of a port's ring. -/
def statusOf (p : PortId) (s : State) : Nat := ((s.ring p).mem.read (0x0400 + 4)).toNat

/-! ## Witnesses: the machine -/

/-- The free lists are legal where a check over the units that exist finds them so. -/
theorem free_lists_legal (s : State) (hp : ∀ d, (s.freeLists.get d).Pairwise (fun u v => s.wearBefore u v = true))
    (hi : ∀ d, ∀ u ∈ s.freeLists.get d, s.unitState u = some .free ∧ s.dieOf u = d)
    (hc : ∀ u < s.units.length, s.unitState u = some .free → u ∈ s.freeLists.get (s.dieOf u)) : s.FreeListsLegal := by
  refine fun d => ⟨hp d, fun u => ⟨hi d u, fun ⟨hf, hd⟩ => hd ▸ hc u ?_ hf⟩⟩
  simp only [State.unitState, State.unit?, Option.map_eq_some_iff] at hf
  obtain ⟨x, hx, -⟩ := hf
  exact (List.getElem?_eq_some_iff.mp hx).1

theorem part_free_lists_legal : part.FreeListsLegal :=
  free_lists_legal _ (by decide +kernel) (by decide +kernel) (by decide +kernel)

theorem witness_StepTakesFrontCommand :
    ({ part with pending := [.tick, .halt] } : State).pending = [.tick, .halt] ∧
    part.pending = [] ∧
    ({ part with time := { part.time with dividerCount := 99998 } } : State).time.dividerCount + 1 < part.time.divider ∧
    part.time.divider ≤ ({ part with time := { part.time with dividerCount := 99999 } } : State).time.dividerCount + 1 := by
  decide +kernel

theorem memory_legal (s : State) (hm : ∀ q, (s.masters.get q).ring.mem.wf) (h : s.mport.mem.wf) : s.MemoryLegal :=
  fun p => match p with | .master q => hm q | .management => h

/-- For the six statements about every step: the part meets each invariant, and its next step gives a next state. -/
theorem witness_StepKeeps : part.BalancesLegal ∧ part.YoungLegal ∧ part.LinkLegal ∧ part.DiesLegal ∧ part.MemoryLegal ∧
    ∃ t, step part = .next t :=
  ⟨by decide +kernel, by decide +kernel, by decide +kernel, by decide +kernel, memory_legal _ (by decide +kernel) (by decide +kernel), ⟨_, rfl⟩⟩

theorem reset_memory_legal : State.reset.MemoryLegal := memory_legal _ (by decide +kernel) (by decide +kernel)

/-- PLW_N is asserted, and an ERASE that was handed over before is still in the table after a tick. -/
theorem witness_NoEraseStartsUnderPlw :
    let s := withTag { part with inputs := ⟨.low, .high⟩ } ⟨7, 0, .erase, 4, none, .sent, false⟩
    s.plwAsserted = true ∧ ∃ t, exec .tick s = .next t ∧ ∃ e ∈ t.link.tags, e.kind = .erase :=
  ⟨by decide +kernel, _, rfl, _, .head _, rfl⟩

theorem witness_VictimScoreBounded : unit7.sealEpoch = some 0 ∧ 0 < part.pages ∧ unit7.valid = part.pages ∧
    unit1.sealEpoch = some 0 ∧ unit1.valid < part.pages ∧ unit2.sealEpoch = some 0 ∧ unit2.valid = 0 := by decide +kernel

/-! ## Witnesses: lines and time -/

/-- The part with a search in progress in group 0. -/
def searching (f : ReclaimRecord → ReclaimRecord) : State := part.modReclaim 0 (fun k => f { k with search := .searching })

/-- Die 0 in ERASE of unit 4. -/
def erasing0 : State :=
  withDie (fun r => { r with state := .erase, current := some (.erase 4), waiting := [], opTimer := some 200 })

/-- Die 0 SUSPENDED to serve, the erase of unit 4 held and no program outstanding, with the windows of P0 and P1 and the pages of level 2. -/
def suspended0 (w v : Window) (pages : List PageKey) : State :=
  withDie (fun r => { r with
    state := .suspended
    purpose := some .serve
    current := some (.erase 4)
    heldErase := some 150
    programs := some 1
    waiting := []
    backlogs := (Table.replicate 7 []).set 2 pages
    windows := (r.windows.set 0 w).set 1 v })

theorem witness_PlwAssertedAbandonsErases :
    (searching id).plwAsserted = false ∧ ((searching id).reclaimOf 0).map (·.search) = some .searching ∧
    part.plwAsserted = false ∧ 4 ∈ (part.dies.get 0).waiting ∧ part.unitState 4 = some .erasing ∧
    (part.dies.get 0).state = .idle ∧
    (let s := part.modDie 0 (fun r => { r with queue := [⟨.erase, 4⟩], waiting := [] })
     s.plwAsserted = false ∧ (⟨.erase, 4⟩ : BackgroundEntry) ∈ (s.dies.get 0).queue ∧ s.unitState 4 = some .erasing) ∧
    erasing0.plwAsserted = false ∧ (erasing0.dies.get 0).state = .erase ∧ (erasing0.dies.get 0).erasingUnit.isSome ∧
    (let s := erasing0.modDie 0 (fun r => { r with state := .suspended })
     s.plwAsserted = false ∧ (s.dies.get 0).state = .suspended ∧ (s.dies.get 0).erasingUnit.isSome ∧
     (s.dies.get 0).current = some (.erase 4) ∧ s.unit? 4 = some unit4 ∧ unit4.state = .erasing) := by
  decide +kernel

theorem witness_PlwDeassertedReopens :
    let s := { part with inputs := ⟨.low, .high⟩ }
    s.plwAsserted = true ∧ s.isRunning = true ∧ (s.dies.get 0).state ≠ .faulted ∧ (s.reclaimOf 0).isSome := by decide +kernel

/-- A part one tick short of an epoch, and of P0's T_port with nothing owed. -/
def tickShort (epochTicks inactivity : Nat) : State :=
  { part.modMaster 0 (fun m => { m with inactivity := inactivity, ring := { m.ring with reservations := [] } }) with
    time := { part.time with epochTicks := epochTicks }
    limits := { part.limits with port := 5 } }

/-- The conditions of R159 hold for P0, and fail for P2, to which no stream is bound, and for P0 with its fence due. -/
theorem witness_TickCounts_silence :
    let s := tickShort 999 4
    s.mgmt.device = .running ∧ (s.masters.get 0).state = .active ∧ (s.masters.get 0).fenceDue = false ∧
    (s.streams.get 0).port = some 0 ∧ s.limits.port ≠ 0 ∧
    (s.masters.get 0).ring.reservations = [] ∧ (∀ st, (s.streams.get st).port ≠ some 2) ∧
    ((s.modMaster 0 (fun m => { m with fenceDue := true })).masters.get 0).fenceDue = true := by decide +kernel

theorem witness_TickCounts : ({ part with time := { part.time with epochDue := true } } : State).time.epochDue = true := by
  decide +kernel

/-- The part with one CREDIT entry of tenant 2 on stream 5, and a balance. -/
def creditWaits (balance : Int) (cls : WriteClass) : State :=
  { part with credit := { part.credit with
      balances := part.credit.balances.set 2 balance
      waitList := [⟨⟨1, 0⟩, 5, 2, cls, .credit, 64, false⟩] } }

theorem witness_CreditAdmissionAdmits :
    (creditWaits 0 .host).NoCreditDue 2 ∧ (creditWaits 1 .host).NoCreditDue 1 ∧
    ∀ cls ∈ [WriteClass.host, .reloc],
      let e : WaitEntry := ⟨⟨1, 0⟩, 5, 2, cls, .credit, 64, false⟩
      0 < (creditWaits 1 cls).credit.balances.get 2 ∧
      (creditWaits 1 cls).credit.waitList.filter (fun x => decide (x.reason = .credit) && decide (x.tenant = 2)) = [e] ∧
      ((creditWaits 1 cls).credit.waitList.find? (·.creditOf e.stream)).map (·.ctx) = some e.ctx := by decide +kernel

/-- What the tenants' examinations find before a tick: nothing due, and one due. -/
theorem witness_TickCounts_credit : (∀ n, part.NoCreditDue n) ∧ ¬ (creditWaits 1 .host).NoCreditDue 2 := by decide +kernel

/-- That part with stream 6, OPEN on P1 for tenant 2, and a WRITE of it in the ring of P1. -/
def creditOther (balance : Int) : State :=
  ask ((creditWaits balance .host).modStream 6 (fun _ => { part.streams.get 5 with target := 6 })) (.master 1)
    (record kindWrite 0 [6, 0, 2, 1, 0, 0, 0, 0, 16, 0, 0, 0])

/-- The part with two CREDIT entries of tenant 2 on stream 5, of 64 pages and of 2, and a balance. -/
def creditTwo (balance : Int) : State :=
  { part with credit := { part.credit with
      balances := part.credit.balances.set 2 balance
      waitList := [⟨⟨1, 0⟩, 5, 2, .host, .credit, 64, false⟩, ⟨⟨1, 1⟩, 5, 2, .host, .credit, 2, false⟩] } }

/-- The first leaves a balance of 0 or of 1 behind it: the second stays, or follows it. -/
theorem witness_CreditAdmissionAdmits_two : ∀ balance ∈ [(1024 : Int), 1025],
    let s := creditTwo balance
    s.StreamsOneTenant ∧
    let a : WaitEntry := ⟨⟨1, 0⟩, 5, 2, .host, .credit, 64, false⟩
    let b : WaitEntry := ⟨⟨1, 1⟩, 5, 2, .host, .credit, 2, false⟩
    0 < s.credit.balances.get 2 ∧
    s.credit.waitList.filter (fun x => decide (x.reason = .credit) && decide (x.tenant = 2)) = [a, b] ∧ a.ctx ≠ b.ctx ∧
    (s.credit.waitList.find? (·.creditOf a.stream)).map (·.ctx) = some a.ctx ∧
    ((s.credit.waitList.filter (fun x => decide (x.ctx ≠ a.ctx))).find? (·.creditOf b.stream)).map (·.ctx) = some b.ctx ∧
    (s.tenants.get 2).metered = true := by decide +kernel

theorem witness_IdleSealSeals :
    (sealDue0.streams.get 0).slots.get 0 = some ⟨0, 1, 30000, true⟩ ∧ sealDue0.unit? 0 = some unit0 ∧ unit0.state = .opened ∧
    unit0.owner = some 0 ∧ unit0.valid ≠ 0 ∧
    ∀ k, k ≠ 0 → ((sealDue0.streams.get 0).slots.get k).any (·.sealDue) = false := by decide +kernel

/-- P0 with every notice slot held and one notice waiting for it. -/
def noticesFull : State :=
  (part.modRing (.master 0) (fun r => { r with noticeHoldings := 8 })).modNotices 0 (fun _ => [⟨1, 0⟩])

theorem witness_OrderExpiryCloses :
    part.order ⟨0, 0⟩ = some order0 ∧ order0.phase = .issued 0 ∧ part.unit? 3 = some unit3 ∧ unit3.valid ≠ 0 ∧
    part.reclaim.notices.get order0.port = [] ∧ part.noticePlace order0.port = true ∧
    noticesFull.order ⟨0, 0⟩ = some order0 ∧ noticesFull.reclaim.notices.get order0.port ≠ [] ∧
    noticesFull.noticePlace order0.port = false := by decide +kernel

theorem witness_DieFaultStopsDie :
    let s := erasing0.modDie 0 (fun r => { r with opTimer := some 0 })
    (s.dies.get 0).timedOperation = some (.erase 4) ∧ (s.dies.get 0).opTimer = some 0 ∧ (s.dies.get 0).state ≠ .faulted ∧
    4 ∈ s.dieUnits 0 := by decide +kernel

/-- Two pages of the OPEN unit 0 are allocated, and unit 5 stands in the queue, when the erase runs out of time. -/
theorem witness_DieFaultStopsDie_units :
    let s := (erasing0.modDie 0 (fun r => { r with opTimer := some 0, queue := [⟨.check, 5⟩] }))
    let s := { s with pool := [⟨⟨⟨0, 0⟩, 0⟩, key0, 0, 2, 100⟩, ⟨⟨⟨0, 0⟩, 1⟩, ⟨0, 2⟩, 0, 2, 101⟩] }
    (s.dies.get 0).timedOperation = some (.erase 4) ∧ (s.dies.get 0).opTimer = some 0 ∧ (s.dies.get 0).state ≠ .faulted ∧
    (s.dies.get 0).current = some (.erase 4) ∧ (⟨.check, 5⟩ : BackgroundEntry) ∈ (s.dies.get 0).queue ∧
    0 ∈ s.dieUnits 0 ∧ s.unit? 0 = some unit0 ∧ unit0.owner = some 0 ∧ unit0.state = .opened ∧ s.slotOf 0 0 = some 0 ∧
    ∃ e ∈ s.pool, e.key.unit = 0 ∧ ∃ y ∈ s.pool, y.key.unit = 0 ∧ y.key.index < e.key.index := by decide +kernel

/-- P0 FENCED. -/
def fenced0 : State := part.modMaster 0 (fun m => { m with state := .fenced, cause := .inactivity })

theorem witness_FenceStopsPort :
    ((askM part kindFencePort 0 [4]).Ready .management kindFencePort ∧
      ((askM part kindFencePort 0 [4]).headRequest .management).byte 4 = 4) ∧
    ((fenceDue0.masters.get 0).fenceDue = true ∧ (fenceDue0.masters.get 0).state = .active) ∧
    (∀ x ∈ [(part, false), (fenceDue0, true)], let s := askM x.1 kindFencePort 0 [0]
     s.Ready .management kindFencePort ∧ (s.headRequest .management).byte 4 = 0 ∧ (s.masters.get 0).state = .active ∧
     (s.masters.get 0).fenceDue = x.2) ∧
    (let s := askM fenced0 kindFencePort 0 [0]
     s.Ready .management kindFencePort ∧ (s.headRequest .management).byte 4 = 0 ∧ (s.masters.get 0).state = .fenced) := by
  decide +kernel

/-! ## Witnesses: port memory -/

theorem witness_TailWriteMovesTail :
    (∀ p ∈ [PortId.master 0, .management], part.NoFenceDue p ∧ fenced0.NoFenceDue p) ∧
    fenced0.inService (.master 0) = false ∧ part.inService (.master 0) = true ∧
    (((32 : Byte).setWidth 6 : BitVec 6) - (part.ring (.master 0)).requestHead).toNat = 32 ∧
    (((33 : Byte).setWidth 6 : BitVec 6) - (part.ring (.master 0)).requestHead).toNat = 33 := by decide +kernel

theorem witness_HeadWriteReleases :
    let s := part.modRing (.master 0) (fun r => { r with replyTail := 3 })
    s.NoFenceDue (.master 0) ∧ fenced0.NoFenceDue (.master 0) ∧ s.inService (.master 0) = true ∧ s.reclaim.notices.get 0 = [] ∧ fenced0.inService (.master 0) = false ∧
    fenced0.reclaim.notices.get 0 = [] ∧
    (((3 : Byte).setWidth 7 : BitVec 7) - (s.ring (.master 0)).replyHead).toNat = (s.ring (.master 0)).unread ∧
    (s.ring (.master 0)).unread < (((4 : Byte).setWidth 7 : BitVec 7) - (s.ring (.master 0)).replyHead).toNat := by decide +kernel

theorem witness_MemoryWriteHolds :
    (Instr.otherMemoryWrite (.master 0) 0x0C01 [1, 2, 3, 4]).wellFormed = true ∧ 20480 < 20479 + ([1, 2] : List Byte).length := by
  decide +kernel

/-- A part whose P0 has one notice waiting, of an order in a phase. -/
def noticeWaits (phase : OrderPhase) : State :=
  (part.setOrder ⟨0, 0⟩ (some { order0 with phase := phase })).modNotices 0 (fun _ => [⟨0, 0⟩])

theorem witness_NoticeWriteSendsOldest :
    ∀ phase ∈ [OrderPhase.pending, .closing .timer], (noticeWaits phase).reclaim.notices.get 0 = [⟨0, 0⟩] ∧
      (noticeWaits phase).noticePlace 0 = true ∧ (noticeWaits phase).order ⟨0, 0⟩ = some { order0 with phase := phase } ∧
      ∀ n, phase ≠ .issued n := by
  intro phase h
  fin_cases h <;> exact ⟨by decide +kernel, by decide +kernel, by decide +kernel, fun n e => nomatch e⟩

/-! ## Witnesses: streams -/

theorem witness_OpenStreamBinds :
    (let s := ask0 kindOpenStream 0 [2, 0]
     s.Ready (.master 0) kindOpenStream ∧ (s.headRequest (.master 0)).stream = some 2 ∧
     (s.streams.get 2).state.bound = false ∧ s.placeable 2 = true) ∧
    (let s := ask0 kindOpenStream 0 [0, 0]
     s.Ready (.master 0) kindOpenStream ∧ (s.headRequest (.master 0)).stream = some 0 ∧
     (s.streams.get 0).state.bound = true ∧ (s.streams.get 0).port = some 0) ∧
    (let s := ask0 kindOpenStream 0 [5, 0]
     s.Ready (.master 0) kindOpenStream ∧ (s.headRequest (.master 0)).stream = some 5 ∧
     (s.streams.get 5).state.bound = true ∧ (s.streams.get 5).port ≠ some 0) ∧
    (let s := ask0 kindOpenStream 0 [0, 1]
     s.Ready (.master 0) kindOpenStream ∧ (s.headRequest (.master 0)).stream = none) ∧
    (let s := ask0 kindOpenStream 0 [255, 0]
     s.Ready (.master 0) kindOpenStream ∧ (s.headRequest (.master 0)).stream = some 255 ∧
     (s.streams.get 255).state.bound = false ∧ s.placeable 255 = false) := by decide +kernel

theorem witness_ResumeStream :
    (let s := ask0 kindResumeStream 0 [1, 0]
     s.Ready (.master 0) kindResumeStream ∧ (s.headRequest (.master 0)).stream = some 1 ∧ (s.streams.get 1).port = some 0 ∧
     (s.streams.get 1).state = .quiesced) ∧
    (let s := ask0 kindResumeStream 0 [4, 0]
     s.Ready (.master 0) kindResumeStream ∧ (s.headRequest (.master 0)).stream = some 4 ∧ (s.streams.get 4).port = some 0 ∧
     (s.streams.get 4).state ≠ .quiesced) := by decide +kernel

theorem witness_CloseStreamUnbinds :
    (let s := ask0 kindCloseStream 0 [1, 0]
     s.Ready (.master 0) kindCloseStream ∧ (s.headRequest (.master 0)).stream = some 1 ∧ (s.streams.get 1).port = some 0 ∧
     (s.streams.get 1).state = .quiesced) ∧
    (let s := ask0 kindCloseStream 0 [0, 0]
     s.Ready (.master 0) kindCloseStream ∧ (s.headRequest (.master 0)).stream = some 0 ∧ (s.streams.get 0).port = some 0 ∧
     (s.streams.get 0).state = .opened ∧ (s.streams.get 0).outstanding ≠ 0) := by decide +kernel

/-- An OPEN stream with no outstanding request and unit 0 in its slot, the unit with a valid page or empty and settled. -/
theorem witness_CloseStreamUnbinds_slot : ∀ valid ∈ [1, 0],
    let x := { unit0 with programmed := 2, valid := valid }
    let s := ((ask0 kindCloseStream 0 [0, 0]).modStream 0 (fun r => { r with outstanding := 0 })).modUnit 0 (fun _ => x)
    s.Ready (.master 0) kindCloseStream ∧ (s.headRequest (.master 0)).stream = some 0 ∧ (s.streams.get 0).port = some 0 ∧
    (s.streams.get 0).state = .opened ∧ (s.streams.get 0).outstanding = 0 ∧
    (s.streams.get 0).slots.get 0 = some ⟨0, 1, 30000, false⟩ ∧ s.unit? 0 = some x ∧ x.state = .opened ∧ x.valid = valid ∧
    x.settled = true ∧ x.hold = .noHold := by decide +kernel

theorem witness_DrainQuiesces :
    (let s := ask0 kindDrainStream 0 [0, 0]
     s.Ready (.master 0) kindDrainStream ∧ (s.headRequest (.master 0)).stream = some 0 ∧ (s.streams.get 0).port = some 0 ∧
     (s.streams.get 0).state = .opened ∧ (s.streams.get 0).outstanding ≠ 0) ∧
    (let s := (ask0 kindDrainStream 0 [0, 0]).modStream 0 (fun r => { r with outstanding := 0 })
     s.Ready (.master 0) kindDrainStream ∧ (s.headRequest (.master 0)).stream = some 0 ∧ (s.streams.get 0).port = some 0 ∧
     (s.streams.get 0).state = .opened ∧ (s.streams.get 0).outstanding = 0) ∧
    ((part.streams.get 4).state = .draining ∧ (part.streams.get 4).outstanding = 0 ∧ (part.streams.get 4).port = some 0 ∧
     (part.streams.get 4).drain = some ⟨5, 8⟩) := by decide +kernel

/-- A stream of the port that is not OPEN; and one whose request waits for credit, its tenant metered. -/
theorem witness_DrainQuiesces_refused_and_charged :
    (let s := ask0 kindDrainStream 0 [1, 0]
     s.Ready (.master 0) kindDrainStream ∧ (s.headRequest (.master 0)).stream = some 1 ∧ (s.streams.get 1).port = some 0 ∧
     (s.streams.get 1).state ≠ .opened) ∧
    (∀ balance ∈ [(0 : Int), 10],
     let s := (ask (creditTwo balance) (.master 1) (record kindDrainStream 0 [5, 0])).modStream 5 (fun r => { r with outstanding := 2 })
     (balance = 0 → s.NoCreditDue 2) ∧ (s.credit.waitList.map (·.ctx)).Nodup ∧
     (after (.creditAdmission 2) s).map (fun m => (m.credit.waitList.filter (·.creditOf 5)).map (fun e => (e.tenant, e.cls))) =
       some (if balance = 0 then [(2, .host), (2, .host)] else [(2, .host)]) ∧
     s.Ready (.master 1) kindDrainStream ∧ (s.headRequest (.master 1)).stream = some 5 ∧ (s.streams.get 5).port = some 1 ∧
     (s.streams.get 5).state = .opened ∧ (s.streams.get 5).outstanding ≠ 0 ∧ s.BalancesLegal ∧ (s.tenants.get 2).metered = true ∧
     (s.credit.waitList.filter (·.creditOf 5)).length = 2 ∧
     ∀ e ∈ s.credit.waitList.filter (·.creditOf 5), e.tenant = (s.streams.get 5).tenant ∧ e.cls = .host) := by decide +kernel

theorem witness_SetProfileTakesEffect :
    (let s := ask0 kindSetProfile 0 [1, 0, 0, 0, 0, 0, 0, 0, 1, 2, 7, 0]
     s.Ready (.master 0) kindSetProfile ∧ (s.headRequest (.master 0)).stream = some 1 ∧ (s.streams.get 1).port = some 0 ∧
     (∀ w ∈ s.waiters, w.stream ≠ 1) ∧ (∀ e ∈ s.credit.waitList, ¬ (e.reason = .space ∧ e.stream = 1)) ∧
     (s.headRequest (.master 0)).profile = some ⟨.spread, 2, 6⟩ ∧ ∀ k, (s.streams.get 1).slots.get k = none) ∧
    (∀ now ∈ [0, 1],
      let s := ask0 kindSetProfile 0 [0, 0, 0, 0, 0, 0, 0, 0, 1, 2, 7, now]
      s.Ready (.master 0) kindSetProfile ∧ (s.headRequest (.master 0)).stream = some 0 ∧ (s.streams.get 0).port = some 0 ∧
      (s.headRequest (.master 0)).profile = some ⟨.spread, 2, 6⟩ ∧ (s.streams.get 0).slots.get 0 ≠ none ∧
      (s.headRequest (.master 0)).sealNow = decide (now = 1)) ∧
    (let s := ask0 kindSetProfile 0 [0, 0, 0, 0, 0, 0, 0, 0, 1, 0, 7, 0]
     s.Ready (.master 0) kindSetProfile ∧ (s.headRequest (.master 0)).profile = none) := by decide +kernel

/-- A profile that takes effect, with seal-now, while the stream's list and its request wait for space; and one that is stored. -/
theorem witness_SetProfileTakesEffect_waiting :
    ∀ now ∈ [0, 1],
      let s := ask (workWaits part) (.master 0) (record kindSetProfile 0 [0, 0, 0, 0, 0, 0, 0, 0, 1, 2, 7, now])
      s.Ready (.master 0) kindSetProfile ∧ (s.headRequest (.master 0)).stream = some 0 ∧ (s.streams.get 0).port = some 0 ∧
      (s.headRequest (.master 0)).profile = some ⟨.spread, 2, 6⟩ ∧ (s.headRequest (.master 0)).sealNow = decide (now = 1) ∧
      (s.streams.get 0).slots.get 0 ≠ none ∧ Waits s 0 0 := by
  unfold Waits; decide +kernel

theorem witness_StreamChecksRefuse :
    ∀ k ∈ [kindCloseStream, kindDrainStream, kindResumeStream, kindSetProfile],
      ((ask0 k 0 [0, 1]).Ready (.master 0) k ∧ ((ask0 k 0 [0, 1]).headRequest (.master 0)).stream = none) ∧
      ((ask0 k 0 [5, 0]).Ready (.master 0) k ∧ ((ask0 k 0 [5, 0]).headRequest (.master 0)).stream = some 5 ∧
        ((ask0 k 0 [5, 0]).streams.get 5).port ≠ some 0) := by decide +kernel

/-! ## Witnesses: writes -/

/-- A WRITE record: stream, page count, class and source unit. -/
def writeRecord (stream count cls source : Nat) : List Byte :=
  record kindWrite 0 [stream % 256, stream / 256, count, cls, source, 0, 0, 0, 16, 0, 0, 0]

theorem witness_WriteAnswersChecks_accepted :
    (∀ n ∈ [1, 64],
      let s := ask part (.master 0) (writeRecord 0 n 1 0)
      let q := s.headRequest (.master 0)
      s.Ready (.master 0) kindWrite ∧ q.cls = some .host ∧ q.pageCount = n ∧ q.stream = some 0 ∧
      (s.streams.get 0).group ≠ none ∧ (s.streams.get 0).port = some 0 ∧ (s.streams.get 0).state = .opened ∧
      s.placeable 0 = true ∧ (s.tenants.get 1).metered = false) ∧
    (∀ balance ∈ [(0 : Int), 1],
      let s := ask (part.modBalance 2 (fun _ => balance)) (.master 1) (writeRecord 5 64 1 0)
      let q := s.headRequest (.master 1)
      s.Ready (.master 1) kindWrite ∧ q.cls = some .host ∧ q.stream = some 5 ∧ (s.streams.get 5).port = some 1 ∧
      (s.streams.get 5).state = .opened ∧ s.placeable 5 = true ∧ (s.tenants.get 2).metered = true ∧
      s.credit.balances.get 2 = balance) ∧
    (let s := ask part (.master 0) (writeRecord 0 64 2 1)
     let q := s.headRequest (.master 0)
     s.Ready (.master 0) kindWrite ∧ q.cls = some .reloc ∧ q.stream = some 0 ∧ s.unit? q.source = some unit1 ∧
     unit1.state = .sealed ∧ unit1.tenant = some (s.streams.get 0).tenant) := by decide +kernel

/-- A WRITE of another stream of a tenant whose earlier request waits for credit, with the examination due and not due. -/
theorem witness_WriteAnswersChecks_due :
    ∀ balance ∈ [(0 : Int), 1, 1025],
      let s := creditOther balance
      let q := s.headRequest (.master 1)
      s.Ready (.master 1) kindWrite ∧ q.cls = some .host ∧ q.pageCount = 2 ∧ q.stream = some 6 ∧ (s.streams.get 6).group ≠ none ∧
      (s.streams.get 6).port = some 1 ∧ (s.streams.get 6).state = .opened ∧ (s.streams.get 6).tenant = 2 ∧ s.placeable 6 = true ∧
      (s.tenants.get 2).metered = true ∧ s.StreamsOneTenant ∧ (s.NoCreditDue 2 ↔ balance = 0) ∧
      (after (.creditAdmission 2) s).map (fun m => (m.credit.balances.get 2, m.credit.waitList.isEmpty)) =
        some (if balance = 0 then (0, false) else (balance - 1024, true)) := by decide +kernel

theorem witness_WriteAnswersChecks_refused :
    (let q := (ask part (.master 0) (writeRecord 0 1 0 0)).headRequest (.master 0); q.cls = none) ∧
    (∀ n ∈ [0, 65], let q := (ask part (.master 0) (writeRecord 0 n 1 0)).headRequest (.master 0)
      q.cls = some .host ∧ q.pageCount = n) ∧
    (let q := (ask part (.master 0) (writeRecord 256 1 1 0)).headRequest (.master 0)
     q.cls = some .host ∧ q.pageCount = 1 ∧ q.stream = none) ∧
    (let s := ask part (.master 0) (writeRecord 3 1 1 0)
     (s.headRequest (.master 0)).stream = some 3 ∧ (s.streams.get 3).group = none) ∧
    (let s := ask part (.master 0) (writeRecord 5 1 1 0)
     (s.headRequest (.master 0)).stream = some 5 ∧ (s.streams.get 5).group ≠ none ∧ (s.streams.get 5).port ≠ some 0) ∧
    (let s := ask part (.master 0) (writeRecord 1 1 1 0)
     (s.headRequest (.master 0)).stream = some 1 ∧ (s.streams.get 1).port = some 0 ∧ (s.streams.get 1).state ≠ .opened) ∧
    (let s := ask (part.modStream 0 (fun r => { r with profile := ⟨.pack, 0x80, 2⟩ })) (.master 0) (writeRecord 0 1 1 0)
     (s.headRequest (.master 0)).stream = some 0 ∧ (s.streams.get 0).state = .opened ∧ s.placeable 0 = false) ∧
    (let s := ask part (.master 0) (writeRecord 0 1 2 128)
     (s.headRequest (.master 0)).cls = some .reloc ∧ s.unit? (s.headRequest (.master 0)).source = none) ∧
    (let s := ask part (.master 0) (writeRecord 0 1 2 0)
     s.unit? (s.headRequest (.master 0)).source = some unit0 ∧ unit0.state ≠ .sealed ∧ unit0.state ≠ .reclaim) ∧
    (let s := ask part (.master 1) (writeRecord 5 1 2 1)
     s.Ready (.master 1) kindWrite ∧ s.unit? (s.headRequest (.master 1)).source = some unit1 ∧ unit1.state = .sealed ∧
     unit1.tenant ≠ some (s.streams.get 5).tenant) := by decide +kernel

/-- Both dies FAULTED. -/
def faultedPart : State :=
  (part.modDie 0 (fun r => { r with state := .faulted })).modDie 1 (fun r => { r with state := .faulted })

theorem witness_PlacePageTakesPage :
    (part.headContext 0 .host = some write0 ∧ part.mayPlaceFresh 0 write0 = true ∧ part.NoSealDue 0 ∧
     (part.streams.get 0).pendingProfile = none ∧ part.streamConfig 0 = some config0 ∧
     part.findPosition 0 config0 (freshKind write0.cls) = some 0 ∧
     (part.streams.get 0).slots.get 0 = some ⟨0, 1, 30000, false⟩ ∧ part.unit? 0 = some unit0 ∧
     unit0.writePointer + 1 < part.pages ∧ write0.nextFresh + 1 < write0.pages.length) ∧
    (faultedPart.headContext 0 .host = some write0 ∧ faultedPart.mayPlaceFresh 0 write0 = true ∧
     (faultedPart.streams.get 0).pendingProfile = none ∧ faultedPart.NoSealDue 0 ∧
     faultedPart.streamConfig 0 = some config0 ∧ faultedPart.findPosition 0 config0 (freshKind write0.cls) = none ∧
     faultedPart.spaceEntry write0.id = none ∧ faultedPart.NoneSuspended) := by decide +kernel

/-- The request waits for space: called for and with no position, and uncalled; and it stands behind a re-placement list. -/
theorem witness_PlacePageTakesPage_waiting :
    let waits := fun (s : State) (called : Bool) =>
      { s with credit := { s.credit with waitList := [⟨⟨0, 0⟩, 0, 1, .host, .space, 2, called⟩] } }
    (let s := waits faultedPart true
     s.headContext 0 .host = some write0 ∧ s.mayPlaceFresh 0 write0 = true ∧ (s.streams.get 0).pendingProfile = none ∧
     s.NoSealDue 0 ∧ s.streamConfig 0 = some config0 ∧ s.findPosition 0 config0 (freshKind write0.cls) = none ∧
     s.spaceEntry write0.id ≠ none ∧ s.NoneSuspended) ∧
    (let s := waits part false
     s.headContext 0 .host = some write0 ∧ s.NoSealDue 0 ∧ (∃ e ∈ s.credit.waitList, e.ctx = write0.id ∧ e.reason = .space) ∧
     ∀ e ∈ s.credit.waitList, e.reason = .space → e.stream = 0 → e.examine = false) ∧
    (let s := replaceWaits part
     s.headContext 0 .host = some write0 ∧ s.NoSealDue 0 ∧ (s.lines.get 0).replace ≠ []) := by decide +kernel

/-- The request with one page left to place, and unit 0 with one page left. -/
theorem witness_PlacePageTakesPage_last_and_full :
    (let x := { write0 with nextFresh := 2 }
     let s := { part with contexts := [x] }
     s.headContext 0 .host = some x ∧ s.mayPlaceFresh 0 x = true ∧ (s.streams.get 0).pendingProfile = none ∧
     s.NoSealDue 0 ∧ s.streamConfig 0 = some config0 ∧ s.findPosition 0 config0 (freshKind x.cls) = some 0 ∧
     (s.streams.get 0).slots.get 0 = some ⟨0, 1, 30000, false⟩ ∧ s.unit? 0 = some unit0 ∧ unit0.writePointer + 1 < s.pages ∧
     x.nextFresh + 1 = x.pages.length) ∧
    (let u := { unit0 with writePointer := 63 }
     let s := part.modUnit 0 (fun _ => u)
     s.headContext 0 .host = some write0 ∧ s.mayPlaceFresh 0 write0 = true ∧ s.NoSealDue 0 ∧ (s.streams.get 0).pendingProfile = none ∧
     s.streamConfig 0 = some config0 ∧ s.findPosition 0 config0 (freshKind write0.cls) = some 0 ∧
     (s.streams.get 0).slots.get 0 = some ⟨0, 1, 30000, false⟩ ∧ s.unit? 0 = some u ∧ u.writePointer + 1 = s.pages ∧
     u.programmed ≤ u.writePointer ∧ u.retirePending = false ∧ u.owner = some 0 ∧
     write0.nextFresh + 1 < write0.pages.length) := by decide +kernel

/-- The part whose stream 0 has no open unit. -/
def noOpenUnit : State := part.modStream 0 (fun r => { r with slots := Table.replicate 8 none })

/-- A position is found from the slot and from the free list, and none with both dies FAULTED. -/
theorem witness_PlacePageOpensUnit_position :
    part.streamConfig 0 = some config0 ∧ part.findPosition 0 config0 .freshHost = some 0 ∧
    noOpenUnit.findPosition 0 config0 .freshHost = some 0 ∧
    faultedPart.streamConfig 0 = some config0 ∧ faultedPart.findPosition 0 config0 .freshHost = none := by decide +kernel

theorem witness_PlacePageOpensUnit_lists : noOpenUnit.FreeListsLegal :=
  free_lists_legal _ (by decide +kernel) (by decide +kernel) (by decide +kernel)

theorem witness_PlacePageOpensUnit :
    let s := noOpenUnit
    s.NoSealDue 0 ∧ s.headContext 0 .host = some write0 ∧ s.mayPlaceFresh 0 write0 = true ∧ (s.streams.get 0).pendingProfile = none ∧
    s.streamConfig 0 = some config0 ∧ s.findPosition 0 config0 (freshKind write0.cls) = some 0 ∧
    (s.streams.get 0).slots.get 0 = none ∧ s.freeLists.get (config0.dieAt 0) = 8 :: List.range' 9 55 ∧
    s.unit? 8 = some UnitRecord.blank ∧ 1 < s.pages := by decide +kernel

/-- The list of stream 0 does not wait, waits called for, and waits uncalled. -/
def listWaits : List (List ReplaceWaiter) := [[], [⟨0, 3, true⟩], [⟨0, 3, false⟩]]

theorem witness_ReplacePagePlacesHead :
    (∀ ws ∈ listWaits, let s := { replaceWaits part with waiters := ws }
     s.NoSealDue 0 ∧ s.mayReplace 0 = decide (ws ≠ [⟨0, 3, false⟩]) ∧
     (s.lines.get 0).replace.head? = some ⟨⟨0, 0⟩, 1⟩ ∧ s.context ⟨0, 0⟩ = some write0 ∧
     (s.streams.get 0).pendingProfile = none ∧ s.streamConfig 0 = some config0 ∧
     s.findPosition 0 config0 .replacement = some 0 ∧ (s.streams.get 0).slots.get 0 = some ⟨0, 1, 30000, false⟩ ∧
     s.unit? 0 = some unit0 ∧ unit0.writePointer + 1 < s.pages) ∧
    (∀ ws ∈ listWaits, let s := { replaceWaits faultedPart with waiters := ws }
     (s.lines.get 0).replace.head? = some ⟨⟨0, 0⟩, 1⟩ ∧ s.context ⟨0, 0⟩ = some write0 ∧ s.streamConfig 0 = some config0 ∧
     (s.streams.get 0).pendingProfile = none ∧ s.NoSealDue 0 ∧ s.mayReplace 0 = decide (ws ≠ [⟨0, 3, false⟩]) ∧
     (ws ≠ [] → ∃ w ∈ s.waiters, w.stream = 0) ∧ (ws = [] → ∀ w ∈ s.waiters, w.stream ≠ 0) ∧ s.findPosition 0 config0 .replacement = none ∧ s.NoneSuspended) := by decide +kernel

/-- The request with every page DONE. -/
def write0Done : WriteContext := { write0 with nextFresh := 3, pages := List.replicate 3 ⟨.done, some ⟨0, 0, 1⟩, 0⟩ }

theorem witness_WriteEndReplies :
    ∀ orphaned ∈ [false, true],
      let x := { write0Done with orphaned := orphaned }
      let s := { part with contexts := [x] }
      s.context ⟨0, 0⟩ = some x ∧ s.requestEnded x = true ∧ (s.streams.get x.stream).state ≠ .parked := by decide +kernel

/-- The last request of a PARKED stream with unit 0 in its slot. -/
theorem witness_WriteEndReplies_parked :
    ∀ orphaned ∈ [false, true],
      let x := { write0Done with orphaned := orphaned }
      let s := { part with contexts := [x] }.modStream 0 (fun r => { r with state := .parked, port := none })
      s.context ⟨0, 0⟩ = some x ∧ s.requestEnded x = true ∧ (s.streams.get 0).state = .parked ∧ (s.streams.get 0).outstanding = 1 ∧
      (s.streams.get 0).slots.get 0 = some ⟨0, 1, 30000, false⟩ ∧ s.unit? 0 = some unit0 ∧ unit0.state = .opened ∧
      unit0.valid ≠ 0 := by decide +kernel

/-! ## Witnesses: units -/

theorem witness_InvalidateLowersValid :
    (∀ n ∈ [0, 7], (ask0 kindInvalidate n []).Ready (.master 0) kindInvalidate ∧
      ((ask0 kindInvalidate n []).headRequest (.master 0)).count = n) ∧
    (let s := ask0 kindInvalidate 1 [0, 0, 0, 0, 128, 0, 1, 0]
     s.Ready (.master 0) kindInvalidate ∧ (s.headRequest (.master 0)).count = 1 ∧ s.unit? ((s.headRequest (.master 0)).half 8) = none) ∧
    (∀ u ∈ [8, 4, 5, 6], let s := ask0 kindInvalidate 1 [0, 0, 0, 0, u, 0, 1, 0]
      s.Ready (.master 0) kindInvalidate ∧
      ∃ st ∈ [UnitState.free, .erasing, .unknown, .retired], s.unitState ((s.headRequest (.master 0)).half 8) = some st) ∧
    (∀ n ∈ [9, 10, 11], let s := ask0 kindInvalidate 1 [0, 0, 0, 0, 1, 0, n, 0]
      s.Ready (.master 0) kindInvalidate ∧ s.unit? ((s.headRequest (.master 0)).half 8) = some unit1 ∧
      (s.headRequest (.master 0)).half 10 = n ∧ unit1.state = .sealed ∧ unit1.settled = true ∧ unit1.hold = .noHold ∧
      unit1.valid = 10) := by decide +kernel

/-- Six pairs of six units: counted in three states, the third with too few pages, a FREE unit and one that does not exist. -/
theorem witness_InvalidateLowersValid_pairs :
    let s := ask0 kindInvalidate 6 [0, 0, 0, 0, 1, 0, 4, 0, 0, 0, 1, 0, 3, 0, 9, 0, 2, 0, 0, 0, 8, 0, 1, 0, 128, 0, 1, 0]
    let q := s.headRequest (.master 0)
    let pairs := (List.range q.count).map (fun k => (q.half (8 + 4 * k), q.half (10 + 4 * k)))
    s.Ready (.master 0) kindInvalidate ∧ q.count = 6 ∧ pairs = [(1, 4), (0, 1), (3, 9), (2, 0), (8, 1), (128, 1)] ∧
    (pairs.map (·.1)).Nodup := by decide +kernel

theorem witness_UnitDrainedEndsOrder :
    (let s := ask0 kindUnitDrained 0 [0, 0, 0, 0, 128, 0, 7, 0]
     s.Ready (.master 0) kindUnitDrained ∧ s.unit? (s.headRequest (.master 0)).unit = none) ∧
    (let s := ask0 kindUnitDrained 0 [0, 0, 0, 0, 3, 0, 7, 0]
     s.Ready (.master 0) kindUnitDrained ∧ s.unit? (s.headRequest (.master 0)).unit = some unit3 ∧
     s.issuedOrder 0 (s.headRequest (.master 0)).unit (s.headRequest (.master 0)).orderNumber = some ⟨0, 0⟩) ∧
    (let s := ask0 kindUnitDrained 0 [0, 0, 0, 0, 3, 0, 8, 0]
     s.issuedOrder 0 (s.headRequest (.master 0)).unit (s.headRequest (.master 0)).orderNumber = none ∧
     ((s.headRequest (.master 0)).unit, (s.headRequest (.master 0)).orderNumber) ∉ s.reclaim.expiry.get 0 ∧
     ((s.headRequest (.master 0)).unit, (s.headRequest (.master 0)).orderNumber) ∈
       (s.addExpiry { order0 with number := 8 }).reclaim.expiry.get 0) := by decide +kernel

theorem witness_HoldAndFixProtect :
    ∀ k ∈ [kindHold, kindFix],
      ((ask0 k 0 [0, 0, 0, 0, 128, 0]).Ready (.master 0) k ∧
        (ask0 k 0 [0, 0, 0, 0, 128, 0]).unit? ((ask0 k 0 [0, 0, 0, 0, 128, 0]).headRequest (.master 0)).unit = none) ∧
      ∀ u ∈ [1, 2, 7, 3, 0], let s := ask0 k 0 [0, 0, 0, 0, u, 0]
        s.Ready (.master 0) k ∧ (s.headRequest (.master 0)).unit = u ∧
        ∃ st ∈ [UnitState.sealed, .reclaim, .opened], s.unitState u = some st := by decide +kernel

theorem witness_ReleaseLiftsHold :
    (let s := ask0 kindRelease 0 [0, 0, 0, 0, 128, 0]
     s.Ready (.master 0) kindRelease ∧ s.unit? (s.headRequest (.master 0)).unit = none) ∧
    (∀ u ∈ [3, 0, 1, 7, 2], let s := ask0 kindRelease 0 [0, 0, 0, 0, u, 0]
      s.Ready (.master 0) kindRelease ∧ (s.headRequest (.master 0)).unit = u) ∧
    unit3.state = .reclaim ∧ unit0.state = .opened ∧ (unit1.state = .sealed ∧ unit1.hold = .noHold) ∧
    (unit7.state = .sealed ∧ unit7.hold = .fixed ∧ unit7.valid ≠ 0) ∧
    (unit2.state = .sealed ∧ unit2.hold = .held ∧ unit2.valid = 0 ∧ unit2.settled = true) ∧
    part.groupOfUnit 7 = some 0 ∧ part.groupOfUnit 2 = some 0 := by decide +kernel

/-! ## Witnesses: ports and windows -/

theorem witness_QueriesOnlyAnswer :
    (ask0 kindPing 0 []).Ready (.master 0) kindPing ∧ (askM part kindPing 0 []).Ready .management kindPing ∧
    (∀ u ∈ [1, 128], (ask0 kindQueryUnit 0 [0, 0, 0, 0, u, 0]).Ready (.master 0) kindQueryUnit ∧
      ((ask0 kindQueryUnit 0 [0, 0, 0, 0, u, 0]).headRequest (.master 0)).unit = u) ∧
    part.unit? 1 = some unit1 ∧ part.unit? 128 = none ∧
    (∀ k ∈ [0, 16], (ask0 k 0 []).Ready (.master 0) k ∧ ¬ (1 ≤ k ∧ k ≤ 15)) ∧
    ∀ k ∈ [31, 52, 15], (askM part k 0 []).Ready .management k ∧ ¬ (32 ≤ k ∧ k ≤ 51) ∧ k ≠ 14 := by decide +kernel

theorem witness_ReadWindowOpens :
    (∀ state ∈ [DieState.idle, .program, .suspended, .faulted, .erase, .suspending, .check],
      let s := ask (withDie (fun r => { r with state := state })) (.master 0) (record kindReadWindow 0 [0, 0, 0, 0, 0])
      s.Ready (.master 0) kindReadWindow ∧ (s.headRequest (.master 0)).byte 6 = 0 ∧ 0 < s.dieCount ∧
      (s.dies.get 0).windows.get 0 = .closed ∧ (s.dies.get 0).state = state) ∧
    (let s := ask (withDie (fun r => { r with windows := r.windows.set 0 (.opened 1) })) (.master 0)
       (record kindReadWindow 0 [0, 0, 0, 0, 0])
     s.Ready (.master 0) kindReadWindow ∧ (s.dies.get 0).windows.get 0 ≠ .closed) ∧
    (let s := ask0 kindReadWindow 0 [0, 0, 2, 0, 0]
     s.Ready (.master 0) kindReadWindow ∧ (s.headRequest (.master 0)).byte 6 = s.dieCount) ∧
    (let s := withDie (fun r => { r with windows := r.windows.set 0 (.waiting ⟨3, 1⟩) })
     (s.dies.get 0).state = .idle ∧ (s.dies.get 0).windows.get 0 = .waiting ⟨3, 1⟩) := by decide +kernel

/-- The erase of unit 4 is a suspension's target: with a place free, with another die waiting, and at the suspend limit of 4. -/
theorem witness_ReadWindowOpens_trigger :
    ∀ x ∈ [(0, ([] : List DieId)), (0, [1]), (4, [])],
      let y := { unit4 with suspendCount := some x.1 }
      let s := (ask erasing0 (.master 0) (record kindReadWindow 0 [0, 0, 0, 0, 0])).modUnit 4 (fun _ => y)
      let s := { s with link := { s.link with waiting := x.2 } }
      s.Ready (.master 0) kindReadWindow ∧ (s.headRequest (.master 0)).byte 6 = 0 ∧ 0 < s.dieCount ∧
      (s.dies.get 0).windows.get 0 = .closed ∧ (s.dies.get 0).state = .erase ∧ (s.dies.get 0).purpose = none ∧
      (s.dies.get 0).current = some (.erase 4) ∧ s.unit? 4 = some y ∧ s.suspendLimit 0 = 4 ∧ s.urgent 0 = false ∧
      s.plwAsserted = false ∧ s.link.queue.length < 32 ∧ s.link.tags.length < 32 := by decide +kernel

/-- The part with P0's window on die 0 and its lapsed flag as given, and an END-WINDOW in the ring. -/
def endWindow0 (w : Window) (lapsed : Bool) : State :=
  ask (withDie (fun r => { r with windows := r.windows.set 0 w, lapsed := r.lapsed.set 0 lapsed })) (.master 0)
    (record kindEndWindow 0 [0, 0, 0, 0, 0])

/-- END_WINDOW of P0 on die 0, asked of a state. -/
def askEndWindow (s : State) : State := ask s (.master 0) (record kindEndWindow 0 [0, 0, 0, 0, 0])

/-- A SUSPENDED die whose one OPEN window closes: with no eligible page a RESUME is due, with one it is not; and with P1's window OPEN too. -/
theorem witness_WindowsClose_suspended :
    ∀ pages ∈ [[], [key0]], ∀ v ∈ [Window.closed, .opened 3],
      let s := suspended0 (.opened 0) v pages
      let t := askEndWindow (suspended0 (.opened 5) v pages)
      (s.dies.get 0).state = .suspended ∧ (s.dies.get 0).windows.get 0 = .opened 0 ∧ (s.dies.get 0).windows.get 1 = v ∧
      (s.dies.get 0).purpose = some .serve ∧ (s.dies.get 0).current = some (.erase 4) ∧ (s.dies.get 0).suspendedProgram = none ∧
      (∀ x, x ≠ 0 → (s.dies.get x).state ≠ .suspended) ∧ s.link = State.reset.link ∧
      s.grantChoice 0 = (if pages = [] then none else some (2, key0)) ∧ s.allowance 0 = 8 ∧ (s.dies.get 0).programs = some 1 ∧
      s.urgent 0 = false ∧ s.mgmt.device = .running ∧
      t.Ready (.master 0) kindEndWindow ∧ (t.headRequest (.master 0)).byte 6 = 0 ∧ 0 < t.dieCount ∧
      (t.dies.get 0).windows.get 0 = .opened 5 := by decide +kernel

theorem witness_WindowsClose :
    ((endWindow0 (.opened 0) false).dies.get 0).windows.get 0 = .opened 0 ∧
    (∀ w ∈ [Window.opened 5, .waiting ⟨3, 1⟩, .closed], ∀ lapsed ∈ [false, true],
      let s := endWindow0 w lapsed
      s.Ready (.master 0) kindEndWindow ∧ (s.headRequest (.master 0)).byte 6 = 0 ∧ 0 < s.dieCount ∧
      (s.dies.get 0).windows.get 0 = w ∧ (s.dies.get 0).lapsed.get 0 = lapsed) ∧
    (let s := ask0 kindEndWindow 0 [0, 0, 2, 0, 0]
     s.Ready (.master 0) kindEndWindow ∧ s.dieCount ≤ (s.headRequest (.master 0)).byte 6) := by decide +kernel

/-! ## Witnesses: configuration and restore -/

/-- The operands of a SET-GEOMETRY. -/
def geometryBytes (dies bpd pages : Nat) : List Nat := [dies, 0, bpd % 256, bpd / 256, pages % 256, pages / 256]

theorem witness_SetGeometryRebuilds :
    (∀ device ∈ [DeviceState.unconfigured, .halted], ∀ g ∈ [(1, 64, 64), (16, 2048, 1024), (32, 1024, 64)],
      let s := askM (State.reset.setDevice device) kindSetGeometry 0 (geometryBytes g.1 g.2.1 g.2.2)
      s.Ready .management kindSetGeometry ∧ s.mgmt.device = device ∧ (s.headRequest .management).byte 4 = g.1 ∧
      (s.headRequest .management).half 6 = g.2.1 ∧ (s.headRequest .management).half 8 = g.2.2 ∧ g.1 * g.2.1 ≤ 32768) ∧
    (∀ g ∈ [(0, 64, 64), (33, 64, 64), (1, 63, 64), (1, 2049, 64), (1, 64, 65), (1, 64, 1088), (17, 2048, 64)],
      let s := askM State.reset kindSetGeometry 0 (geometryBytes g.1 g.2.1 g.2.2)
      s.Ready .management kindSetGeometry ∧ s.mgmt.device = .unconfigured ∧
      ¬ (1 ≤ g.1 ∧ g.1 ≤ 32 ∧ 64 ≤ g.2.1 ∧ g.2.1 ≤ 2048 ∧ 64 ≤ g.2.2 ∧ g.2.2 ≤ 1024 ∧ g.2.2 % 64 = 0 ∧ g.1 * g.2.1 ≤ 32768)) ∧
    (∀ st, (State.reset.streams.get st).state = .closed) ∧
    (askM part kindSetGeometry 0 (geometryBytes 1 64 64)).Ready .management kindSetGeometry ∧
    part.mgmt.device = .running := by decide +kernel

/-- The HALTED part with a SET-GROUP that gives a group and its dies, every other field at its default. -/
def setGroup0 (s : State) (g first last : Nat) : State := askM (s.setDevice .halted) kindSetGroup 0 [g, first, last]

/-- The part with no order. -/
def noOrder : State := part.setOrder ⟨0, 0⟩ none

/-- SET-GROUP of a group with an order in each state, with its unit holding valid pages and empty. -/
theorem witness_SetGroupConfigures_orders :
    ∀ phase ∈ [OrderPhase.pending, .issued 9, .closing .timer], ∀ valid ∈ [0, 5],
      let s := setGroup0 ((noticeWaits phase).modUnit 3 (fun r => { r with valid := valid })) 0 0 1
      s.Ready .management kindSetGroup ∧ s.mgmt.device = .halted ∧ (∀ h, h ≠ 0 → s.config h = none) ∧ s.config 0 = some config0 ∧
      (s.headRequest .management).groupRequest = ⟨0, 0, 1, 4, 8, 16, 2, 4, 8, 0⟩ ∧ s.dieCount = 2 ∧ s.bpd = 64 ∧
      s.order ⟨0, 0⟩ = some { order0 with phase := phase } ∧ (∀ j, j ≠ 0 → s.order ⟨0, j⟩ = none) ∧
      s.unit? order0.unit = some { unit3 with valid := valid } ∧ unit3.settled = true ∧ unit3.hold = .noHold ∧
      s.reclaim.notices.get 0 = [⟨0, 0⟩] := by decide +kernel

theorem witness_SetGroupConfigures :
    ((askM part kindSetGroup 0 [0, 0, 1]).Ready .management kindSetGroup ∧ part.mgmt.device ≠ .halted) ∧
    (∀ g ∈ [8, 0], let s := setGroup0 part g 0 (if g = 8 then 1 else 2)
      s.Ready .management kindSetGroup ∧ s.mgmt.device = .halted ∧
      let q := (s.headRequest .management).groupRequest
      q.group = g ∧ (7 < q.group ∨ s.dieCount ≤ q.last)) ∧
    (let s := setGroup0 part 1 1 1
     s.Ready .management kindSetGroup ∧ (s.headRequest .management).groupRequest.group = 1 ∧ s.config 0 = some config0 ∧
     config0.first ≤ 1 ∧ 1 ≤ config0.last) ∧
    (let s := setGroup0 part 0 0 0
     s.Ready .management kindSetGroup ∧ (s.headRequest .management).groupRequest.last = 0 ∧ config0.last ≠ 0 ∧
     (s.streams.get 0).group = some 0 ∧ (s.streams.get 0).state ≠ .closed) ∧
    (let s := setGroup0 noOrder 0 0 1
     s.Ready .management kindSetGroup ∧ (∀ k, s.order ⟨0, k⟩ = none) ∧ (∀ h, h ≠ 0 → s.config h = none) ∧
     (s.headRequest .management).groupRequest = ⟨0, 0, 1, 4, 8, 16, 2, 4, 8, 0⟩ ∧ s.dieCount = 2 ∧ s.bpd = 64) := by decide +kernel

theorem witness_TimeSettingsStored :
    (∀ tick ∈ [9, 10, 10000, 10001], let s := askM part kindSetTimebase 1 [tick % 256, tick / 256]
      s.Ready .management kindSetTimebase ∧ (s.headRequest .management).tickLength = some tick ∧
      (s.headRequest .management).epochLength = none) ∧
    (∀ epoch ∈ [0, 1], let s := askM part kindSetTimebase 2 [0, 0, epoch, 0]
      s.Ready .management kindSetTimebase ∧ (s.headRequest .management).tickLength = none ∧
      (s.headRequest .management).epochLength = some epoch) ∧
    (∀ n ∈ [0, 1], let s := askM part kindSetTimers 0x1C [0, 0, 0, 0, n, 0, n, 0, n, 0]
      s.Ready .management kindSetTimers ∧ (s.headRequest .management).limit 0 = none ∧ (s.headRequest .management).limit 2 = some n ∧
      (s.headRequest .management).limit 3 = some n ∧ (s.headRequest .management).limit 4 = some n) := by decide +kernel

/-- The part with a SET-TENANT in M's ring: tenant, metering byte and ceiling. -/
def setTenant0 (n metering ceiling : Nat) : State :=
  askM part kindSetTenant 0 [n, metering, 10, 0, ceiling % 256, ceiling / 256 % 256, ceiling / 65536 % 256, ceiling / 16777216]

theorem witness_SetTenantClamps :
    (∀ x ∈ [(64, 0, 0), (63, 2, 0), (63, 0, 16777216), (2, 0, 16777215), (2, 1, 0)],
      let s := setTenant0 x.1 x.2.1 x.2.2
      s.Ready .management kindSetTenant ∧ (s.headRequest .management).byte 4 = x.1 ∧ (s.headRequest .management).byte 5 = x.2.1 ∧
      (s.headRequest .management).word 8 = x.2.2) ∧
    (let s := creditWaits 0 .host
     ∃ e ∈ s.credit.waitList, e.reason = .credit ∧ e.tenant = 2) := by decide +kernel

/-- A CREDIT entry of tenant 2 waits among SPACE entries, its own and another tenant's, and a CREDIT entry of another tenant. -/
def mixedList : List WaitEntry :=
  [⟨⟨0, 0⟩, 0, 1, .host, .space, 2, false⟩, ⟨⟨1, 0⟩, 5, 2, .host, .credit, 64, false⟩, ⟨⟨1, 1⟩, 5, 2, .host, .space, 3, false⟩,
    ⟨⟨0, 1⟩, 0, 1, .host, .credit, 1, false⟩]

/-- The part with that list, and metering turned off for tenant 2. -/
def meteringOff : State :=
  askM { part with credit := { part.credit with waitList := mixedList } } kindSetTenant 0 [2, 1, 10, 0, 0, 0, 0, 0]

theorem witness_SetTenantClamps_mixed :
    meteringOff.Ready .management kindSetTenant ∧ (meteringOff.headRequest .management).byte 4 = 2 ∧
    (meteringOff.headRequest .management).byte 5 = 1 ∧ (meteringOff.headRequest .management).word 8 ≤ 16777215 ∧
    (meteringOff.credit.waitList.map (·.ctx)).Nodup ∧ meteringOff.NoCreditDue 2 ∧
    meteringOff.credit.waitList.filter (fun e => decide (e.reason = .credit ∧ e.tenant = 2 ∧ e.cls = .host)) =
      [⟨⟨1, 0⟩, 5, 2, .host, .credit, 64, false⟩] := by decide +kernel

/-- The part with a SET-STREAM of stream `st` in M's ring: tenant, group and target, with the profile SPREAD on position 1. -/
def setStream0 (s : State) (st n g target mask : Nat) : State := askM s kindSetStream 0 [st, n, g, target, 1, mask, 7]

theorem witness_SetStreamConfigures :
    ((setStream0 part 0 1 0 0 2).Ready .management kindSetStream ∧ ((setStream0 part 0 1 0 0 2).headRequest .management).byte 4 = 0 ∧
     (part.streams.get 0).state ≠ .closed) ∧
    (∀ x ∈ [(64, 0, 2), (1, 8, 2), (1, 254, 2), (1, 0, 0)],
      let s := setStream0 part 2 x.1 x.2.1 2 x.2.2
      s.Ready .management kindSetStream ∧ (s.streams.get 2).state = .closed ∧ (s.headRequest .management).byte 5 = x.1 ∧
      (s.headRequest .management).byte 6 = x.2.1 ∧ ((s.headRequest .management).streamProfile = none ↔ x.2.2 = 0)) ∧
    (∀ x ∈ [(63, 7, 255), (1, 255, 2), (1, 0, 5)],
      let s := setStream0 part 2 x.1 x.2.1 x.2.2 2
      s.Ready .management kindSetStream ∧ (s.headRequest .management).byte 7 = x.2.2 ∧
      (s.headRequest .management).streamProfile = some ⟨.spread, 2, 6⟩) ∧
    (part.streams.get 5).tenant ≠ 1 ∧ (∀ y, y ≠ 2 → (part.streams.get y).target ≠ 2) ∧
    ((part.modStream 1 (fun r => { r with target := 2 })).streams.get 1).target = 2 ∧ (part.streams.get 2).tenant ≠ 63 := by decide +kernel

theorem witness_SetFilterSelectsTenants :
    (askM part kindSetFilter 0 [0xFF, 0xFF]).Ready .management kindSetFilter ∧ part.reclaim.care = 0 ∧
    ({ part with reclaim := { part.reclaim with care := 0x3F } } : State).reclaim.care = 0x3F := by decide +kernel

theorem witness_RestoreLoadsUnits_seek :
    ((askM part kindSeekUnits 0 [0, 0]).Ready .management kindSeekUnits ∧ part.mgmt.device ≠ .halted) ∧
    ∀ u ∈ [127, 128], let s := askM (partIn .halted) kindSeekUnits 0 [u, 0]
      s.Ready .management kindSeekUnits ∧ s.mgmt.device = .halted ∧ (s.headRequest .management).half 4 = u ∧ s.units.length = 128 := by
  decide +kernel

/-- The HALTED part with its cursor at a unit and a LOAD-UNITS of one record: state code and tenant. -/
def load1 (cursor code tenant : Nat) : State :=
  askM ((partIn .halted).modMgmt (fun m => { m with cursor := cursor })) kindLoadUnits 1 [code, tenant, 0, 64, 0, 2, 0, 0, 9, 0]

theorem witness_RestoreLoadsUnits_load :
    (∀ x ∈ [(8, 7, 0), (8, 1, 64), (0, 2, 63), (3, 2, 63), (8, 0, 0), (127, 1, 63), (8, 2, 63), (8, 3, 63), (8, 4, 0), (8, 5, 0), (8, 6, 0)],
      let s := load1 x.1 x.2.1 x.2.2
      s.Ready .management kindLoadUnits ∧ s.mgmt.device = .halted ∧ s.mgmt.cursor = x.1 ∧ (s.headRequest .management).count = 1 ∧
      (s.unit? x.1).isSome ∧ (loadedRecord (((s.headRequest .management).bytes.drop 4).take 14)).stateCode = x.2.1 ∧
      (loadedRecord (((s.headRequest .management).bytes.drop 4).take 14)).tenant = x.2.2) ∧
    unit0.state = .opened ∧ unit3.state = .reclaim ∧ UnitRecord.blank.state = .free := by decide +kernel

theorem witness_RestoreLoadsUnits_refused :
    ((askM part kindLoadUnits 1 []).Ready .management kindLoadUnits ∧ part.mgmt.device ≠ .halted) ∧
    ∀ n ∈ [0, 3], let s := askM (partIn .halted) kindLoadUnits n []
      s.Ready .management kindLoadUnits ∧ s.mgmt.device = .halted ∧ (s.headRequest .management).count = n := by decide +kernel

/-- The HALTED part with its cursor at a unit and a LOAD-UNITS of two records, each a state code and a tenant. -/
def load2 (cursor code tenant code' tenant' : Nat) : State :=
  askM ((partIn .halted).modMgmt (fun m => { m with cursor := cursor })) kindLoadUnits 2
    ([code, tenant, 0, 64, 0, 2, 0, 0, 9, 0, 0, 0, 0, 0] ++ [code', tenant', 0, 64, 0, 2, 0, 0, 9, 0, 0, 0, 0, 0])

/-- Two records over the end of the table, with each outcome of the first. -/
theorem witness_RestoreLoadsUnits_two :
    (∀ code ∈ [0, 2, 4, 6, 7], let s := load2 127 code 1 2 1
      s.Ready .management kindLoadUnits ∧ s.mgmt.device = .halted ∧ s.mgmt.cursor = 127 ∧
      (s.headRequest .management).count = 2 ∧ s.unit? 127 = some UnitRecord.blank ∧ s.unit? 0 = some unit0 ∧
      s.units.length = 128) ∧
    unit0.state = .opened := by decide +kernel

/-- A state with group 0 in a search state, and a high watermark that the group's units do not reach. -/
def searchIn (k : SearchState) (s : State) : State :=
  { s with groups := s.groups.set 0 (some ⟨{ config0 with high := 128 }, { reclaim0 with search := k }⟩) }

/-- Records over HELD unit 2 and FIXED unit 7 and over unit 1 with hold NONE, with their group WAITING or SEARCHING. -/
theorem witness_RestoreLoadsUnits_groups :
    (∀ u ∈ [1, 2, 7], ∀ code ∈ [0, 2, 4, 6], ∀ k ∈ [SearchState.waiting, .searching],
      let s := searchIn k (load1 u code 1)
      s.Ready .management kindLoadUnits ∧ s.mgmt.device = .halted ∧ s.mgmt.cursor = u ∧ (s.headRequest .management).count = 1 ∧
      (loadedRecord (((s.headRequest .management).bytes.drop 4).take 14)).stateCode = code ∧ s.groupOfUnit u = some 0 ∧
      s.groups.get 0 = some ⟨{ config0 with high := 128 }, { reclaim0 with search := k }⟩) ∧
    ((part.unit? 2).map (·.hold) = some .held ∧ unit7.hold = .fixed ∧ unit1.hold = .noHold) ∧
    [unit1, unit2, unit7].all (fun x => decide (x.state = .sealed) && x.settled) = true := by decide +kernel

theorem witness_RestoreLoadsUnits_lists : (load1 8 0 0).FreeListsLegal :=
  free_lists_legal _ (by decide +kernel) (by decide +kernel) (by decide +kernel)

/-! ## Witnesses: reading back and steering -/

theorem witness_ReadbackOnlyReads :
    ((askM State.reset kindReadUnit 0 [0, 0]).Ready .management kindReadUnit ∧ State.reset.mgmt.device = .unconfigured) ∧
    (∀ u ∈ [1, 128], (askM part kindReadUnit 0 [u, 0]).Ready .management kindReadUnit ∧
      ((askM part kindReadUnit 0 [u, 0]).headRequest .management).half 4 = u) ∧
    part.mgmt.device ≠ .unconfigured ∧ part.unit? 1 = some unit1 ∧ part.unit? 128 = none ∧
    ((askM part kindReadStream 0 [255]).Ready .management kindReadStream ∧
      ((askM part kindReadStream 0 [255]).headRequest .management).byte 4 = 255) ∧
    (∀ n ∈ [63, 64], (askM part kindReadTenant 0 [n]).Ready .management kindReadTenant ∧
      ((askM part kindReadTenant 0 [n]).headRequest .management).byte 4 = n) ∧
    ((askM part kindGetStatus 0 [0, 0]).Ready .management kindGetStatus ∧
      (∀ g r, part.reclaimOf g = some r → r.slots.length ≤ 4) ∧ part.link.waiting.Nodup) ∧
    (∀ x ∈ [(0, 0), (1, 7), (2, 31), (3, 3)], let s := askM part kindGetStatus 0 [x.1, x.2]
      s.Ready .management kindGetStatus ∧ (s.headRequest .management).byte 4 = x.1 ∧ (s.headRequest .management).byte 5 = x.2) ∧
    (∀ x ∈ [(4, 0), (1, 8), (2, 32), (3, 4)], let s := askM part kindGetStatus 0 [x.1, x.2]
      s.Ready .management kindGetStatus ∧ (s.headRequest .management).byte 4 = x.1 ∧ (s.headRequest .management).byte 5 = x.2) ∧
    (askM part kindClearStatus 0 []).Ready .management kindClearStatus := by decide +kernel

theorem witness_RunStartsPart :
    ((askM part kindRun 0 []).Ready .management kindRun ∧ part.mgmt.device ≠ .halted) ∧
    (let s := askM { partIn .halted with groups := State.reset.groups } kindRun 0 []
     s.Ready .management kindRun ∧ s.mgmt.device = .halted ∧ ∀ g, (s.groups.get g).isSome = false) ∧
    (let s := askM (partIn .halted) kindRun 0 []
     s.Ready .management kindRun ∧ s.mgmt.device = .halted ∧ (s.groups.get 0).isSome = true ∧
     (∀ d < s.dieCount, (s.groupOfDie d).isSome = true) ∧ s.NoWork ∧ s.plwAsserted = false) ∧
    (let s := askM (workWaits (partIn .halted)) kindRun 0 []
     s.Ready .management kindRun ∧ s.mgmt.device = .halted ∧ (s.groups.get 0).isSome = true ∧
     (∀ d < s.dieCount, (s.groupOfDie d).isSome = true) ∧ Waits s 0 0) := by
  unfold Waits; decide +kernel

/-- Die 0 running the program of page 1 of unit 0. -/
def programming : State := withDie (fun r => { r with
  state := .program
  current := some (.program key0)
  backlogs := Table.replicate 7 []
  opTimer := some 200 })

theorem witness_HaltWaitsForRest :
    ((askM part kindHalt 0 []).Ready .management kindHalt ∧ part.mgmt.device = .running ∧
      ∀ d, (part.dies.get d).state = .idle) ∧
    ((askM programming kindHalt 0 []).Ready .management kindHalt ∧ 0 < programming.dieCount ∧
      (programming.dies.get 0).state = .program) ∧
    (let s := askM (searching id) kindHalt 0 []
     s.Ready .management kindHalt ∧ s.mgmt.device = .running ∧ (s.reclaimOf 0).map (·.search) = some .searching) ∧
    (∀ d ∈ [DeviceState.halting, .halted, .unconfigured], (askM (partIn d) kindHalt 0 []).Ready .management kindHalt ∧
      (partIn d).mgmt.device = d) ∧
    (let s := (partIn .halting).modMgmt (fun m => { m with haltReply := some ⟨1, 5⟩ })
     s.mgmt.device = .halting ∧ s.mgmt.haltReply = some ⟨1, 5⟩ ∧ ∀ d, (s.dies.get d).state = .idle) := by decide +kernel

theorem witness_RevivePortEmptiesRings :
    (∀ p ∈ [0, 3, 4], (askM part kindRevivePort 0 [p]).Ready .management kindRevivePort ∧
      ((askM part kindRevivePort 0 [p]).headRequest .management).byte 4 = p) ∧
    (part.masters.get 0).state = .active ∧ (part.masters.get 0).fenceDue = false ∧
    ((askM fenceDue0 kindRevivePort 0 [0]).Ready .management kindRevivePort ∧ (fenceDue0.masters.get 0).state = .active ∧
      (fenceDue0.masters.get 0).fenceDue = true) ∧
    ((askM fenced0 kindRevivePort 0 [0]).Ready .management kindRevivePort ∧ (fenced0.masters.get 0).state = .fenced) := by decide +kernel

theorem witness_ClearDieFaultRestoresDie :
    (∀ d ∈ [1, 2], (askM part kindClearDieFault 0 [d]).Ready .management kindClearDieFault ∧
      ((askM part kindClearDieFault 0 [d]).headRequest .management).byte 4 = d) ∧
    part.dieCount = 2 ∧ (part.dies.get 1).state ≠ .faulted ∧
    (let s := askM faultedPart kindClearDieFault 0 [0]
     s.Ready .management kindClearDieFault ∧ (s.dies.get 0).state = .faulted ∧ s.NoWork ∧ s.NoneSuspended ∧
     s.isRunning = true ∧ s.plwAsserted = false ∧ s.groupOfDie 0 = some 0) ∧
    (let s := askM (workWaits faultedPart) kindClearDieFault 0 [0]
     s.Ready .management kindClearDieFault ∧ (s.dies.get 0).state = .faulted ∧ Waits s 0 0) ∧
    (let s := askM { faultedPart with groups := State.reset.groups } kindClearDieFault 0 [0]
     s.Ready .management kindClearDieFault ∧ (s.dies.get 0).state = .faulted ∧ s.groupOfDie 0 = none) := by
  unfold Waits; decide +kernel

/-- The part with two orders of P0, number 7 of unit 3 in a phase and number 8 of unit 1 ISSUED, and notice slots of P0 held. -/
def cancelling (phase : OrderPhase) (held : Nat) : State :=
  ((((part.modRing (.master 0) (fun r => { r with noticeHoldings := held })).modUnit 1
    (fun u => { u with state := .reclaim, orderSlot := some 1 })).setOrder ⟨0, 0⟩ (some { order0 with phase := phase })).setOrder ⟨0, 1⟩
    (some ⟨1, 1, 0, 0, 8, .issued 9⟩))

/-- The orders of a port have no notice with another port where only that port has notices waiting. -/
theorem notices_apart (s : State) (p : MasterId) (h : ∀ w, w ≠ p → s.reclaim.notices.get w = []) :
    ∀ r o w, s.order r = some o → o.port = p → w ≠ p → r ∉ s.reclaim.notices.get w :=
  fun r _ w _ _ hw => by simp [h w hw]

/-- Two ISSUED orders of one port, or one behind a PENDING one, with every notice slot free, one free and none; and, with none free, the
notice of the PENDING order and that of a CLOSING one waiting. -/
theorem witness_CancelOrdersEndsOrders_notices :
    (∀ held ∈ [0, 7, 8], ∀ phase ∈ [OrderPhase.pending, .issued 9],
      let s := askM (cancelling phase held) kindCancelOrders 0 []
      s.Ready .management kindCancelOrders ∧ s.mgmt.device ≠ .unconfigured ∧ s.noticePlace 0 = decide (held < 8) ∧
      s.order ⟨0, 0⟩ = some { order0 with phase := phase } ∧ s.order ⟨0, 1⟩ = some ⟨1, 1, 0, 0, 8, .issued 9⟩ ∧
      ∀ p, s.reclaim.notices.get p = []) ∧
    ∀ phase ∈ [OrderPhase.pending, .closing .timer],
      let s := askM ((cancelling phase 8).modNotices 0 (fun _ => [⟨0, 0⟩])) kindCancelOrders 0 []
      s.Ready .management kindCancelOrders ∧ s.mgmt.device ≠ .unconfigured ∧ s.noticePlace 0 = false ∧
      s.order ⟨0, 0⟩ = some { order0 with phase := phase } ∧ s.order ⟨0, 1⟩ = some ⟨1, 1, 0, 0, 8, .issued 9⟩ ∧
      s.reclaim.notices.get 0 = [⟨0, 0⟩] ∧ ∀ w, w ≠ 0 → s.reclaim.notices.get w = [] := by decide +kernel

/-- In each of these states the orders of P0 have no notice with another port. -/
theorem witness_CancelOrdersEndsOrders_apart :
    let s := askM ((cancelling .pending 8).modNotices 0 (fun _ => [⟨0, 0⟩])) kindCancelOrders 0 []
    ∀ r o w, s.order r = some o → o.port = 0 → w ≠ 0 → r ∉ s.reclaim.notices.get w :=
  notices_apart _ 0 (by decide +kernel)

theorem witness_CancelOrdersEndsOrders :
    (askM State.reset kindCancelOrders 0 []).Ready .management kindCancelOrders ∧ State.reset.mgmt.device = .unconfigured ∧
    (askM part kindCancelOrders 0 []).Ready .management kindCancelOrders ∧ part.mgmt.device ≠ .unconfigured ∧
    part.order ⟨0, 0⟩ = some order0 ∧ part.unit? order0.unit = some unit3 ∧ unit3.valid ≠ 0 := by decide +kernel

/-! ## Witnesses: reclaim -/

/-- The part with unit 1 changed. -/
def withUnit1 (s : State) (f : UnitRecord → UnitRecord) : State := s.modUnit 1 f

/-- The part with group 0's high watermark changed. -/
def withHigh (s : State) (n : Nat) : State :=
  { s with groups := s.groups.modify 0 (Option.map (fun r => { r with config := { config0 with high := n } })) }

/-- Group 0 of the part has 122 FREE, ERASING and RECLAIM units: a high watermark of 122 is reached, one of 123 is not. -/
theorem witness_SearchExaminesUnit_activity :
    ∀ n ∈ [122, 123], ∀ st ∈ [SearchState.idle, .searching, .waiting],
      let s := withHigh (part.modReclaim 0 (fun k => { k with search := st })) n
      s.groups.get 0 = some ⟨{ config0 with high := n }, { reclaim0 with search := st }⟩ ∧ reclaim0.active = true ∧
      decide (n ≤ s.freeCount config0 + s.countUnits config0 .erasing + s.countUnits config0 .reclaim) = decide (n = 122) := by decide +kernel

/-- Searches that came to an end: discarded, in an inactive group, and while no order may be issued. -/
theorem witness_SearchExaminesUnit_discard :
    ∀ s ∈ [searching (fun k => { k with cursor := some 127, discard := true }),
        searching (fun k => { k with cursor := some 127, active := false }),
        { searching (fun k => { k with cursor := some 127 }) with inputs := ⟨.low, .high⟩ }],
      (s.reclaimOf 0).map (fun k => (k.search, k.chosen, k.cursor)) = some (.searching, none, some 127) ∧
      s.victimEligible 127 = false ∧ (config0.last + 1) * s.bpd ≤ 127 + 1 := by decide +kernel

theorem witness_SearchExaminesUnit :
    (part.groups.get 0 = some ⟨config0, reclaim0⟩ ∧ part.unit? 0 = some unit0 ∧ config0.first * part.bpd = 0 ∧
     reclaim0.active = true ∧ reclaim0.search = .idle ∧ reclaim0.freeSlot.isSome = true ∧ part.mayIssue = true ∧
     part.victimEligible 0 = false) ∧
    (∀ u ∈ [1, 126], let s := searching (fun k => { k with cursor := some u })
      (∃ r, s.groups.get 0 = some ⟨config0, r⟩ ∧ r.search = .searching ∧ r.chosen = none ∧ r.cursor = some u) ∧
      u + 1 < (config0.last + 1) * s.bpd ∧ s.victimEligible u = decide (u = 1)) ∧
    (unit1.retirePending = false ∧ part.score unit1 ≠ 0) ∧
    (let s := withUnit1 part (fun r => { r with retirePending := true }); s.victimEligible 1 = true) ∧
    (let x := { unit1 with retirePending := true, valid := 64 }
     let s := withUnit1 part (fun _ => x); s.victimEligible 1 = true ∧ s.score x = 0) ∧
    (let s := withUnit1 (part.modMgmt (fun m => { m with geometry := some ⟨2, 64, 1024⟩ })) (fun r => { r with valid := 1023 })
     s.victimEligible 1 = true ∧ s.score { unit1 with valid := 1023 } = 0) ∧
    (∀ c ∈ [none, some (Candidate.scored 1 2 3), some (.scored 2 2 3)],
      let s := searching (fun k => { k with cursor := some 127, candidate := c })
      (∃ r, s.groups.get 0 = some ⟨config0, r⟩ ∧ r.search = .searching ∧ r.chosen = none ∧ r.cursor = some 127 ∧
        r.candidate = c ∧ r.active = true ∧ r.discard = false ∧ r.freeSlot = some 1) ∧
      (config0.last + 1) * s.bpd ≤ 127 + 1 ∧ s.victimEligible 127 = false ∧ s.mayIssue = true ∧
      (c = some (.scored 1 2 3) → s.stillVictim (.scored 1 2 3) = true) ∧
      (c = some (.scored 2 2 3) → s.stillVictim (.scored 2 2 3) = false)) :=
  ⟨by decide +kernel, by
    intro u hu
    fin_cases hu <;> exact ⟨⟨_, rfl, by decide +kernel, by decide +kernel, by decide +kernel⟩, by decide +kernel, by decide +kernel⟩,
   by decide +kernel, by decide +kernel, by decide +kernel, by decide +kernel, by
    intro c hc
    fin_cases hc <;>
      exact ⟨⟨_, rfl, by decide +kernel, by decide +kernel, by decide +kernel, by decide +kernel, by decide +kernel, by decide +kernel, by decide +kernel⟩, by decide +kernel, by decide +kernel, by decide +kernel,
        by decide +kernel, by decide +kernel⟩⟩

theorem witness_OrderIssueMovesUnit :
    ∀ u ∈ [1, 2], ∀ s ∈ [part, noticesFull],
      let s := s.modReclaim 0 (fun k => { k with search := .searching, chosen := some 1, candidate := some (.scored u 2 3) })
      ((s.reclaimOf 0).map (fun k => (k.chosen, k.candidate, k.slots.length, k.discard))) = some (some 1, some (.scored u 2 3), 2, false) ∧
      s.mayIssue = true ∧ s.unit? u = some (if u = 1 then unit1 else unit2) ∧ unit1.movable = true ∧ unit2.movable = false ∧
      unit1.tenant = some 1 ∧ s.usableRoute unit1 = some 0 ∧ (s.streams.get 0).port = some 0 ∧
      (s.reclaim.notices.get 0 = [] ∨ s.noticePlace 0 = false) := by decide +kernel

/-- A chosen unit that was sealed again before its order and stands in a young list. -/
theorem witness_OrderIssueMovesUnit_young :
    let s := (part.modReclaim 0 (fun k => { k with search := .searching, chosen := some 1, candidate := some (.scored 1 2 3) })).modStream 0
      (fun r => { r with young := [1] })
    ((s.reclaimOf 0).map (fun k => (k.chosen, k.candidate, k.slots.length))) = some (some 1, some (.scored 1 2 3), 2) ∧
    s.mayIssue = true ∧ s.unit? 1 = some unit1 ∧ 1 ∈ (s.streams.get 0).young := by decide +kernel

/-- A chosen unit whose search is to be discarded. -/
theorem witness_OrderIssueMovesUnit_discard :
    let s := part.modReclaim 0 (fun k =>
      { k with search := .searching, chosen := some 1, candidate := some (.scored 1 2 3), discard := true })
    ((s.reclaimOf 0).map (fun k => (k.chosen, k.candidate, k.slots.length, k.discard))) = some (some 1, some (.scored 1 2 3), 2, true) ∧
    s.mayIssue = true ∧ s.unit? 1 = some unit1 := by decide +kernel

/-! ## Witnesses: dies and the link -/

/-- The part with a queue on die 0 and no page in a backlog. -/
def queued (e : BackgroundEntry) : State := withDie (fun r => { r with
  backlogs := Table.replicate 7 []
  queue := [e] })

/-- Die 0 with a page at level 2 and one at level 4, whose pass-over counts are given. -/
def twoLevels (two four : Nat) : State := { withDie (fun r => { r with
    backlogs := (Table.replicate 7 []).set 2 [key0] |>.set 4 [⟨8, 0⟩]
    passOver := (Table.replicate 7 0).set 2 two |>.set 4 four }) with
  pool := [⟨⟨⟨0, 0⟩, 0⟩, key0, 0, 2, 100⟩, ⟨⟨⟨0, 0⟩, 1⟩, ⟨8, 0⟩, 0, 4, 101⟩] }

/-- R117: the highest eligible level, or the level at 16; the second is no choice of a level that stands at 16 below another at 16. -/
theorem witness_ArbitrateIssuesChoice_level :
    (twoLevels 15 0).grantChoice 0 = some (4, ⟨8, 0⟩) ∧ (twoLevels 16 0).grantChoice 0 = some (2, key0) ∧
    (twoLevels 16 16).grantChoice 0 = some (4, ⟨8, 0⟩) ∧ part.grantChoice 1 = none := by decide +kernel

/-- A background operation that may start, and one that may not for an OPEN window, for PLW_N and for the device's state. -/
theorem witness_ArbitrateIssuesChoice_startable :
    (let s := queued ⟨.erase, 4⟩
     (∀ p, (s.dies.get 0).windows.get p = .closed) ∧ s.inputs.plwN = .high ∧ s.mgmt.device = .running) ∧
    (let s := (queued ⟨.erase, 4⟩).modDie 0 (fun r => { r with windows := r.windows.set 0 (.opened 3) })
     (s.dies.get 0).windows.get 0 = .opened 3) ∧
    ({ queued ⟨.erase, 4⟩ with inputs := ⟨.low, .high⟩ } : State).inputs.plwN ≠ .high ∧
    ((queued ⟨.erase, 4⟩).setDevice .halted).mgmt.device ≠ .running ∧
    part.config 0 = some config0 ∧ config0.first ≤ 0 ∧ 0 ≤ config0.last := by decide +kernel

theorem witness_ArbitrateIssuesChoice :
    (∀ e ∈ [(⟨.erase, 4⟩ : BackgroundEntry), ⟨.check, 5⟩],
      ((queued e).dies.get 0).state = .idle ∧ (queued e).startable 0 = some e ∧ (queued e).grantChoice 0 = none) ∧
    (let s := { part.modDie 0 (fun r => { r with queue := [⟨.erase, 4⟩] }) with freeLists := Table.replicate 32 [] }
     s.startable 0 = some ⟨.erase, 4⟩ ∧ s.urgent 0 = true ∧ s.grantChoice 0 = some (2, key0)) ∧
    ((part.dies.get 0).state = .idle ∧ part.grantChoice 0 = some (2, key0) ∧ part.startable 0 = none ∧
      part.link.queue.length < 32 ∧ part.link.tags.length < 32 ∧ part.link.waiting = []) ∧
    (let s := { part with link := { part.link with waiting := [1] } }
     s.grantChoice 0 = some (2, key0) ∧ s.link.waiting ≠ []) ∧
    (part.dies.get 1).state = .idle ∧ part.startable 1 = none ∧ part.grantChoice 1 = none := by decide +kernel

/-- An entry of an ERASE of unit 4, with a tag. -/
def eraseTag (tag : Byte) : TagEntry := ⟨tag, 0, .erase, 4, none, .sent, false⟩

/-- A state with die 0 at the head of the dies that wait. -/
def offered (s : State) : State := { s with link := { s.link with waiting := [0, 1] } }

/-- Each decision of an offered die: IDLE with a background operation and with a page; in ERASE with a page, with a window, and at the
suspend limit; SUSPENDED with a page, without one, and without one while a window is OPEN or a program is outstanding; and PROGRAM. -/
theorem witness_QueuesTakeWaiting_offers :
    (let s := offered (queued ⟨.erase, 4⟩)
     s.link.waiting = [0, 1] ∧ (s.dies.get 0).state = .idle ∧ s.startable 0 = some ⟨.erase, 4⟩ ∧ s.grantChoice 0 = none ∧
     s.link.queue.length < 32 ∧ s.link.tags.length < 32) ∧
    (let s := offered part
     (s.dies.get 0).state = .idle ∧ s.startable 0 = none ∧ s.grantChoice 0 = some (2, key0)) ∧
    (∀ w ∈ [Window.closed, .waiting ⟨0, 3⟩], ∀ n ∈ [0, 4],
     let s := offered ((erasing0.modDie 0 (fun r => { r with windows := r.windows.set 0 w })).modUnit 4 (fun r => { r with suspendCount := some n }))
     (s.dies.get 0).state = .erase ∧ (s.dies.get 0).purpose = none ∧ (s.dies.get 0).current = some (.erase 4) ∧
     s.unit? 4 = some { unit4 with suspendCount := some n } ∧ s.suspendLimit 0 = 4 ∧ s.urgent 0 = false ∧ s.grantChoice 0 = some (2, key0) ∧
     (s.dies.get 0).windows.get 0 = w) ∧
    (∀ pages ∈ [[], [key0]], ∀ w ∈ [Window.closed, .opened 3],
     let s := offered (suspended0 w .closed pages)
     (s.dies.get 0).state = .suspended ∧ (s.dies.get 0).purpose = some .serve ∧ (s.dies.get 0).current = some (.erase 4) ∧
     (s.dies.get 0).suspendedProgram = none ∧ (s.dies.get 0).windows.get 0 = w ∧
     s.grantChoice 0 = (if pages = [] then none else some (2, key0)) ∧ s.allowance 0 = 8) ∧
    (offered ((suspended0 .closed .closed []).modDie 0 (fun r => { r with suspendedProgram := some key0 }))).link.waiting = [0, 1] ∧
    ((offered programming).dies.get 0).state = .program := by decide +kernel

theorem witness_QueuesTakeWaiting :
    (partIn .halted).queueOpen 0 = false ∧ part.queueOpen 0 = true ∧ (part.dies.get 0).waiting.length = 2 ∧
    (let s := { part with link := { part.link with waiting := [1] } }
     s.link.waiting = [1] ∧ s.link.queue.length < 32 ∧ s.link.tags.length < 32 ∧ (s.dies.get 1).state = .idle ∧
     s.startable 1 = none ∧ s.grantChoice 1 = none) ∧
    (let s := { erasing0.modDie 0 (fun r => { r with purpose := some .abandon }) with link := { part.link with waiting := [0] } }
     s.link.waiting = [0] ∧ (s.dies.get 0).state = .erase ∧ (s.dies.get 0).purpose = some .abandon ∧
     (s.dies.get 0).current = some (.erase 4)) ∧
    (let s := { part with link := { part.link with
       waiting := [1]
       tags := (List.range 32).map (fun n => eraseTag (BitVec.ofNat 8 n)) } }
     s.link.waiting = [1] ∧ 32 ≤ s.link.tags.length) := by decide +kernel

/-- The entry of tag 7: the PROGRAM of page 1 of unit 0. -/
def programTag : TagEntry := ⟨7, 0, .program, 0, some key0, .sent, false⟩

theorem witness_LinkSendsAndDiscards :
    (let s := { part with link := { part.link with queue := [⟨.program, 0, 7, 0, 1, 100⟩] } }
     s.link.queue = [⟨.program, 0, 7, 0, 1, 100⟩]) ∧
    (∀ x ∈ part.link.tags, x.tag ≠ 7) ∧
    (let e := { programTag with phase := .queued }
     (withTag part e).link.tags.find? (fun y => decide (y.tag = 7)) = some e ∧ e.phase = .queued) ∧
    ((withTag part programTag).link.tags.find? (fun y => decide (y.tag = 7)) = some programTag ∧ programTag.phase = .sent ∧
      (1 : Byte).toNat ≠ programTag.die.val ∧ (0 : Byte).toNat = programTag.die.val ∧
      programTag.kind.allows (2 : Byte).toNat = false) := by decide +kernel

/-! ## Witnesses: completions -/

/-- The completion of tag 7 on die 0, of a kind. -/
def answer7 (kind : Byte) : Completion := ⟨kind, 0, 7, 0⟩

theorem witness_ProgramDoneCounts :
    (let s := withTag programming programTag
     s.Names (answer7 0) programTag ∧ s.poolEntry key0 = some ⟨⟨⟨0, 0⟩, 0⟩, key0, 0, 2, 100⟩ ∧ s.context ⟨0, 0⟩ = some write0 ∧
     write0.source = none ∧ s.unit? 0 = some unit0 ∧ s.NoneSuspended ∧ (s.dies.get 0).suspendedProgram = none ∧
     (s.dies.get 0).current = some (.program key0)) ∧
    (∀ src ∈ [(⟨1, some 0, 3⟩ : SourceUnit), ⟨1, some 0, 2⟩, ⟨2, some 0, 3⟩],
      let x := { write0 with cls := .reloc, source := some src }
      let s := { withTag programming programTag with contexts := [x] }
      s.context ⟨0, 0⟩ = some x ∧ src.unit ≠ 0 ∧ s.unit? src.unit = some (if src.unit = 1 then unit1 else unit2)) ∧
    unit1.sealEpoch = some 0 ∧ unit1.eraseCount = 3 ∧ 1 < unit1.valid ∧ unit2.valid = 0 := by decide +kernel

/-- Die 0 SUSPENDED to serve, the erase of unit 4 held and page 1 of unit 0 its suspended program under tag 7, with P0's window. -/
def serving (w : Window) : State :=
  withTag (withDie (fun r => { r with
    state := .suspended
    purpose := some .serve
    current := some (.erase 4)
    heldErase := some 150
    suspendedProgram := some key0
    programs := some 1
    opTimer := some 100
    backlogs := Table.replicate 7 []
    windows := r.windows.set 0 w })) programTag

theorem witness_ProgramDoneCounts_suspended :
    ∀ w ∈ [Window.opened 5, .closed], let s := serving w
      s.Names (answer7 0) programTag ∧ s.poolEntry key0 = some ⟨⟨⟨0, 0⟩, 0⟩, key0, 0, 2, 100⟩ ∧ s.context ⟨0, 0⟩ = some write0 ∧
      write0.source = none ∧ s.unit? 0 = some unit0 ∧ (s.dies.get 0).state = .suspended ∧
      (s.dies.get 0).purpose = some .serve ∧ (s.dies.get 0).suspendedProgram = some key0 ∧
      (s.dies.get 0).current = some (.erase 4) ∧ (∀ d, (s.dies.get d).state = .suspended → d = 0) ∧
      (∀ v, (s.dies.get 0).backlogs.get v = []) ∧ (s.dies.get 0).windows.get 0 = w ∧
      (w = .closed → (∀ p n, (s.dies.get 0).windows.get p ≠ .opened n) ∧ s.link.queue.length < 32 ∧
        s.link.tags.length ≤ 32 ∧ s.link.waiting = []) := by
  intro w hw
  fin_cases hw
  · exact ⟨by decide +kernel, by decide +kernel, by decide +kernel, rfl, by decide +kernel, by decide +kernel, by decide +kernel,
      by decide +kernel, by decide +kernel, by decide +kernel, by decide +kernel, by decide +kernel, fun h => nomatch h⟩
  · exact ⟨by decide +kernel, by decide +kernel, by decide +kernel, rfl, by decide +kernel, by decide +kernel, by decide +kernel,
      by decide +kernel, by decide +kernel, by decide +kernel, by decide +kernel, by decide +kernel,
      fun _ => ⟨fun p n => by fin_cases p <;> exact nofun, by decide +kernel, by decide +kernel, rfl⟩⟩

/-- The part with pages 1 and 2 of unit 0 allocated to pages 0 and 1 of the request, page 0 of which has failed a number of times. -/
def failing (retries : Nat) : State :=
  { withTag programming programTag with
    contexts := [{ write0 with nextFresh := 2, pages := [⟨.allocated, some ⟨0, 0, 1⟩, retries⟩, ⟨.allocated, some ⟨0, 0, 2⟩, 0⟩,
      ⟨.unplaced, none, 0⟩] }]
    pool := [⟨⟨⟨0, 0⟩, 0⟩, key0, 0, 2, 100⟩, ⟨⟨⟨0, 0⟩, 1⟩, ⟨0, 2⟩, 0, 2, 101⟩] }

theorem witness_ProgramFailRetries :
    ∀ n ∈ [0, 1, 2],
      (failing n).Names (answer7 1) programTag ∧ (failing n).poolEntry key0 = some ⟨⟨⟨0, 0⟩, 0⟩, key0, 0, 2, 100⟩ ∧
      ((failing n).context ⟨0, 0⟩).bind (fun x => x.pages[0]?) = some ⟨.allocated, some ⟨0, 0, 1⟩, n⟩ ∧
      (failing n).unit? 0 = some unit0 ∧ unit0.owner = some 0 ∧ unit0.valid ≠ 0 ∧ (failing n).NoneSuspended ∧
      ((failing n).dies.get 0).suspendedProgram = none ∧ ((failing n).dies.get 0).current = some (.program key0) ∧
      (∀ y ∈ (failing n).unitEntries 0, 1 < y.key.index → y.ref ≠ ⟨⟨0, 0⟩, 0⟩) ∧
      ((failing n).unitEntries 0).filter (fun y => decide (1 < y.key.index)) = [⟨⟨⟨0, 0⟩, 1⟩, ⟨0, 2⟩, 0, 2, 101⟩] := by decide +kernel

/-- The failed page's unit has no valid page, without a hold and HELD. -/
theorem witness_ProgramFailRetries_empty :
    ∀ hold ∈ [Hold.noHold, .held],
      let x := { unit0 with valid := 0, hold := hold }
      let s := (failing 0).modUnit 0 (fun _ => x)
      s.Names (answer7 1) programTag ∧ s.poolEntry key0 = some ⟨⟨⟨0, 0⟩, 0⟩, key0, 0, 2, 100⟩ ∧
      (s.context ⟨0, 0⟩).bind (fun x => x.pages[0]?) = some ⟨.allocated, some ⟨0, 0, 1⟩, 0⟩ ∧ s.unit? 0 = some x ∧
      x.owner = some 0 ∧ x.valid = 0 ∧ x.hold = hold ∧ s.NoneSuspended ∧
      ∀ y ∈ s.unitEntries 0, 1 < y.key.index → y.ref ≠ ⟨⟨0, 0⟩, 0⟩ := by decide +kernel

/-- Die 0 in CHECK of unit 5, its tag 7. -/
def checking : State :=
  withTag (withDie (fun r => { r with state := .check, current := some (.check 5), waiting := [4] }))
    ⟨7, 0, .check, 5, none, .sent, false⟩

theorem witness_EraseAndCheckEnd_erase :
    let s := withTag erasing0 (eraseTag 7)
    (∀ k ∈ [(0 : Byte), 1], s.Names (answer7 k) (eraseTag 7)) ∧ s.unit? 4 = some unit4 ∧ s.NoWork ∧ s.NoneSuspended ∧
      (s.dies.get 0).suspendedProgram = none := by decide +kernel

theorem witness_EraseAndCheckEnd_check :
    (∀ k ∈ [(1 : Byte), 3, 4], checking.Names (answer7 k) ⟨7, 0, .check, 5, none, .sent, false⟩) ∧
    checking.unit? 5 = some unit5 ∧ checking.NoWork ∧ checking.NoneSuspended ∧
    (checking.dies.get 0).suspendedProgram = none := by decide +kernel

/-- Stream 0 waits for space when the unit becomes FREE, in a device state and in a group or in none. -/
theorem witness_EraseAndCheckEnd_waiting :
    (∀ d ∈ [DeviceState.running, .halting, .halted],
      let s := (workWaits (withTag erasing0 (eraseTag 7))).setDevice d
      let c := (workWaits checking).setDevice d
      s.Names (answer7 0) (eraseTag 7) ∧ s.unit? 4 = some unit4 ∧ (s.dies.get 0).suspendedProgram = none ∧ s.mgmt.device = d ∧
      Waits s 4 0 ∧ c.Names (answer7 3) ⟨7, 0, .check, 5, none, .sent, false⟩ ∧ c.unit? 5 = some unit5 ∧
      (c.dies.get 0).suspendedProgram = none ∧ c.mgmt.device = d ∧ Waits c 5 0) ∧
    (let s := { workWaits (withTag erasing0 (eraseTag 7)) with groups := State.reset.groups }
     s.Names (answer7 0) (eraseTag 7) ∧ s.unit? 4 = some unit4 ∧ (s.dies.get 0).suspendedProgram = none ∧
     s.groupOfUnit 4 = none) := by
  unfold Waits; decide +kernel

theorem witness_EraseAndCheckEnd_lists :
    ((withTag erasing0 (eraseTag 7)).FreeListsLegal ∧ unit4.state = .erasing) ∧ (checking.FreeListsLegal ∧ unit5.state = .unknown) :=
  ⟨⟨free_lists_legal _ (by decide +kernel) (by decide +kernel) (by decide +kernel), rfl⟩,
   ⟨free_lists_legal _ (by decide +kernel) (by decide +kernel) (by decide +kernel), rfl⟩⟩

/-- Die 0 SUSPENDING the erase of unit 4 for a purpose, P0's window WAITING there, the SUSPEND's tag 7 SENT. -/
def suspending (purpose : Purpose) : State :=
  withTag (erasing0.modDie 0 (fun r => { r with
    state := .suspending
    purpose := some purpose
    windows := r.windows.set 0 (.waiting ⟨0, 3⟩) })) ⟨7, 0, .suspend, 4, none, .sent, false⟩

theorem witness_SuspensionAnswersDecide_suspend :
    ∀ purpose ∈ [Purpose.serve, .abandon], let s := suspending purpose
      (∀ k ∈ [(0 : Byte), 1, 2], s.Names (answer7 k) ⟨7, 0, .suspend, 4, none, .sent, false⟩) ∧
      (s.dies.get 0).state = .suspending ∧ s.NoneSuspended ∧ (s.dies.get 0).purpose = some purpose ∧ s.plwAsserted = false ∧
      (s.dies.get 0).windows.get 0 = .waiting ⟨0, 3⟩ ∧ (s.dies.get 0).current = some (.erase 4) ∧
      (s.dies.get 0).suspendedProgram = none ∧ s.unit? 4 = some unit4 ∧ unit4.state = .erasing := by decide +kernel

/-- The suspension serves page 1 of unit 0, which is eligible; and with no page and no window the erase goes on at once. -/
theorem witness_SuspensionAnswersDecide_serve :
    let tag : TagEntry := ⟨7, 0, .suspend, 4, none, .sent, false⟩
    (let s := suspending .serve
     s.Names (answer7 2) tag ∧ (s.dies.get 0).state = .suspending ∧ s.NoneSuspended ∧ (s.dies.get 0).purpose = some .serve ∧
     s.plwAsserted = false ∧ (s.dies.get 0).suspendedProgram = none ∧ s.link.queue.length < 32 ∧ s.link.tags.length ≤ 32 ∧
     s.link.waiting = [] ∧ s.grantChoice 0 = some (2, key0) ∧ 0 < s.allowance 0 ∧ s.urgent 0 = false ∧ s.isRunning = true) ∧
    (let s := (suspending .serve).modDie 0 (fun r => { r with backlogs := Table.replicate 7 [], windows := r.windows.set 0 .closed })
     s.Names (answer7 2) tag ∧ (s.dies.get 0).state = .suspending ∧ s.NoneSuspended ∧ (s.dies.get 0).purpose = some .serve ∧
     s.plwAsserted = false ∧ (s.dies.get 0).suspendedProgram = none ∧ s.link.queue.length < 32 ∧ s.link.tags.length ≤ 32 ∧
     s.link.waiting = [] ∧ s.grantChoice 0 = none ∧ (s.dies.get 0).current = some (.erase 4) ∧
     ∀ p, (s.dies.get 0).windows.get p = .closed) := by decide +kernel

theorem witness_SuspensionAnswersDecide_resume :
    let s := workWaits (withTag erasing0 ⟨7, 0, .resume, 4, none, .sent, false⟩)
    (∀ k ∈ [(0 : Byte), 1], s.Names (answer7 k) ⟨7, 0, .resume, 4, none, .sent, false⟩) ∧ s.unit? 4 = some unit4 ∧
      s.NoneSuspended ∧ (s.dies.get 0).suspendedProgram = none ∧ Waits s 4 0 := by
  unfold Waits; decide +kernel

/-! ## Tests of values: the worked sequences of 11_worked_sequences.md and the rules' own formulas -/

/-- Section 11.4: units 70 and 81 at epochs 120 and 125. -/
theorem test_victim_scores : victimScore 256 40 20 = 3923 ∧ victimScore 256 200 100 = 3175 ∧ victimScore 256 8 25 = 6252 ∧
    victimScore 256 200 105 = 3332 := by decide +kernel

/-- Sections 11.2 and 11.3: address list words. -/
theorem test_address_words : pageAddressWord ⟨1, 2, 0⟩ false = 0x00200800 ∧ pageAddressWord ⟨3, 7, 0⟩ false = 0x00601C00 ∧
    pageAddressWord ⟨2, 4, 1⟩ true = 0x80401001 := by decide +kernel

/-- Section 11.2: six pages charged, then four refills to the ceiling. -/
theorem test_balances : chargedBalance 16384 6 = 16288 ∧ refilledBalance 16288 24 16384 = 16312 ∧
    refilledBalance 16360 24 16384 = 16384 ∧ refilledBalance 16384 24 16384 = 16384 := by decide +kernel

theorem test_balance_floor : chargedBalance (-16777210) 64 = -16777216 := by decide +kernel

/-! ## Tests of lines and time -/

theorem test_device_reset : (after .deviceReset part).map (fun t => (t.mgmt.device, t.units.length, t.time.divider)) =
    some (.unconfigured, 0, 100000) := by decide +kernel

/-- Section 11.5: a queued ERASE is taken out of the queue and its unit is UNKNOWN. -/
theorem test_plw_asserted : (after .plwNAsserted part).map (fun t => (t.unitState 4, t.inputs.plwN, t.mgmt.sticky.plwSeen)) =
    some (some .unknown, .low, true) := by decide +kernel

/-- R128: a SUSPENDED die abandons its erase at once. -/
theorem test_plw_suspended : (after .plwNAsserted (withTag (erasing0.modDie 0 (fun r => { r with state := .suspended })) (eraseTag 7))).map
    (fun t => (t.unitState 4, (t.dies.get 0).state, t.link.tags)) = some (some .unknown, .idle, []) := by decide +kernel

/-- Section 11.5: CHECK entries in unit order as the queue opens. -/
theorem test_plw_deasserted :
    (after .plwNDeasserted ({ part with inputs := ⟨.low, .high⟩ }.modUnit 4 UnitRecord.toUnknown)).map (fun t => (t.dies.get 0).queue) =
    some [⟨.check, 4⟩, ⟨.check, 5⟩] := by decide +kernel

theorem test_tick : (after .tick part).map (fun t => (t.time.tick, t.credit.balances.get 2, t.credit.balances.get 1)) =
    some (1, 10, 0) := by decide +kernel

/-- R159, R174: the tick that completes the epoch and P0's T_port makes both due; the tick before neither. -/
theorem test_tick_due : [tickShort 998 3, tickShort 999 4].map (fun s => (after .tick s).map (fun t =>
    (t.time.epochDue, (t.masters.get 0).fenceDue))) = [some (false, false), some (true, true)] := by decide +kernel

theorem test_epoch_advance :
    (after .epochAdvance { part with time := { part.time with epochTicks := 1000, epochDue := true } }).map
      (fun t => (t.time.epoch, t.time.epochTicks)) = some (1, 0) := by decide +kernel

theorem test_credit_admission : (after (.creditAdmission 2) (creditWaits 1 .host)).map
    (fun t => (t.credit.balances.get 2, t.credit.waitList, (t.tenants.get 2).hostPages)) = some (-1023, [], 64) := by decide +kernel

/-- R73: after the tick whose refill makes the balance 7, the earlier request of stream 5 is admitted before the WRITE of stream 6, which is
held at 7 - 1,024; CREDIT_ADMISSION then admits nothing. -/
theorem test_credit_admission_first :
    (((after .tick (creditOther (-3))).bind (after (.write 1))).bind (after (.creditAdmission 2))).map
      (fun t => ((t.lines.get 5).host, (t.lines.get 6).host, t.credit.waitList.map (·.stream), t.credit.balances.get 2)) =
    some ([⟨1, 0⟩], [], [6], -1017) := by decide +kernel

theorem test_idle_seal : (after (.idleSeal 0 0) sealDue0).map
    (fun t => (t.unitState 0, (t.unit? 0).map (·.short), (t.streams.get 0).young)) = some (some .sealed, some true, [0]) := by decide +kernel

/-- R57: a placement after the tick that made the seal due finds the slot empty, and opens unit 8. -/
theorem test_idle_seal_first : (after (.placePage 0 .host) sealDue0).map
    (fun t => (t.unitState 0, (t.streams.get 0).slots.get 0)) = some (some .sealed, some ⟨8, 1, 0, false⟩) := by decide +kernel

/-- Section 11.4: the unit is SEALED with its seal epoch kept, and the written notice frees the slot. -/
theorem test_order_expiry : (after (.orderExpiry 0 0) part).map
    (fun t => (t.unitState 3, t.order ⟨0, 0⟩, t.reclaim.expiry.get 0)) = some (some .sealed, none, [(3, 7)]) := by decide +kernel

theorem test_window_expiry : (after (.windowExpiry 0 0) (endWindow0 (.opened 0) false)).map
    (fun t => ((t.dies.get 0).windows.get 0, (t.dies.get 0).lapsed.get 0)) = some (.closed, true) := by decide +kernel

theorem test_die_fault : (after (.dieFault 0) (erasing0.modDie 0 (fun r => { r with opTimer := some 0 }))).map
    (fun t => ((t.dies.get 0).state, t.unitState 4, t.mgmt.sticky.dieFault.get 0, t.mport.noticeHoldings)) =
    some (.faulted, some .unknown, .erase, 1) := by decide +kernel

/-- R159: the tick that brings the count to T_port fences P0 before the PING in its ring is taken, and the record is discarded. -/
theorem test_inactivity_fence_first :
    ((after .tick (ask (tickShort 999 4) (.master 0) (record kindPing 0 []))).bind (after (.ping (.master 0)))).map (fun t =>
      ((t.masters.get 0).state, (t.masters.get 0).cause, (t.ring (.master 0)).requestTail, (t.ring (.master 0)).replyTail)) =
    some (.fenced, .inactivity, 0, 0) := by decide +kernel

theorem test_inactivity_fence : (after (.inactivityFence 0) fenceDue0).map
    (fun t => ((t.masters.get 0).state, (t.streams.get 0).state, (t.streams.get 0).port, t.credit.shares.get 0)) =
    some (.fenced, .parked, none, 0) := by decide +kernel

/-! ## Tests of port memory -/

theorem test_tail_write : (after (.requestTailWrite (.master 0) ⟨32, []⟩) part).map
    (fun t => ((t.ring (.master 0)).requestTail, (t.ring (.master 0)).mem.read 0x0C00)) = some (32, 32) := by decide +kernel

theorem test_tail_write_refused : (after (.requestTailWrite (.master 0) ⟨33, []⟩) part).map
    (fun t => ((t.ring (.master 0)).requestTail, (t.ring (.master 0)).refusals, (t.ring (.master 0)).mem.read 0x0C00)) =
    some (0, 1, 33) := by decide +kernel

theorem test_head_write : (after (.replyHeadWrite (.master 0) ⟨2, []⟩)
      (part.modRing (.master 0) (fun r => { r with replyTail := 3, replyHoldings := 4, noticeHoldings := 1, classes := r.classes.set 1 .notice }))).map
    (fun t => ((t.ring (.master 0)).replyHead, (t.ring (.master 0)).replyHoldings, (t.ring (.master 0)).noticeHoldings)) =
    some (2, 3, 0) := by decide +kernel

theorem test_memory_write : (after (.otherMemoryWrite .management 0x0BFF [7]) part).map (fun t => t.mport.mem.read 0x0BFF) =
    some 7 := by decide +kernel

/-- R187: a write of a word whose byte 0 it includes is held whole; one of bytes 1 to 3 alone leaves the word. -/
theorem test_index_word_write : (after (.otherMemoryWrite .management 0x0C04 [9, 8, 7, 6]) part).map
    (fun t => (t.mport.mem.readRange 0x0C04 4, t.mport.requestHead)) = some ([9, 8, 7, 6], 0) := by decide +kernel

theorem test_index_word_dropped : (after (.otherMemoryWrite .management 0x0C05 [8, 7, 6]) part).map (fun t => t.mport.mem) =
    some [] := by decide +kernel

theorem test_tail_word_write : (after (.requestTailWrite (.master 0) ⟨2, [8, 7, 6]⟩) part).map
    (fun t => ((t.ring (.master 0)).requestTail, (t.ring (.master 0)).mem.readRange 0x0C00 4)) = some (2, [2, 8, 7, 6]) := by
  decide +kernel

theorem test_notice_write : (after (.noticeWrite 0) (noticeWaits .pending)).map
    (fun t => ((t.order ⟨0, 0⟩).map (·.phase), (t.ring (.master 0)).mem.read 0x0400, t.reclaim.notices.get 0)) =
    some (some (.issued 5000), 0x40, []) := by decide +kernel

/-! ## Tests of stream requests -/

theorem test_open_stream : (after (.openStream 0) (ask0 kindOpenStream 0 [2, 0])).map
    (fun t => ((t.streams.get 2).state, (t.streams.get 2).port, statusOf (.master 0) t)) = some (.opened, some 0, 0) := by decide +kernel

theorem test_close_stream : (after (.closeStream 0) (ask0 kindCloseStream 0 [0, 0])).map
    (fun t => ((t.streams.get 0).state, statusOf (.master 0) t)) = some (.opened, 7) := by decide +kernel

theorem test_drain_stream : (after (.drainStream 0) (ask0 kindDrainStream 0 [0, 0])).map
    (fun t => ((t.streams.get 0).state, (t.ring (.master 0)).replyTail)) = some (.draining, 0) := by decide +kernel

/-- R79: the refill was taken before the drain of stream 5, and its examination admits the entry of stream 6 that stands first;
the drain then admits the other two. -/
theorem test_drain_stream_first :
    (after (.drainStream 1) ((ask (creditTwo 10) (.master 1) (record kindDrainStream 0 [5, 0])).modWaitList (fun l =>
      ⟨⟨1, 2⟩, 6, 2, .host, .credit, 1, false⟩ :: l))).map (fun t =>
        ((t.lines.get 6).host, (t.lines.get 5).host, t.credit.waitList.isEmpty, t.credit.balances.get 2)) =
    some ([⟨1, 2⟩], [⟨1, 0⟩, ⟨1, 1⟩], true, -1062) := by decide +kernel

theorem test_drain_end : (after (.drainEnd 4) part).map
    (fun t => ((t.streams.get 4).state, statusOf (.master 0) t, (t.ring (.master 0)).reservations)) = some (.quiesced, 3, [0]) := by decide +kernel

theorem test_resume_stream : (after (.resumeStream 0) (ask0 kindResumeStream 0 [1, 0])).map (fun t => (t.streams.get 1).state) =
    some .opened := by decide +kernel

theorem test_set_profile : (after (.setProfile 0) (ask0 kindSetProfile 0 [1, 0, 0, 0, 0, 0, 0, 0, 1, 2, 9, 0])).map
    (fun t => ((t.streams.get 1).profile, (t.streams.get 1).spreadCursor)) = some (⟨.spread, 2, 6⟩, 1) := by decide +kernel

/-! ## Tests of writes -/

theorem test_write_charged : (after (.write 1) (ask (part.modBalance 2 (fun _ => 1)) (.master 1) (writeRecord 5 64 1 0))).map
    (fun t => (t.credit.balances.get 2, (t.lines.get 5).host, t.credit.shares.get 1)) = some (-1023, [⟨1, 0⟩], 1) := by decide +kernel

theorem test_write_waits : (after (.write 1) (ask part (.master 1) (writeRecord 5 64 1 0))).map
    (fun t => (t.credit.balances.get 2, (t.lines.get 5).host, t.credit.waitList.length)) = some (0, [], 1) := by decide +kernel

theorem test_place_page : (after (.placePage 0 .host) part).map
    (fun t => ((t.unit? 0).map (·.writePointer), t.pool.map (·.key), (t.context ⟨0, 0⟩).map (·.nextFresh))) =
    some (some 3, [⟨0, 1⟩, ⟨0, 2⟩], some 2) := by decide +kernel

/-- R56: the unit that takes its last page is sealed. -/
theorem test_place_page_fills : (after (.placePage 0 .host) (part.modUnit 0 (fun r => { r with writePointer := 63 }))).map
    (fun t => (t.unitState 0, (t.unit? 0).map (·.short), (t.streams.get 0).slots.get 0)) = some (some .sealed, some false, none) := by decide +kernel

theorem test_replace_page : (after (.replacePage 0) (replaceWaits part)).map
    (fun t => ((t.lines.get 0).replace, t.pool.map (·.handle))) = some ([], [100, 101]) := by decide +kernel

theorem test_write_end : (after (.writeEnd 0 0) { part with contexts := [write0Done] }).map
    (fun t => (t.contexts, (t.streams.get 0).outstanding, (t.ring (.master 0)).mem.read 0x0408, (t.ring (.master 0)).reservations)) =
    some ([], 0, 3, [5]) := by decide +kernel

/-! ## Tests of unit requests -/

theorem test_invalidate : (after (.invalidate 0) (ask0 kindInvalidate 2 [0, 0, 0, 0, 1, 0, 4, 0, 1, 0, 7, 0])).map
    (fun t => (t.unitState 1, statusOf (.master 0) t, (t.ring (.master 0)).mem.readRange 0x0408 6)) =
    some (some .erasing, 2, [0, 6, 0, 2, 1, 0]) := by decide +kernel

theorem test_unit_drained : (after (.unitDrained 0) (ask0 kindUnitDrained 0 [0, 0, 0, 0, 3, 0, 7, 0])).map
    (fun t => (t.unitState 3, statusOf (.master 0) t, (t.ring (.master 0)).mem.readRange 0x0408 3)) =
    some (some .erasing, 2, [5, 0, 4]) := by decide +kernel

theorem test_hold_keeps_fixed : (after (.hold 0) (ask0 kindHold 0 [0, 0, 0, 0, 7, 0])).map (fun t => (t.unit? 7).map (·.hold)) =
    some (some .fixed) := by decide +kernel

theorem test_fix : (after (.fix 0) (ask0 kindFix 0 [0, 0, 0, 0, 3, 0])).map (fun t => (statusOf (.master 0) t, (t.unit? 3).map (·.hold))) =
    some (15, some .noHold) := by decide +kernel

theorem test_release_retained : (after (.release 0 .low) (ask0 kindRelease 0 [0, 0, 0, 0, 7, 0])).map
    (fun t => (statusOf (.master 0) t, (t.unit? 7).map (·.hold))) = some (16, some .fixed) := by decide +kernel

theorem test_release_empty : (after (.release 0 .low) (ask0 kindRelease 0 [0, 0, 0, 0, 2, 0])).map
    (fun t => (statusOf (.master 0) t, t.unitState 2)) = some (0, some .erasing) := by decide +kernel

/-! ## Tests of ports and windows -/

theorem test_read_window : (after (.readWindow 0) (ask0 kindReadWindow 0 [0, 0, 0, 0, 0])).map
    (fun t => ((t.dies.get 0).windows.get 0, statusOf (.master 0) t)) = some (.opened 50, 4) := by decide +kernel

/-- R188: the die stands in byte 6. -/
theorem test_read_window_byte : (after (.readWindow 0) (ask0 kindReadWindow 0 [0, 0, 1, 0, 0])).map
    (fun t => ((t.dies.get 0).windows.get 0, (t.dies.get 1).windows.get 0)) = some (.closed, .opened 50) := by decide +kernel

theorem test_read_window_suspends : (after (.readWindow 0) (ask erasing0 (.master 0) (record kindReadWindow 0 [0, 0, 0, 0, 0]))).map
    (fun t => ((t.dies.get 0).state, (t.unit? 4).map (·.suspendCount), t.link.queue.map (·.kind))) =
    some (.suspending, some (some 1), [.suspend]) := by decide +kernel

theorem test_window_grant : (after (.windowGrant 0) (withDie (fun r => { r with windows := r.windows.set 0 (.waiting ⟨0, 3⟩) }))).map
    (fun t => (statusOf (.master 0) t, (t.dies.get 0).windows.get 0)) = some (4, .opened 50) := by decide +kernel

/-- R124, R127: the last window closes, the erase resumes with its held ticks; with a page eligible the page is issued instead. -/
theorem test_end_window_resumes : [[], [key0]].map (fun pages => (after (.endWindow 0) (askEndWindow (suspended0 (.opened 5) .closed pages))).map
    (fun t => ((t.dies.get 0).state, (t.dies.get 0).opTimer, t.link.queue.map (·.kind)))) =
    [some (.erase, some 150, [.resume]), some (.suspended, some 200, [.program])] := by decide +kernel

theorem test_end_window : (after (.endWindow 0) (endWindow0 .closed true)).map
    (fun t => (statusOf (.master 0) t, (t.dies.get 0).lapsed.get 0)) = some (13, false) := by decide +kernel

theorem test_ping : (after (.ping (.master 0)) (ask0 kindPing 0 [0, 0, 0, 0, 0, 0, 0, 0, 1, 2, 3, 4])).map
    (fun t => (t.ring (.master 0)).mem.readRange 0x0408 4) = some [1, 2, 3, 4] := by decide +kernel

theorem test_query_unit : (after (.queryUnit 0) (ask0 kindQueryUnit 0 [0, 0, 0, 0, 128, 0])).map (statusOf (.master 0)) = some 9 := by
  decide +kernel

theorem test_unknown_master_request : (after (.unknownMasterRequest 0) (ask0 0x10 0 [])).map (statusOf (.master 0)) = some 9 := by decide +kernel

theorem test_unknown_mgmt_request : (after .unknownMgmtRequest (askM part 0x34 0 [])).map (statusOf .management) = some 9 := by decide +kernel

/-! ## Tests of configuration and restore -/

/-- Section 11.1: 4 dies of 128 blocks give 512 units. -/
theorem test_set_geometry : (after .setGeometry (askM State.reset kindSetGeometry 0 (geometryBytes 4 128 256))).map
    (fun t => (t.mgmt.device, t.units.length, t.freeLists.get 3, t.mport.mem.readRange 0x0408 2)) =
    some (.halted, 512, List.range' 384 128, [0, 2]) := by decide +kernel

/-- Section 11.1: the defaults of SET-GROUP over four dies. -/
theorem test_set_group :
    (after .setGroup (askM ((State.reset.setDevice .halted).modMgmt (fun m => { m with geometry := some ⟨4, 128, 256⟩ })) kindSetGroup 0 [0, 0, 3])).map
      (fun t => t.config 0) = some (some ⟨0, 3, 8, 12, 20, 2, 4, 8, none⟩) := by decide +kernel

/-- R105: the ISSUED order of the group ends, with its unit SEALED and the expiry memory holding it, and no notice is written. -/
theorem test_set_group_orders : (after .setGroup (setGroup0 part 0 0 1)).map
    (fun t => (t.unitState 3, t.order ⟨0, 0⟩, t.reclaim.expiry.get 0, (t.masters.get 0).ring.noticeHoldings)) =
    some (some .sealed, none, [(3, 7)], 0) := by decide +kernel

theorem test_set_timebase : (after .setTimebase (askM part kindSetTimebase 1 [10, 0])).map (fun t => (t.time.divider, t.time.epochLength)) =
    some (1000, 1000) := by decide +kernel

theorem test_set_timers : (after .setTimers (askM part kindSetTimers 4 [9, 0, 9, 0, 0, 0, 9, 0, 9, 0])).map (·.limits) =
    some ⟨2000, 30000, 1, 50, 200⟩ := by decide +kernel

/-- R75: the tenant's CREDIT entry joins its line and is counted, and the other three entries stay. -/
theorem test_set_tenant_unmetered : (after .setTenant meteringOff).map
    (fun t => (t.credit.waitList.map (·.ctx), (t.lines.get 5).host, (t.tenants.get 2).hostPages)) =
    some ([⟨0, 0⟩, ⟨1, 1⟩, ⟨0, 1⟩], [⟨1, 0⟩], 64) := by decide +kernel

theorem test_set_tenant : (after .setTenant (askM (part.modBalance 2 (fun _ => 90)) kindSetTenant 0 [2, 0, 24, 0, 50, 0, 0, 0])).map
    (fun t => (t.credit.balances.get 2, (t.tenants.get 2).rate)) = some (50, 24) := by decide +kernel

theorem test_set_stream : (after .setStream (setStream0 part 2 1 255 2 2)).map
    (fun t => ((t.streams.get 2).group, (t.streams.get 2).packCursor)) = some (none, 1) := by decide +kernel

theorem test_set_filter : (after .setFilter (askM part kindSetFilter 0 [0x41, 0xFF])).map (fun t => (t.reclaim.compare, t.reclaim.care)) =
    some (1, 0x3F) := by decide +kernel

theorem test_seek_units : (after .seekUnits (askM (partIn .halted) kindSeekUnits 0 [127, 0])).map (·.mgmt.cursor) = some 127 := by decide +kernel

/-- R17, R92: the group of HELD unit 2 is woken by a record applied as other than SEALED, which returns the hold to NONE. -/
theorem test_load_units_wakes : [0, 2, 5, 6].map (fun code => (after .loadUnits (searchIn .waiting (load1 2 code 1))).map
      (fun t => ((t.unit? 2).map (·.hold), (t.reclaimOf 0).map (·.search)))) =
    [some (some .noHold, some .idle), some (some .held, some .waiting), some (some .noHold, some .idle),
     some (some .noHold, some .idle)] := by decide +kernel

theorem test_load_units_wraps : (after .loadUnits (load1 127 2 63)).map
    (fun t => (t.mgmt.cursor, (t.unit? 127).map (fun r => (r.state, r.hold, r.tenant)))) =
    some (0, some (.sealed, .held, some 63)) := by decide +kernel

/-! ## Tests of reading back and steering -/

theorem test_read_unit : (after .readUnit (askM part kindReadUnit 0 [7, 0])).map (fun t => t.mport.mem.readRange 0x0408 3) =
    some [7, 0, 0x12] := by decide +kernel

/-- R22, R189: a group of none reads as the absent word. -/
theorem test_read_stream_none : (after .readStream (askM part kindReadStream 0 [3])).map (fun t => t.mport.mem.readRange 0x1008 4) =
    some [0xFF, 0xFF, 0xFF, 0xFF] := by decide +kernel

theorem test_read_stream : (after .readStream (askM part kindReadStream 0 [0])).map (fun t => t.mport.mem.readRange 0x1000 4) =
    some [1, 0, 0, 0] := by decide +kernel

theorem test_read_tenant : (after .readTenant (askM (part.modBalance 2 (fun _ => -1)) kindReadTenant 0 [2])).map
    (fun t => t.mport.mem.readRange 0x1014 4) = some [0xFF, 0xFF, 0xFF, 0xFF] := by decide +kernel

theorem test_get_status : (after (.getStatus .high) (askM part kindGetStatus 0 [0, 0])).map (fun t => t.mport.mem.readRange 0x1000 8) =
    some [2, 0, 0, 0, 2, 0, 0, 0] := by decide +kernel

theorem test_clear_status : (after .clearStatus (askM part.flagStray kindClearStatus 0 [])).map
    (fun t => (t.mgmt.sticky.stray, t.mport.mem.readRange 0x1000 1)) = some (false, [1]) := by decide +kernel

theorem test_run : (after .run (askM (partIn .halted) kindRun 0 [])).map (fun t => (t.mgmt.device, (t.dies.get 0).queue)) =
    some (.running, [⟨.erase, 4⟩, ⟨.check, 5⟩]) := by decide +kernel

theorem test_halt_waits : (after .halt (askM programming kindHalt 0 [])).map (fun t => (t.mgmt.device, t.mport.replyTail)) =
    some (.halting, 0) := by decide +kernel

theorem test_halt_complete : (after .haltComplete ((partIn .halting).modMgmt (fun m => { m with haltReply := some ⟨0, 5⟩ }))).map
    (fun t => (t.mgmt.device, t.mport.mem.readRange 0x0400 3)) = some (.halted, [0x2F, 0, 5]) := by decide +kernel

/-- R162: the port that a tick has fenced keeps its cause; PORT-FENCED stands in slot 0 and WRONG_STATE in slot 1. -/
theorem test_fence_port_late : (after .fencePort (askM fenceDue0 kindFencePort 0 [0])).map
    (fun t => ((t.masters.get 0).cause, t.mport.mem.read 0x0400, (t.mport.mem.read 0x0424).toNat)) =
    some (.inactivity, 0x44, Status.wrongState.code) := by decide +kernel

theorem test_fence_port : (after .fencePort (askM part kindFencePort 0 [0])).map
    (fun t => ((t.masters.get 0).cause, (t.streams.get 1).state, t.mport.noticeHoldings)) = some (.management, .parked, 1) := by decide +kernel

theorem test_revive_port : (after .revivePort (askM fenced0 kindRevivePort 0 [0])).map
    (fun t => ((t.masters.get 0).state, (t.masters.get 0).cause)) = some (.active, .inactivity) := by decide +kernel

theorem test_clear_die_fault : (after .clearDieFault (askM faultedPart kindClearDieFault 0 [0])).map
    (fun t => ((t.dies.get 0).state, (t.dies.get 0).queue)) = some (.idle, [⟨.erase, 4⟩, ⟨.check, 5⟩]) := by decide +kernel

theorem test_cancel_orders : (after .cancelOrders (askM part kindCancelOrders 0 [])).map
    (fun t => (t.unitState 3, t.mport.mem.readRange 0x0408 2)) = some (some .sealed, [0, 1]) := by decide +kernel

/-- R97, R103: the two ISSUED orders enter the expiry memory in slot order, and their notices are written while slots are free. -/
theorem test_cancel_orders_notice :
    [0, 7, 8].map (fun held => (after .cancelOrders (askM (cancelling (.issued 9) held) kindCancelOrders 0 [])).map
      (fun t => (t.reclaim.expiry.get 0, t.reclaim.notices.get 0, (t.order ⟨0, 0⟩).isSome, (t.order ⟨0, 1⟩).isSome))) =
    [some ([(1, 8), (3, 7)], [], false, false), some ([(1, 8), (3, 7)], [⟨0, 1⟩], false, true),
     some ([(1, 8), (3, 7)], [⟨0, 0⟩, ⟨0, 1⟩], true, true)] := by decide +kernel

/-! ## Tests of reclaim, the dies and the link -/

theorem test_search_examine : (after (.searchExamine 0) (searching (fun k => { k with cursor := some 1 }))).map
    (fun t => (t.reclaimOf 0).map (fun k => (k.candidate, k.cursor))) =
    some (some (some (.scored 1 (54 * 256 / 74) 3), some 2)) := by decide +kernel

/-- R83, R86: a retire-pending unit full of valid pages has score 0; it becomes the candidate and sets the zero-score flag. -/
theorem test_search_retire_score_zero :
    (after (.searchExamine 0) (withUnit1 (searching (fun k => { k with cursor := some 1 })) (fun r => { r with retirePending := true, valid := 64 }))).map
      (fun t => (t.reclaimOf 0).map (fun k => (k.candidate, k.zeroScore))) = some (some (some (.retire 1 0), true)) := by decide +kernel

/-- R85: a search over which PLW_N was asserted and released, or a HALT and a RUN came, ends IDLE; undisturbed it finds its victim. -/
theorem test_search_discarded :
    (let ends := fun s : State => (after (.searchExamine 0) s).map (fun t => (t.reclaimOf 0).map (fun k => (k.search, k.chosen)))
     let s := searching (fun k => { k with cursor := some 127, candidate := some (.scored 1 2 3) })
     (ends s, ((after .plwNAsserted s).bind (after .plwNDeasserted)).bind ends,
       ((after .halt (askM s kindHalt 0 [])).bind (fun t => after .run (askM t kindRun 0 []))).bind ends)) =
    (some (some (.searching, some 1)), some (some (.idle, none)), some (some (.idle, none))) := by decide +kernel

theorem test_order_issue :
    (after (.orderIssue 0) (part.modReclaim 0 (fun k =>
      { k with search := .searching, chosen := some 1, candidate := some (.scored 1 2 3) }))).map
      (fun t => (t.unitState 1, (t.order ⟨0, 1⟩).map (·.phase), t.reclaim.orderNumber)) =
    some (some .reclaim, some (.issued 5000), 1) := by decide +kernel

/-- R38: a unit in a young list is not moved to RECLAIM. -/
theorem test_order_issue_young :
    (after (.orderIssue 0) ((part.modReclaim 0 (fun k =>
      { k with search := .searching, chosen := some 1, candidate := some (.scored 1 2 3) })).modStream 0 (fun r => { r with young := [1] }))).map
      (fun t => (t.unitState 1, (t.reclaimOf 0).map (·.search))) = some (some .sealed, some .idle) := by decide +kernel

theorem test_arbitrate : (after (.arbitrate 0) part).map
    (fun t => ((t.dies.get 0).state, (t.dies.get 0).opTimer, t.link.queue)) =
    some (.program, some 200, [⟨.program, 0, 0, 0, 1, 100⟩]) := by decide +kernel

theorem test_queue_fill : (after (.queueFill 0) part).map (fun t => ((t.dies.get 0).queue, (t.dies.get 0).waiting)) =
    some ([⟨.erase, 4⟩, ⟨.check, 5⟩], []) := by decide +kernel

/-- R113, log entry 42: three places are free, and unit 1, handed over by a RELEASE, takes the one behind the units that wait already. -/
theorem test_hand_over_waits : (after (.release 0 .high) (ask ((part.modUnit 1 (fun r => { r with hold := .held, valid := 0 })).modDie 0
      (fun r => { r with queue := [⟨.check, 9⟩] })) (.master 0) (record kindRelease 0 [0, 0, 0, 0, 1, 0]))).map
    (fun t => ((t.dies.get 0).queue, (t.dies.get 0).waiting)) =
    some ([⟨.check, 9⟩, ⟨.erase, 4⟩, ⟨.check, 5⟩, ⟨.erase, 1⟩], []) := by decide +kernel

theorem test_waiting_die_offer : (after .waitingDieOffer { part with link := { part.link with waiting := [0, 1] } }).map
    (fun t => ((t.dies.get 0).state, t.link.waiting)) = some (.program, [1]) := by decide +kernel

/-- R121, R140: a die in ERASE that is offered a place hands over its SUSPEND to serve, and a SUSPENDED one without work its RESUME. -/
theorem test_waiting_die_steers : [erasing0, suspended0 .closed .closed []].map (fun s => (after .waitingDieOffer (offered s)).map
    (fun t => ((t.dies.get 0).state, t.link.waiting, t.link.queue.map (·.kind)))) =
    [some (.suspending, [1], [.suspend]), some (.erase, [1], [.resume])] := by decide +kernel

/-- R191: the sixteen bytes of a PROGRAM descriptor. -/
theorem test_descriptor_send :
    (after .descriptorSend { part with link := { part.link with queue := [⟨.program, 2, 7, 0x102, 0x103, 0x01020304⟩] } }).map
      (·.link.lastSent) = some [0, 2, 7, 0, 2, 1, 3, 1, 4, 3, 2, 1, 0, 0, 0, 0] := by decide +kernel

/-! ## Tests of completions -/

theorem test_program_done : (after (.programDone (answer7 0)) (withTag programming programTag)).map
    (fun t => ((t.unit? 0).map (fun r => (r.programmed, r.valid)), t.pool, (t.dies.get 0).state)) = some (some (2, 2), [], .idle) := by
  decide +kernel

/-- Section 11.3: the failed page and the one above it wait to be placed again. R3, R9, R12: with no valid page the unit is RETIRED. -/
theorem test_program_fail : [1, 0].map (fun n =>
      (after (.programFail (answer7 1)) ((failing 0).modUnit 0 (fun r => { r with valid := n }))).map
        (fun t => ((t.lines.get 0).replace, (t.unit? 0).map (fun r => (r.state, r.writePointer, r.retirePending))))) =
    [some ([⟨⟨0, 0⟩, 0⟩, ⟨⟨0, 0⟩, 1⟩], some (.sealed, 2, true)),
     some ([⟨⟨0, 0⟩, 0⟩, ⟨⟨0, 0⟩, 1⟩], some (.retired, 2, true))] := by decide +kernel

theorem test_program_fail_third : (after (.programFail (answer7 1)) (failing 2)).map
    (fun t => ((t.lines.get 0).replace, (t.context ⟨0, 0⟩).map (·.failed))) = some ([⟨⟨0, 0⟩, 1⟩], some 1) := by decide +kernel

/-- R8: the erase count stops at 65,535. -/
theorem test_erase_done : (after (.eraseCompletion (answer7 0)) (withTag erasing0 (eraseTag 7))).map
    (fun t => ((t.unit? 4).map (fun r => (r.state, r.eraseCount)), (t.dies.get 0).state)) = some (some (.free, 65535), .idle) := by decide +kernel

theorem test_erase_fail : (after (.eraseCompletion (answer7 1)) (withTag erasing0 (eraseTag 7))).map
    (fun t => (t.unitState 4, (t.link.lastFail.get 0).map (·.1))) = some (some .retired, some .erase) := by decide +kernel

/-- R55: the FREE unit is opened for the stream that waits: its list's page first, then its request's last fresh page. -/
theorem test_check_blank_serves :
    (after (.checkCompletion (answer7 3)) (workWaits { checking.modStream 0 (fun r => { r with slots := Table.replicate 8 none }) with
      freeLists := Table.replicate 32 [] })).map
      (fun t => (t.pool.map (·.key), t.waiters, t.credit.waitList, t.lines.get 0)) =
    some ([key0, ⟨5, 0⟩, ⟨5, 1⟩], [], [], ⟨[], [], []⟩) := by decide +kernel

theorem test_check_not_blank : (after (.checkCompletion (answer7 4)) checking).map
    (fun t => (t.unitState 5, (t.dies.get 0).queue)) = some (some .erasing, [⟨.erase, 4⟩, ⟨.erase, 5⟩]) := by decide +kernel

theorem test_suspended : (after (.suspendAnswer (answer7 2)) (suspending .serve)).map
    (fun t => ((t.dies.get 0).heldErase, (t.dies.get 0).windows.get 0, statusOf (.master 0) t)) = some (some 200, .opened 50, 4) := by
  decide +kernel

theorem test_abandoned : (after (.suspendAnswer (answer7 2)) (suspending .abandon)).map
    (fun t => (t.unitState 4, (t.dies.get 0).state)) = some (some .unknown, .idle) := by decide +kernel

theorem test_resume_failed : (after (.resumeAnswer (answer7 1)) (withTag erasing0 ⟨7, 0, .resume, 4, none, .sent, false⟩)).map
    (fun t => (t.unitState 4, (t.dies.get 0).state)) = some (some .retired, .idle) := by decide +kernel

/-- R189: the body of the notice to M: the completion, the reason UNKNOWN_TAG and no entry. -/
theorem test_stray : (after (.strayCompletion (answer7 1)) part).map (fun t => t.mport.mem.readRange 0x0400 15) =
    some [0x43, 1, 0, 0, 0, 0, 0, 0, 1, 0, 7, 0, 0, 0, 0] := by decide +kernel

end Sys2Proof.Tests
end

section
/-!
SUPPORT. What the transitions of a unit do (chapter 1): the fields of the state that they leave alone, and the record that each leaves for
the unit itself.
-/

namespace Sys2Proof.Machine

/-! ## Reading through a frame -/

theorem State.Only.unit? {s t : State} {fs : List Field} (h : s.Only fs t) (u : Nat) (hf : Field.units ∉ fs := by decide) :
    t.unit? u = s.unit? u := congrArg (fun us : List UnitRecord => us[u]?) (h .units hf)

theorem State.Only.plwAsserted {s t : State} {fs : List Field} (h : s.Only fs t) (hf : Field.inputs ∉ fs := by decide) :
    t.plwAsserted = s.plwAsserted := congrArg (fun i : InputLines => decide (i.plwN = .low)) (h .inputs hf)

theorem State.Only.pages {s t : State} {fs : List Field} (h : s.Only fs t) (hf : Field.mgmt ∉ fs := by decide) :
    t.pages = s.pages := congrArg (fun m : Management => (m.geometry.map (fun g : Geometry => g.pages)).getD 0) (h .mgmt hf)

theorem State.Only.dieOf {s t : State} {fs : List Field} (h : s.Only fs t) (u : Nat) (hf : Field.mgmt ∉ fs := by decide) :
    t.dieOf u = s.dieOf u :=
  congrArg (fun m : Management => Fin.ofNat 32 (u / (m.geometry.map (·.bpd)).getD 0)) (h .mgmt hf)

/-! ## What a transition of a unit leaves alone -/

/-- What a transition of unit `u` may change: the record of the unit, the young lists, the search and activity of groups, and background
queues with their waiting units. -/
structure State.UnitChange (s : State) (u : Nat) (t : State) : Prop where
  others : s.OtherUnits u t
  streams : ∀ st, t.streams.get st = { s.streams.get st with young := (t.streams.get st).young }
  groups : ∀ g, (t.groups.get g).map (fun r => (r.config, r.reclaim.slots)) = (s.groups.get g).map (fun r => (r.config, r.reclaim.slots))
  dies : ∀ d, t.dies.get d = { s.dies.get d with queue := (t.dies.get d).queue, waiting := (t.dies.get d).waiting }
  only : s.Only [.units, .streams, .groups, .dies] t

theorem State.UnitChange.refl (s : State) (u : Nat) : s.UnitChange u s :=
  ⟨fun _ _ => rfl, fun _ => rfl, fun _ => rfl, fun _ => rfl, .refl s _⟩

theorem State.UnitChange.trans {s t v : State} {u : Nat} (h : s.UnitChange u t) (k : t.UnitChange u v) : s.UnitChange u v where
  others w hw := (k.others w hw).trans (h.others w hw)
  streams st := by rw [k.streams st, h.streams st]
  groups g := (k.groups g).trans (h.groups g)
  dies d := by rw [k.dies d, h.dies d]
  only := h.only.andThen k.only (fun _ hm => hm)

theorem State.UnitChange.config {s t : State} {u : Nat} (h : s.UnitChange u t) (g : GroupId) : t.config g = s.config g := by
  have := congrArg (Option.map Prod.fst) (h.groups g)
  simpa [State.config, Option.map_map, Function.comp_def] using this

theorem State.UnitChange.order {s t : State} {u : Nat} (h : s.UnitChange u t) (r : NoticeRef) : t.order r = s.order r := by
  have key : ∀ v : State, v.order r = ((v.groups.get r.group).map (fun r => (r.config, r.reclaim.slots))).bind
      (fun c => (c.2[r.slot.val]?).join) := fun v => by
    unfold State.order State.reclaimOf; cases v.groups.get r.group <;> rfl
  rw [key, key, h.groups]

theorem State.UnitChange.groupOfUnit {s t : State} {u : Nat} (h : s.UnitChange u t) (v : Nat) :
    t.groupOfUnit v = s.groupOfUnit v :=
  s.groupOfUnit_congr t v (congrArg Management.geometry (h.only .mgmt (by decide))) h.config

/-- A transition that leaves the young lists leaves the streams. -/
theorem State.UnitChange.stream {s t : State} {u : Nat} (h : s.UnitChange u t) (st : StreamId)
    (hy : (t.streams.get st).young = (s.streams.get st).young) : t.streams.get st = s.streams.get st := by
  rw [h.streams st, hy]

theorem State.modUnit_change (s : State) (u : Nat) (f : UnitRecord → UnitRecord) : s.UnitChange u (s.modUnit u f) where
  others v hv := s.unit?_modUnit_ne u v f hv
  streams _ := rfl
  groups _ := rfl
  dies _ := rfl
  only := (s.modUnit_only u f).mono (by decide)

/-- A change of young lists alone. -/
theorem State.UnitChange.of_young {s t : State} {u : Nat} (h : s.Only [.streams] t)
    (hs : ∀ st, t.streams.get st = { s.streams.get st with young := (t.streams.get st).young }) : s.UnitChange u t where
  others v _ := h.unit? v
  streams := hs
  groups g := by rw [h .groups (by decide)]
  dies d := by rw [h .dies (by decide)]
  only := h.mono (by decide)

/-- A change of groups that keeps each configuration and each order. -/
theorem State.UnitChange.of_groups {s t : State} {u : Nat} (h : s.Only [.groups] t)
    (hg : ∀ g, (t.groups.get g).map (fun r => (r.config, r.reclaim.slots)) =
      (s.groups.get g).map (fun r => (r.config, r.reclaim.slots))) : s.UnitChange u t where
  others v _ := h.unit? v
  streams st := by rw [h .streams (by decide)]
  groups := hg
  dies d := by rw [h .dies (by decide)]
  only := h.mono (by decide)

/-- A change of background queues and waiting units alone. -/
theorem State.UnitChange.of_queues {s t : State} {u : Nat} (h : s.Only [.dies] t)
    (hd : ∀ d, t.dies.get d = { s.dies.get d with queue := (t.dies.get d).queue, waiting := (t.dies.get d).waiting }) :
    s.UnitChange u t where
  others v _ := h.unit? v
  streams st := by rw [h .streams (by decide)]
  groups g := by rw [h .groups (by decide)]
  dies := hd
  only := h.mono (by decide)

@[simp] theorem ReclaimRecord.wake_slots (k : ReclaimRecord) : k.wake.slots = k.slots := by
  cases h : k.search <;> simp [ReclaimRecord.wake, h]

theorem State.modYoung_change (s : State) (u : Nat) (st : StreamId) (f : List Nat → List Nat) :
    s.UnitChange u (s.modStream st (fun r => { r with young := f r.young })) := by
  refine .of_young (s.modStream_only _ _) (fun x => ?_)
  by_cases hx : x = st
  · subst hx; simp
  · simp [hx]

theorem State.modReclaim_change (s : State) (u : Nat) (g : GroupId) (f : ReclaimRecord → ReclaimRecord)
    (hf : ∀ k, (f k).slots = k.slots) : s.UnitChange u (s.modReclaim g f) := by
  refine .of_groups (s.modReclaim_only _ _) (fun x => ?_)
  by_cases hx : x = g
  · subst hx; simp [Option.map_map, Function.comp_def, hf]
  · simp [hx]

theorem State.modQueues_change (s : State) (u : Nat) (d : DieId) (f : DieRecord → DieRecord)
    (hf : ∀ r, f r = { r with queue := (f r).queue, waiting := (f r).waiting }) : s.UnitChange u (s.modDie d f) := by
  refine .of_queues (s.modDie_only _ _) (fun x => ?_)
  by_cases hx : x = d
  · subst hx; simpa using hf _
  · simp [hx]

theorem State.wakeUnit_change (s : State) (u v : Nat) : s.UnitChange u (s.wakeUnit v) := by
  unfold State.wakeUnit; split
  · exact s.modReclaim_change u _ _ ReclaimRecord.wake_slots
  · exact .refl s u

theorem State.reportCounts_change (s : State) (u v : Nat) : s.UnitChange u (s.reportCounts v) := by
  unfold State.reportCounts State.evaluateActivity; split
  · split
    · exact .refl s u
    · refine s.modReclaim_change u _ _ (fun k => ?_)
      split <;> simp
  · exact .refl s u

theorem State.fillOne_change (s : State) (u : Nat) (d : DieId) : s.UnitChange u (s.fillOne d) := by
  unfold State.fillOne; dsimp only; split
  · split
    · exact .refl s u
    · exact s.modQueues_change u d _ (fun _ => rfl)
  · exact .refl s u

theorem State.fillQueue_change (s : State) (u : Nat) (d : DieId) : s.UnitChange u (s.fillQueue d) :=
  (((s.fillOne_change u d).trans (State.fillOne_change _ u d)).trans (State.fillOne_change _ u d)).trans (State.fillOne_change _ u d)

theorem State.handBackground_change (s : State) (u : Nat) : s.UnitChange u (s.handBackground u) := by
  unfold State.handBackground; dsimp only
  refine .trans (.trans (.trans ?_ (State.fillQueue_change _ u _)) (State.modQueues_change _ u _ _ (fun _ => rfl)))
    (State.fillQueue_change _ u _)
  split
  · exact s.modUnit_change u _
  · exact .refl s u

theorem State.leaveYoung_change (s : State) (u : Nat) : s.UnitChange u (s.leaveYoung u) := by
  unfold State.leaveYoung; split
  · exact s.modYoung_change u _ (fun l => l.erase u)
  · exact .refl s u

theorem State.pushYoung_change (s : State) (u : Nat) (st : StreamId) (v : Nat) : s.UnitChange u (s.pushYoung st v) := by
  unfold State.pushYoung; dsimp only; split
  · have h := s.modYoung_change u st (fun _ => (v :: (s.streams.get st).young).take Config.youngLimit)
    split
    · exact h.trans (State.wakeUnit_change _ u _)
    · exact h
  · exact .refl s u

theorem State.enterErasing_change (s : State) (u : Nat) : s.UnitChange u (s.enterErasing u) :=
  (((s.leaveYoung_change u).trans (State.modUnit_change _ u _)).trans (State.handBackground_change _ u)).trans
    (State.reportCounts_change _ u u)

theorem State.enterRetired_change (s : State) (u : Nat) : s.UnitChange u (s.enterRetired u) :=
  ((s.leaveYoung_change u).trans (State.modUnit_change _ u _)).trans (State.reportCounts_change _ u u)

theorem State.leaveForErase_change (s : State) (u : Nat) : s.UnitChange u (s.leaveForErase u) := by
  unfold State.leaveForErase; split
  · exact .refl s u
  · split
    · exact s.enterRetired_change u
    · exact s.enterErasing_change u

theorem State.checkEmpty_change (s : State) (u : Nat) : s.UnitChange u (s.checkEmpty u) := by
  unfold State.checkEmpty; split
  · exact .refl s u
  · split
    · exact s.leaveForErase_change u
    · exact .refl s u

theorem State.sealUnit_change (s : State) (u : Nat) : s.UnitChange u (s.sealUnit u) := by
  unfold State.sealUnit; split
  · exact .refl s u
  · dsimp only
    refine .trans (.trans ?_ (State.wakeUnit_change _ u u)) (State.checkEmpty_change _ u)
    split
    · exact (s.modUnit_change u _).trans (State.pushYoung_change _ u _ u)
    · exact s.modUnit_change u _

theorem State.failUnit_change (s : State) (u p : Nat) : s.UnitChange u (s.failUnit u p) :=
  ((s.modUnit_change u _).trans (State.wakeUnit_change _ u u)).trans (State.checkEmpty_change _ u)

theorem State.liftHold_change (s : State) (u : Nat) : s.UnitChange u (s.liftHold u) :=
  ((s.modUnit_change u _).trans (State.wakeUnit_change _ u u)).trans (State.checkEmpty_change _ u)

/-! ## The record that a transition leaves for its unit -/

/-- The record of a unit that has left SEALED or RECLAIM for its erase, with PLW_N asserted or not (R9, R12, R128). -/
def UnitRecord.leftForErase (r : UnitRecord) (plw : Bool) : UnitRecord :=
  if r.retirePending then r.toRetired else if plw then r.toErasing.toUnknown else r.toErasing

theorem UnitRecord.leftForErase_state (r : UnitRecord) (plw : Bool) :
    (r.leftForErase plw).state = if r.retirePending then .retired else if plw then .unknown else .erasing := by
  unfold leftForErase; split
  · rfl
  · split <;> rfl

/-- What every way out for the erase makes of the record (R12, R14). -/
theorem UnitRecord.leftForErase_fields (r : UnitRecord) (plw : Bool) :
    (r.leftForErase plw).valid = 0 ∧ (r.leftForErase plw).orderSlot = none ∧ (r.leftForErase plw).eraseCount = r.eraseCount := by
  unfold leftForErase; split
  · exact ⟨rfl, rfl, rfl⟩
  · split <;> exact ⟨rfl, rfl, rfl⟩

theorem State.handBackground_unit (s : State) (u : Nat) :
    (s.handBackground u).unit? u = if s.plwAsserted then (s.unit? u).map UnitRecord.toUnknown else s.unit? u := by
  unfold State.handBackground; dsimp only
  rw [(State.fillQueue_only _ _).unit?, (State.addWaiting_only _ _).unit?, (State.fillQueue_only _ _).unit?]
  split <;> simp

theorem State.enterErasing_unit (s : State) (u : Nat) (r : UnitRecord) (h : s.unit? u = some r) :
    (s.enterErasing u).unit? u = some (if s.plwAsserted then r.toErasing.toUnknown else r.toErasing) := by
  have hy := s.leaveYoung_only u
  have hp : ((s.leaveYoung u).modUnit u UnitRecord.toErasing).plwAsserted = s.plwAsserted := hy.plwAsserted
  unfold State.enterErasing
  rw [(State.reportCounts_only _ _).unit?, State.handBackground_unit, State.unit?_modUnit_self, hy.unit?, h, hp]
  split <;> rfl

theorem State.enterRetired_unit (s : State) (u : Nat) (r : UnitRecord) (h : s.unit? u = some r) :
    (s.enterRetired u).unit? u = some r.toRetired := by
  unfold State.enterRetired
  rw [(State.reportCounts_only _ _).unit?, State.unit?_modUnit_self, (s.leaveYoung_only u).unit?, h]; rfl

theorem State.leaveForErase_unit (s : State) (u : Nat) (r : UnitRecord) (h : s.unit? u = some r) :
    (s.leaveForErase u).unit? u = some (r.leftForErase s.plwAsserted) := by
  simp only [State.leaveForErase, h, UnitRecord.leftForErase]
  split
  · exact s.enterRetired_unit u r h
  · exact s.enterErasing_unit u r h

theorem UnitRecord.leavesSealed_iff (r : UnitRecord) :
    r.leavesSealed = true ↔ r.state = .sealed ∧ r.valid = 0 ∧ r.settled = true ∧ r.hold = .noHold := by
  simp [leavesSealed, and_assoc]

/-- The record after the empty-unit check (R9). -/
def UnitRecord.checked (r : UnitRecord) (plw : Bool) : UnitRecord := if r.leavesSealed then r.leftForErase plw else r

theorem State.checkEmpty_unit (s : State) (u : Nat) (r : UnitRecord) (h : s.unit? u = some r) :
    (s.checkEmpty u).unit? u = some (r.checked s.plwAsserted) := by
  simp only [State.checkEmpty, h, UnitRecord.checked]
  split
  · exact s.leaveForErase_unit u r h
  · exact h

/-- A unit that need not leave SEALED is left alone by the empty-unit check (R9). -/
theorem State.checkEmpty_stays (s : State) (u : Nat) (r : UnitRecord) (h : s.unit? u = some r) (hr : r.leavesSealed = false) :
    s.checkEmpty u = s := by
  simp [State.checkEmpty, h, hr]

/-- The record as a seal writes it, before the empty-unit check (R5). -/
def UnitRecord.sealedAt (r : UnitRecord) (epoch : Word) (pages : Nat) : UnitRecord :=
  { r with state := .sealed, sealEpoch := some epoch, short := decide (r.writePointer < pages) }

theorem State.sealUnit_unit (s : State) (u : Nat) (r : UnitRecord) (h : s.unit? u = some r) :
    (s.sealUnit u).unit? u = some ((r.sealedAt s.time.epoch s.pages).checked s.plwAsserted) := by
  have hm : (s.modUnit u (fun r => r.sealedAt s.time.epoch s.pages)).unit? u = some (r.sealedAt s.time.epoch s.pages) := by simp [h]
  have key : ∀ t : State, (s.modUnit u (fun r => r.sealedAt s.time.epoch s.pages)).Only [.streams, .groups] t →
      ((t.wakeUnit u).checkEmpty u).unit? u = some ((r.sealedAt s.time.epoch s.pages).checked s.plwAsserted) := fun t ht => by
    have hw := ht.andThen (t.wakeUnit_only u)
    rw [State.checkEmpty_unit _ u _ ((hw.unit? u).trans hm), hw.plwAsserted]; rfl
  simp only [State.sealUnit, h]
  refine key _ ?_
  split
  · exact State.pushYoung_only _ _ _
  · exact .refl _ _

end Sys2Proof.Machine
end

section
/-!
PROOFS. The requests that speak of one unit (chapter 1): HOLD and FIX (R18), RELEASE (R19) and UNIT_DRAINED (R101).
-/

namespace Sys2Proof.Machine

/-! ## HOLD and FIX -/

/-- A held unit is never given to an order (R10). -/
theorem State.issuePlan_held (s : State) (u : Nat) (x : UnitRecord) (h : s.unit? u = some x) (hx : x.hold ≠ .noHold) :
    s.issuePlan u = none := by
  simp [State.issuePlan, h, UnitRecord.movable, hx]

/-- A held unit stays SEALED when it is empty (R9). -/
theorem UnitRecord.leavesSealed_held (x : UnitRecord) (hx : x.hold ≠ .noHold) : x.leavesSealed = false := by
  simp [leavesSealed, hx]

/-- HOLD and FIX of a SEALED unit (R18). -/
theorem holdRequest_sealed (f : Hold → Hold) (r : Request) (s : State) (x : UnitRecord) (h : s.unit? r.unit = some x)
    (hx : x.state = .sealed) : holdRequest f r s = r.answer (s.modUnit r.unit (fun y => { y with hold := f y.hold })) .ok := by
  simp only [holdRequest, h, hx]

/-- HOLD and FIX of every other unit number are refused (R2, R18). -/
theorem holdRequest_refused (f : Hold → Hold) (r : Request) (s : State) :
    (s.unit? r.unit = none → holdRequest f r s = r.answer s .badRequest) ∧
    ∀ x, s.unit? r.unit = some x →
      (x.state = .reclaim → holdRequest f r s = r.answer s .busyReclaim) ∧
      (x.state ≠ .sealed → x.state ≠ .reclaim → holdRequest f r s = r.answer s .notSealed) := by
  refine ⟨fun h => by simp only [holdRequest, h], fun x h => ⟨fun hx => by simp only [holdRequest, h, hx], fun h1 h2 => ?_⟩⟩
  cases hx : x.state with
  | sealed => exact absurd hx h1
  | reclaim => exact absurd hx h2
  | _ => simp only [holdRequest, h, hx]

/-- HOLD and FIX are one request, which differs in what becomes of the hold (R18). -/
theorem exec_holdRequest (p : MasterId) (s : State) (k : Nat) (c : Instr) (f : Hold → Hold)
    (hc : exec c s = s.onRequest (.master p) (fun x => decide (x = k)) (holdRequest f)) (hf : ∀ h, f h ≠ .noHold)
    (hr : s.Ready (.master p) k) :
    let u := (s.headRequest (.master p)).unit
    let refused := fun (status : Status) => ∃ t, exec c s = .next t ∧ s.OnlyAnswered (.master p) status [] [] t
    (s.unit? u = none → refused .badRequest) ∧
    ∀ x, s.unit? u = some x →
      (x.state = .sealed → ∃ t, exec c s = .next t ∧ s.Answered (.master p) .ok [] [] t ∧
        t.unit? u = some { x with hold := f x.hold } ∧ s.OtherUnits u t ∧ s.Only [.units, .masters] t ∧
        t.issuePlan u = none ∧ t.checkEmpty u = t) ∧
      (x.state = .reclaim → refused .busyReclaim) ∧
      (x.state ≠ .sealed → x.state ≠ .reclaim → refused .notSealed) := by
  intro u refused
  have he := exec_of_kind s (.master p) k (holdRequest f) c hc hr
  have hu : ∀ v, (s.taken (.master p)).unit? v = s.unit? v := s.taken_unit? _
  obtain ⟨absent, other⟩ := holdRequest_refused f (s.headRequest (.master p)) (s.taken (.master p))
  refine ⟨fun hn => onlyAnswered_of_exec (he.trans (congrArg _ (absent ((hu u).trans hn)))), fun x hx => ?_⟩
  have hx' := (hu u).trans hx
  refine ⟨fun hs => ?_, fun hs => onlyAnswered_of_exec (he.trans (congrArg _ ((other x hx').1 hs))),
    fun h1 h2 => onlyAnswered_of_exec (he.trans (congrArg _ ((other x hx').2 h1 h2)))⟩
  let v := (s.taken (.master p)).modUnit u (fun y => { y with hold := f y.hold })
  have hv := Request.answer_unit? (s.headRequest (.master p)) v .ok [] []
  have ht : ((s.headRequest (.master p)).answer v .ok).unit? u = some { x with hold := f x.hold } := by
    rw [hv, State.unit?_modUnit_self, hx']; rfl
  refine ⟨_, he.trans (congrArg _ (holdRequest_sealed f _ _ x hx' hs)), s.answered v _ rfl rfl .ok [] [], ht, fun w hw => ?_, ?_,
    State.issuePlan_held _ u _ ht (hf _), State.checkEmpty_stays _ u _ ht (UnitRecord.leavesSealed_held _ (hf _))⟩
  · rw [hv, State.unit?_modUnit_ne _ _ _ _ hw, hu]
  · exact (((State.Only.refl s _).andThen (s.taken_only_master p)).andThen (State.modUnit_only _ u _)).andThen
      (Request.answer_only_master _ p rfl v .ok [] [])

/-- Settles O34: HOLD and FIX are `holdRequest` with two ways to raise a hold, neither of which gives NONE. -/
theorem holdAndFixProtect : Obligations.HoldAndFixProtect := by
  unfold Obligations.HoldAndFixProtect
  intro p s k c raise hk hr
  rcases hk with ⟨rfl, rfl, rfl⟩ | ⟨rfl, rfl, rfl⟩
  · have hf : (fun h => if h = Hold.noHold then Hold.held else h) = Hold.raised := by funext h; cases h <;> rfl
    rw [hf]
    exact exec_holdRequest p s kindHold (.hold p) Hold.raised rfl (fun h => by cases h <;> simp [Hold.raised]) hr
  · exact exec_holdRequest p s kindFix (.fix p) (fun _ => .fixed) rfl (fun _ => by simp) hr

/-! ## RELEASE -/

/-- The record of a unit whose hold is lifted (R9, R19). -/
theorem State.liftHold_unit (s : State) (u : Nat) (x : UnitRecord) (h : s.unit? u = some x) :
    (s.liftHold u).unit? u = some ({ x with hold := .noHold }.checked s.plwAsserted) := by
  have hm : (s.modUnit u (fun r => { r with hold := .noHold })).unit? u = some { x with hold := .noHold } := by simp [h]
  have hw := (s.modUnit u (fun r => { r with hold := .noHold })).wakeUnit_only u
  unfold State.liftHold
  rw [State.checkEmpty_unit _ u _ ((hw.unit? u).trans hm), hw.plwAsserted]; rfl

/-- Lifting the hold of a unit that stays SEALED wakes the unit's group and no other (R92). -/
theorem State.liftHold_groups (s : State) (u : Nat) (x : UnitRecord) (h : s.unit? u = some x)
    (hx : x.valid ≠ 0 ∨ x.settled = false) (g : GroupId) :
    (s.liftHold u).groups.get g = if s.groupOfUnit u = some g
      then (s.groups.get g).map (fun r => { r with reclaim := r.reclaim.wake }) else s.groups.get g := by
  have hm : (s.modUnit u (fun r => { r with hold := .noHold })).unit? u = some { x with hold := .noHold } := by simp [h]
  have hw := (s.modUnit u (fun r => { r with hold := .noHold })).wakeUnit_only u
  have hs : { x with hold := .noHold }.settled = x.settled := rfl
  unfold State.liftHold
  rw [State.checkEmpty_stays _ u _ ((hw.unit? u).trans hm) (by rcases hx with hx | hx <;> simp [UnitRecord.leavesSealed, hs, hx]),
    State.wakeUnit_groups]
  rfl

/-- The state in which RELEASE acts: the request is taken and the level of RETAIN_N sampled. -/
def State.sampled (s : State) (p : MasterId) (level : LineLevel) : State :=
  { s.taken (.master p) with inputs := { (s.taken (.master p)).inputs with retainN := level } }

theorem State.sampled_only (s : State) (p : MasterId) (level : LineLevel) : s.Only [.masters, .inputs] (s.sampled p level) := by
  refine State.Only.andThen (fs := [.inputs]) ((s.taken_only_master p).mono (by decide)) (fun f hf => ?_)
  cases f <;> first | rfl | simp at hf

theorem State.sampled_plwN (s : State) (p : MasterId) (level : LineLevel) : (s.sampled p level).inputs.plwN = s.inputs.plwN := by
  simp [State.sampled]

/-- RELEASE of a SEALED unit that is held, FIXED only while RETAIN_N is deasserted, lifts the hold (R19). -/
theorem releaseRequest_lifts (p : MasterId) (level : LineLevel) (r : Request) (s : State) (x : UnitRecord)
    (h : s.unit? r.unit = some x) (hs : x.state = .sealed) (hh : x.hold = .held ∨ (x.hold = .fixed ∧ level = .high)) :
    releaseRequest level r (s.taken (.master p)) = r.answer ((s.sampled p level).liftHold r.unit) .ok := by
  have h' : (s.sampled p level).unit? r.unit = some x := ((s.sampled_only p level).unit? _).trans h
  simp only [State.sampled] at h'
  rcases hh with hh | ⟨hh, rfl⟩ <;> simp only [releaseRequest, h', hs, hh, State.sampled]

/-- The answers of RELEASE that lift no hold (R2, R19). -/
theorem releaseRequest_answers (p : MasterId) (level : LineLevel) (r : Request) (s : State) :
    let answers := fun (status : Status) =>
      releaseRequest level r (s.taken (.master p)) = r.answer (s.sampled p level) status
    (s.unit? r.unit = none → answers .badRequest) ∧
    ∀ x, s.unit? r.unit = some x →
      (x.state = .reclaim → answers .busyReclaim) ∧
      (x.state ≠ .sealed → x.state ≠ .reclaim → answers .notSealed) ∧
      (x.state = .sealed → x.hold = .noHold → answers .ok) ∧
      (x.state = .sealed → x.hold = .fixed → level = .low → answers .retained) := by
  intro answers
  have hu : (s.sampled p level).unit? r.unit = s.unit? r.unit := (s.sampled_only p level).unit? _
  simp only [State.sampled] at hu
  refine ⟨fun h => by simp only [answers, releaseRequest, hu, h, State.sampled], fun x h => ⟨fun hs => ?_, fun h1 h2 => ?_, fun hs hh => ?_, fun hs hh hl => ?_⟩⟩
  all_goals simp only [answers, releaseRequest, hu, h, State.sampled]
  · rw [hs]
  · cases hs : x.state with
    | sealed => exact absurd hs h1
    | reclaim => exact absurd hs h2
    | _ => rfl
  · rw [hs, hh]
  · rw [hs, hh, hl]

/-- Settles O35: RELEASE answers by the unit's state and hold; where it lifts the hold, the unit is the one `State.liftHold` leaves. -/
theorem releaseLiftsHold : Obligations.ReleaseLiftsHold := by
  unfold Obligations.ReleaseLiftsHold
  intro p level s hr u answered
  let q := s.headRequest (.master p)
  let a := s.sampled p level
  have he : exec (.release p level) s = .next (releaseRequest level q (s.taken (.master p))) :=
    exec_of_kind s (.master p) kindRelease (releaseRequest level) _ rfl hr
  have ao : s.Only [.masters, .inputs] a := s.sampled_only p level
  have now : ∀ status, releaseRequest level q (s.taken (.master p)) = q.answer a status → answered status := fun status h =>
    ⟨_, he.trans (congrArg _ h), s.answered _ _ rfl rfl status [] [],
      ao.andThen (Request.answer_only_master _ p rfl _ status [] []), by rw [Request.answer_inputs]; exact s.sampled_plwN p level⟩
  obtain ⟨absent, other⟩ := releaseRequest_answers p level q s
  refine ⟨fun hn => now _ (absent hn), fun x hx => ?_⟩
  obtain ⟨busy, notSealed, unheld, retained⟩ := other x hx
  refine ⟨fun hs => now _ (busy hs), fun h1 h2 => now _ (notSealed h1 h2), fun hs hh => now _ (unheld hs hh),
    fun hs hh hl => now _ (retained hs hh hl), fun hs hh => ?_⟩
  have ax : a.unit? u = some x := (ao.unit? u).trans hx
  have aplw : a.plwAsserted = s.plwAsserted := by simp only [State.plwAsserted, a, s.sampled_plwN p level]
  have hc := a.liftHold_change u
  have ha := Request.answer_only_master q p rfl (a.liftHold u) .ok [] []
  have hunit : (q.answer (a.liftHold u) .ok).unit? u = some ({ x with hold := .noHold }.checked s.plwAsserted) := by
    rw [ha.unit?, a.liftHold_unit u x ax, aplw]
  refine ⟨q.answer (a.liftHold u) .ok, he.trans (congrArg _ (releaseRequest_lifts p level q s x hx hs hh)),
    s.answered _ _ (hc.only .masters (by decide)) (hc.only .mport (by decide)) .ok [] [], fun hstay => ⟨?_, fun g => ?_⟩,
    fun hv hse => ?_, fun w hw => ?_, ?_, ?_⟩
  · rw [hunit, UnitRecord.checked, if_neg]
    rw [UnitRecord.leavesSealed_iff]
    rintro ⟨-, hv, hse, -⟩
    exact hstay.elim (· hv) (fun h => by rw [show x.settled = true from hse] at h; cases h)
  · have ag : a.groups = s.groups := ao .groups (by decide)
    have hg := a.liftHold_groups u x ax hstay g
    rw [ag, s.groupOfUnit_congr a u (congrArg Management.geometry (ao .mgmt (by decide))) (fun j => by simp only [State.config, ag])] at hg
    simp only [State.config, State.reclaimOf, Request.answer_groups, hg]
    split <;> simp [Option.map_map, Function.comp_def]
  · rw [State.unitState, hunit, Option.map_some, UnitRecord.checked, if_pos, UnitRecord.leftForErase_state]
    rw [UnitRecord.leavesSealed_iff]; exact ⟨hs, hv, hse, rfl⟩
  · rw [ha.unit?, hc.others w hw, ao.unit?]
  · rw [ha .inputs (by decide), hc.only .inputs (by decide)]; exact s.sampled_plwN p level
  · exact ((ao.mono (by decide)).andThen hc.only (gs := [.units, .streams, .groups, .dies, .masters, .inputs])).andThen ha

/-! ## UNIT-DRAINED -/

/-- The orders are those of the groups' records. -/
theorem State.order_congr {s t : State} (h : t.groups = s.groups) (r : NoticeRef) : t.order r = s.order r := by
  simp only [State.order, State.reclaimOf, h]

theorem State.order_setOrder_none (s : State) (k : NoticeRef) : (s.setOrder k none).order k = none := by
  simp only [State.order, State.reclaimOf, State.setOrder, State.modReclaim_groups, Table.get_modify_self, Option.map_map]
  cases s.groups.get k.group with
  | none => rfl
  | some r =>
    simp only [Option.map_some, Option.bind_some, Function.comp_apply, List.getElem?_set_self']
    cases r.reclaim.slots[k.slot.val]? <;> rfl

theorem State.order_setOrder_ne (s : State) (k r : NoticeRef) (o : Option Order) (h : r ≠ k) :
    (s.setOrder k o).order r = s.order r := by
  obtain ⟨g, i⟩ := r
  obtain ⟨h', j⟩ := k
  by_cases hg : g = h'
  · subst hg
    have hij : j.val ≠ i.val := fun e => h (by rw [Fin.ext e])
    simp only [State.order, State.reclaimOf, State.setOrder, State.modReclaim_groups, Table.get_modify_self, Option.map_map]
    cases s.groups.get g with
    | none => rfl
    | some r => simp [hij]
  · simp [State.order, State.reclaimOf, State.setOrder, hg]

/-- The state that a UNIT-DRAINED leaves of the unit, its order and the rest (R11, R101). -/
theorem State.drainUnit_cases (s : State) (k : NoticeRef) (u : Nat) (x : UnitRecord) (h : s.unit? u = some x) :
    (s.drainUnit k u).unit? u = some ({ x with valid := 0, orderSlot := none }.leftForErase s.plwAsserted) ∧
    s.OtherUnits u (s.drainUnit k u) ∧ (s.drainUnit k u).order k = none ∧ (∀ r, r ≠ k → (s.drainUnit k u).order r = s.order r) ∧
    s.Only [.units, .streams, .groups, .dies] (s.drainUnit k u) := by
  let v := (s.setOrder k none).modUnit u (fun r => { r with valid := 0, orderSlot := none })
  have hv : v.unit? u = some { x with valid := 0, orderSlot := none } := by
    rw [State.unit?_modUnit_self, (s.setOrder_only k none).unit?, h]; rfl
  have hc : (s.setOrder k none).UnitChange u (v.leaveForErase u) := (State.modUnit_change _ u _).trans (v.leaveForErase_change u)
  refine ⟨v.leaveForErase_unit u _ hv, fun w hw => (hc.others w hw).trans ((s.setOrder_only k none).unit? w), ?_, fun r hr => ?_, ?_⟩
  · exact (hc.order k).trans (s.order_setOrder_none k)
  · exact (hc.order r).trans (s.order_setOrder_ne k r none hr)
  · exact ((s.setOrder_only k none).mono (by decide)).andThen hc.only (fun _ hm => hm)

@[simp] theorem State.taken_issuedOrder (s : State) (q : PortId) (m : MasterId) (u : Nat) (n : Half) :
    (s.taken q).issuedOrder m u n = s.issuedOrder m u n := by
  simp [State.issuedOrder, State.order, State.reclaimOf]

/-- The four answers of UNIT-DRAINED, in the order in which R101 tests them. -/
theorem unitDrainedRequest_cases (p : MasterId) (r : Request) (s : State) :
    (s.unit? r.unit = none → unitDrainedRequest p r s = r.answer s .badRequest) ∧
    ∀ x, s.unit? r.unit = some x →
      (∀ k, s.issuedOrder p r.unit r.orderNumber = some k → unitDrainedRequest p r s =
        r.answer (s.drainUnit k r.unit) (if x.valid = 0 then .ok else .countSkew)
          (leBytes 2 x.valid ++ leBytes 1 (if x.retirePending then 6 else 4))) ∧
      (s.issuedOrder p r.unit r.orderNumber = none →
        ((r.unit, r.orderNumber) ∈ s.reclaim.expiry.get p → unitDrainedRequest p r s = r.answer s .tooLate) ∧
        ((r.unit, r.orderNumber) ∉ s.reclaim.expiry.get p → unitDrainedRequest p r s = r.answer s .stale)) := by
  refine ⟨fun h => by simp only [unitDrainedRequest, h], fun x h => ⟨fun k hk => ?_, fun hk => ⟨fun hm => ?_, fun hm => ?_⟩⟩⟩
  · simp only [unitDrainedRequest, h, hk]
    cases x.retirePending <;> rfl
  · simp [unitDrainedRequest, h, hk, hm]
  · simp [unitDrainedRequest, h, hk, hm]

/-- Settles O33: the order that ends is the one `State.issuedOrder` finds, and its unit the one `State.leaveForErase` leaves. -/
theorem unitDrainedEndsOrder : Obligations.UnitDrainedEndsOrder := by
  unfold Obligations.UnitDrainedEndsOrder
  intro p s hr q refused
  let a := s.taken (.master p)
  have he : exec (.unitDrained p) s = .next (unitDrainedRequest p q a) :=
    exec_of_kind s (.master p) kindUnitDrained (unitDrainedRequest p) _ rfl hr
  have ao : s.Only [.masters] a := s.taken_only_master p
  have ai : a.issuedOrder p q.unit q.orderNumber = s.issuedOrder p q.unit q.orderNumber := s.taken_issuedOrder _ p _ _
  have ae : a.reclaim = s.reclaim := ao .reclaim (by decide)
  obtain ⟨absent, found⟩ := unitDrainedRequest_cases p q a
  refine ⟨fun hn => onlyAnswered_of_exec (he.trans (congrArg _ (absent ((ao.unit? _).trans hn)))), fun x hx => ?_⟩
  have ax : a.unit? q.unit = some x := (ao.unit? _).trans hx
  obtain ⟨ends, notFound⟩ := found x ax
  rw [ai, ae] at notFound
  refine ⟨fun k hk => ?_, fun hk => ⟨fun hm => onlyAnswered_of_exec (he.trans (congrArg _ ((notFound hk).1 hm))),
    fun hm => onlyAnswered_of_exec (he.trans (congrArg _ ((notFound hk).2 hm)))⟩⟩
  obtain ⟨du, others, freed, orders, only⟩ := a.drainUnit_cases k q.unit x ax
  let v := a.drainUnit k q.unit
  let status := if x.valid = 0 then Status.ok else .countSkew
  let body := leBytes 2 x.valid ++ leBytes 1 (if x.retirePending then 6 else 4)
  have ha := Request.answer_only_master q p rfl v status body []
  have hu : (q.answer v status body).unit? q.unit = _ := (ha.unit? _).trans du
  refine ⟨q.answer v status body, he.trans (congrArg _ (ends k (ai.trans hk))),
    s.answered _ _ (only .masters (by decide)) (only .mport (by decide)) status body [], ?_, fun r hr => ?_, ?_, fun y hy => ?_,
    fun w hw => ?_, ?_⟩
  · exact (State.order_congr (ha .groups (by decide)) k).trans freed
  · exact (State.order_congr (ha .groups (by decide)) r).trans ((orders r hr).trans (State.order_congr (ao .groups (by decide)) r))
  · rw [State.unitState, hu, Option.map_some, UnitRecord.leftForErase_state, ao.plwAsserted]
  · rw [hu] at hy; cases hy
    exact UnitRecord.leftForErase_fields _ _
  · rw [ha.unit?, others w hw, ao.unit?]
  · exact ((ao.mono (by decide)).andThen only (gs := [.units, .streams, .groups, .dies, .masters])).andThen ha

end Sys2Proof.Machine
end

section
/-!
PROOFS. Slots that are sealed: what sealing the slots of a stream does (R5, R35, R58), IDLE_SEAL (R57) and CLOSE_STREAM (R27).
-/

namespace Sys2Proof.Machine

/-! ## A profile that takes effect -/

/-- A pending profile that takes effect changes the profile and the cursors of its stream, and no other stream (R33, R35). -/
theorem State.applyPending_stream (s : State) (st x : StreamId) :
    (s.applyPending st).streams.get x = { s.streams.get x with
      profile := ((s.applyPending st).streams.get x).profile
      pendingProfile := ((s.applyPending st).streams.get x).pendingProfile
      packCursor := ((s.applyPending st).streams.get x).packCursor
      spreadCursor := ((s.applyPending st).streams.get x).spreadCursor } ∧
    (x ≠ st → (s.applyPending st).streams.get x = s.streams.get x) := by
  have take : ∀ p, (s.takeProfile st p).streams = s.streams.modify st (fun r => { r with
      profile := p, pendingProfile := none, packCursor := lowestPosition p.mask, spreadCursor := lowestPosition p.mask }) :=
    fun _ => rfl
  unfold State.applyPending; dsimp only; split
  · split
    · rw [take]
      by_cases hx : x = st
      · subst hx; simp
      · simp [hx]
    · exact ⟨rfl, fun _ => rfl⟩
  · exact ⟨rfl, fun _ => rfl⟩

theorem State.applyPending_balances (s : State) (st : StreamId) : (s.applyPending st).credit.balances = s.credit.balances := by
  unfold State.applyPending; dsimp only; split
  · split <;> rfl
  · rfl

theorem State.applyPending_slots (s : State) (st x : StreamId) :
    ((s.applyPending st).streams.get x).slots = (s.streams.get x).slots := by rw [(s.applyPending_stream st x).1]

/-! ## Sealing the slots of a stream -/

/-- What sealing slots of stream `st` may change in the streams: young lists everywhere, profiles and cursors where a pending profile takes
effect, and the slots of `st`. -/
structure State.SealChange (s : State) (st : StreamId) (t : State) : Prop where
  streams : ∀ x, t.streams.get x = { s.streams.get x with
    profile := (t.streams.get x).profile
    pendingProfile := (t.streams.get x).pendingProfile
    slots := (t.streams.get x).slots
    packCursor := (t.streams.get x).packCursor
    spreadCursor := (t.streams.get x).spreadCursor
    young := (t.streams.get x).young }
  slots : ∀ x, x ≠ st → (t.streams.get x).slots = (s.streams.get x).slots
  only : s.Only [.units, .streams, .waiters, .credit, .groups, .dies] t

theorem State.SealChange.refl (s : State) (st : StreamId) : s.SealChange st s := ⟨fun _ => rfl, fun _ _ => rfl, .refl s _⟩

theorem State.SealChange.trans {s t v : State} {st : StreamId} (h : s.SealChange st t) (k : t.SealChange st v) : s.SealChange st v where
  streams x := by rw [k.streams x, h.streams x]
  slots x hx := (k.slots x hx).trans (h.slots x hx)
  only := h.only.andThen k.only (fun _ hm => hm)

theorem State.emptySlot_change (s : State) (st : StreamId) (q : Position) : s.SealChange st (s.emptySlot st q) where
  streams x := by
    by_cases hx : x = st
    · subst hx; simp [State.emptySlot]
    · simp [State.emptySlot, hx]
  slots x hx := by simp [State.emptySlot, hx]
  only := (s.emptySlot_only st q).mono (by decide)

theorem State.UnitChange.sealChange {s t : State} {u : Nat} (h : s.UnitChange u t) (st : StreamId) : s.SealChange st t where
  streams x := by rw [h.streams x]
  slots x _ := by rw [h.streams x]
  only := h.only.mono (by decide)

theorem State.applyPending_change (s : State) (st : StreamId) : s.SealChange st (s.applyPending st) where
  streams x := by rw [(s.applyPending_stream st x).1]
  slots x _ := s.applyPending_slots st x
  only := (s.applyPending_only st).mono (by decide)

theorem State.sealSlot_change (s : State) (st : StreamId) (q : Position) : s.SealChange st (s.sealSlot st q) := by
  unfold State.sealSlot; split
  · exact .refl s st
  · exact ((s.emptySlot_change st q).trans ((State.sealUnit_change _ _).sealChange st)).trans (State.applyPending_change _ st)

/-- The slot that is sealed empties, and the others of the stream stay (R5). -/
theorem State.sealSlot_slots (s : State) (st : StreamId) (q k : Position) :
    ((s.sealSlot st q).streams.get st).slots.get k = if k = q then none else (s.streams.get st).slots.get k := by
  unfold State.sealSlot; split
  · next h => split
              · next hk => rw [hk, h]
              · rfl
  · next o h =>
      rw [State.applyPending_slots, ((s.emptySlot st q).sealUnit_change o.unit).streams st]
      by_cases hk : k = q
      · subst hk; simp [State.emptySlot]
      · simp [State.emptySlot, hk]

/-- The record of an OPEN unit once it is sealed and checked (R5, R9). -/
def UnitRecord.sealResult (r : UnitRecord) (s : State) : UnitRecord := (r.sealedAt s.time.epoch s.pages).checked s.plwAsserted

theorem State.SealChange.sealResult {s t : State} {st : StreamId} (h : s.SealChange st t) (r : UnitRecord) :
    r.sealResult t = r.sealResult s := by
  have ht : t.time = s.time := h.only .time (by decide)
  simp only [UnitRecord.sealResult, h.only.plwAsserted, h.only.pages, ht]

/-- A unit that has left SEALED is sealed and checked again with the same result (R9). -/
theorem UnitRecord.sealResult_left (r : UnitRecord) (s : State) (h : (r.sealedAt s.time.epoch s.pages).leavesSealed = true) :
    (r.sealResult s).sealResult s = r.sealResult s := by
  obtain ⟨-, hv, hs, hh⟩ := (UnitRecord.leavesSealed_iff _).mp h
  have hk : r.sealResult s = (r.sealedAt s.time.epoch s.pages).leftForErase s.plwAsserted := if_pos h
  have hs' : r.programmed = r.writePointer ∨ r.retirePending = true := ((Bool.or_eq_true _ _).mp hs).imp of_decide_eq_true id
  have again : ((r.sealResult s).sealedAt s.time.epoch s.pages).leavesSealed = true := by
    rw [UnitRecord.leavesSealed_iff, hk]
    cases hr : r.retirePending <;> cases s.plwAsserted <;>
      simp [leftForErase, sealedAt, settled, toErasing, toUnknown, toRetired, hr] <;> simpa [hr] using hs'
  rw [UnitRecord.sealResult, UnitRecord.checked, if_pos again, hk]
  cases hr : r.retirePending <;> cases s.plwAsserted <;> simp [leftForErase, sealedAt, toErasing, toUnknown, toRetired, hr]

/-- Sealing a unit that a slot has sealed already changes nothing more. -/
theorem UnitRecord.sealResult_idem (r : UnitRecord) (s : State) : (r.sealResult s).sealResult s = r.sealResult s := by
  by_cases h : (r.sealedAt s.time.epoch s.pages).leavesSealed = true
  · exact r.sealResult_left s h
  · have hk : r.sealResult s = r.sealedAt s.time.epoch s.pages := if_neg h
    rw [hk]
    exact hk

/-- A slot of a stream holds a unit. -/
def StreamRecord.holdsUnit (r : StreamRecord) (q : Position) (u : Nat) : Prop := ∃ o, r.slots.get q = some o ∧ o.unit = u

/-- Sealing a slot seals the unit it holds, and leaves the other units. -/
theorem State.sealSlot_unit (s : State) (st : StreamId) (q : Position) (u : Nat) :
    ((s.streams.get st).holdsUnit q u → ∀ x, s.unit? u = some x → (s.sealSlot st q).unit? u = some (x.sealResult s)) ∧
    (¬ (s.streams.get st).holdsUnit q u → (s.sealSlot st q).unit? u = s.unit? u) := by
  have he := s.emptySlot_only st q
  constructor
  · rintro ⟨o, hq, rfl⟩ x h
    simp only [State.sealSlot, hq]
    rw [(State.applyPending_only _ _).unit?, State.sealUnit_unit _ o.unit x ((he.unit? o.unit).trans h)]; rfl
  · intro hn
    unfold State.sealSlot; split
    · rfl
    · next o hq =>
        rw [(State.applyPending_only _ _).unit?, (State.sealUnit_change _ o.unit).others u (fun e => hn ⟨o, hq, e.symm⟩), he.unit?]

/-- What sealing the slots of a list of positions does: the slots empty, and each unit that one of them held is sealed (R58). -/
theorem State.sealSlots_fold (s : State) (st : StreamId) (l : List Position) (hl : l.Nodup) :
    let t := l.foldl (fun s q => s.sealSlot st q) s
    s.SealChange st t ∧
    (∀ k, (t.streams.get st).slots.get k = if k ∈ l then none else (s.streams.get st).slots.get k) ∧
    ∀ u, ((∃ q ∈ l, (s.streams.get st).holdsUnit q u) → ∀ x, s.unit? u = some x → t.unit? u = some (x.sealResult s)) ∧
      ((∀ q ∈ l, ¬ (s.streams.get st).holdsUnit q u) → t.unit? u = s.unit? u) := by
  induction l generalizing s with
  | nil => exact ⟨.refl s st, fun _ => by simp, fun u => ⟨by simp, fun _ => rfl⟩⟩
  | cons q qs ih =>
    obtain ⟨hq, hqs⟩ := List.nodup_cons.mp hl
    have hc := s.sealSlot_change st q
    obtain ⟨tc, tslots, tunits⟩ := ih (s.sealSlot st q) hqs
    have later : ∀ u, ∀ k ∈ qs, ((s.sealSlot st q).streams.get st).holdsUnit k u ↔ (s.streams.get st).holdsUnit k u := fun u k hk => by
      have hkq : k ≠ q := fun e => hq (e ▸ hk)
      simp only [StreamRecord.holdsUnit, State.sealSlot_slots, if_neg hkq]
    refine ⟨hc.trans tc, fun k => ?_, fun u => ?_⟩
    · rw [List.foldl_cons, tslots, State.sealSlot_slots]
      by_cases hk : k = q <;> simp [hk]
    obtain ⟨now, notNow⟩ := s.sealSlot_unit st q u
    obtain ⟨held, notHeld⟩ := tunits u
    refine ⟨fun hex x h => ?_, fun hno => ?_⟩
    · by_cases hn : (s.streams.get st).holdsUnit q u <;> by_cases hr : ∃ k ∈ qs, (s.streams.get st).holdsUnit k u
      · obtain ⟨k, hk, hku⟩ := hr
        rw [List.foldl_cons, held ⟨k, hk, (later u k hk).mpr hku⟩ _ (now hn x h), hc.sealResult, UnitRecord.sealResult_idem]
      · rw [List.foldl_cons, notHeld (fun k hk hku => hr ⟨k, hk, (later u k hk).mp hku⟩), now hn x h]
      · obtain ⟨k, hk, hku⟩ := hr
        rw [List.foldl_cons, held ⟨k, hk, (later u k hk).mpr hku⟩ x ((notNow hn).trans h), hc.sealResult]
      · obtain ⟨k, hk, hku⟩ := hex
        rcases List.mem_cons.mp hk with rfl | hk
        · exact absurd hku hn
        · exact absurd ⟨k, hk, hku⟩ hr
    · rw [List.foldl_cons, notHeld (fun k hk hku => hno k (.tail _ hk) ((later u k hk).mp hku)), notNow (hno q (.head _))]

/-! ## IDLE-SEAL -/

/-- Pushing a unit onto a young list changes that list alone, and only of a bound stream (R38). -/
theorem State.pushYoung_streams (s : State) (st : StreamId) (u : Nat) :
    (s.pushYoung st u).streams = s.streams.modify st (fun r => { r with
      young := if r.state.bound then (u :: r.young).take Config.youngLimit else r.young }) := by
  have hsame : ∀ r : StreamRecord, { r with young := r.young } = r := fun _ => rfl
  refine Table.ext_get _ _ (fun x => ?_)
  unfold State.pushYoung; dsimp only; split
  · next hb =>
      have hm : (s.modStream st (fun r => { r with young := (u :: (s.streams.get st).young).take Config.youngLimit })).streams.get x =
          (s.streams.modify st (fun r => { r with
            young := if r.state.bound then (u :: r.young).take Config.youngLimit else r.young })).get x := by
        by_cases hx : x = st
        · subst hx; simp [hb]
        · simp [hx]
      split
      · rw [(State.wakeUnit_only _ _) .streams (by decide)]; exact hm
      · exact hm
  · next hb =>
      by_cases hx : x = st
      · subst hx; simp [hb]
      · simp [hx]

/-- The seal of a unit that holds a valid page pushes it onto the young list of its owner; the unit stays SEALED (R5, R38). -/
theorem State.sealUnit_valid (s : State) (u : Nat) (st : StreamId) (x : UnitRecord) (h : s.unit? u = some x)
    (ho : x.owner = some st) (hv : x.valid ≠ 0) :
    s.sealUnit u = ((s.modUnit u (fun r => r.sealedAt s.time.epoch s.pages)).pushYoung st u).wakeUnit u := by
  have hm : (s.modUnit u (fun r => r.sealedAt s.time.epoch s.pages)).unit? u = some (x.sealedAt s.time.epoch s.pages) := by simp [h]
  have hw : (((s.modUnit u (fun r => r.sealedAt s.time.epoch s.pages)).pushYoung st u).wakeUnit u).unit? u =
      some (x.sealedAt s.time.epoch s.pages) := by
    rw [(State.wakeUnit_only _ _).unit?, (State.pushYoung_only _ _ _).unit?, hm]
  simp only [State.sealUnit, h, ho]
  exact State.checkEmpty_stays _ u _ hw (by simp [UnitRecord.leavesSealed, UnitRecord.sealedAt, hv])

/-- Where no seal is due on a slot, nothing is made of it (R57). -/
theorem State.dueSeal_idle (s : State) (st : StreamId) (q : Position)
    (h : ((s.streams.get st).slots.get q).any (·.sealDue) = false) : s.dueSeal st q = s := by
  unfold State.dueSeal; split
  · next o ho => rw [if_neg]; simpa [ho] using h
  · rfl

/-- Where one slot alone has its seal due, making the due seals of the stream is sealing that slot (R57; log entry 41). -/
theorem State.settleSlots_one (s : State) (st : StreamId) (q : Position)
    (h : ∀ k, k ≠ q → ((s.streams.get st).slots.get k).any (·.sealDue) = false)
    (ht : (s.dueSeal st q).NoSealDue st) : s.settleSlots st = s.dueSeal st q := by
  have after : ∀ l : List Position, l.foldl (fun s q => s.dueSeal st q) (s.dueSeal st q) = s.dueSeal st q := fun l => by
    induction l with
    | nil => rfl
    | cons k l ih => rw [List.foldl_cons, State.dueSeal_idle _ st k (ht k)]; exact ih
  have fold : ∀ l : List Position, q ∈ l → l.foldl (fun s q => s.dueSeal st q) s = s.dueSeal st q := fun l => by
    induction l with
    | nil => intro hq; cases hq
    | cons k l ih =>
      intro hq
      by_cases hk : k = q
      · rw [List.foldl_cons, hk]; exact after l
      · rw [List.foldl_cons, State.dueSeal_idle s st k (h k hk)]
        exact ih ((List.mem_cons.mp hq).resolve_left (Ne.symm hk))
  exact fold _ (List.mem_finRange q)

/-- A placement finds the due seals of its stream made (R57; log entry 41). -/
theorem exec_place_settled (s t : State) (st : StreamId) (h : s.settleSlots st = t) (ht : t.NoSealDue st) :
    (∀ cls, exec (.placePage st cls) s = exec (.placePage st cls) t) ∧ exec (.replacePage st) s = exec (.replacePage st) t := by
  have hh := t.settleSlots_none st ht
  constructor
  · intro cls
    show execPlacePage st cls s = execPlacePage st cls t
    simp only [execPlacePage, h, hh]
  · show execReplacePage st s = execReplacePage st t
    simp only [execReplacePage, h, hh]

/-- Settles O14: the due seal is `State.sealSlot`, whose unit holds a valid page and so stays SEALED in the young list of its owner. -/
theorem idleSealSeals : Obligations.IdleSealSeals := by
  unfold Obligations.IdleSealSeals
  intro st q s o x ho hd hx _ howner hv
  have he := s.emptySlot_only st q
  let a := (s.emptySlot st q).modUnit o.unit (fun r => r.sealedAt s.time.epoch s.pages)
  let b := (a.pushYoung st o.unit).wakeUnit o.unit
  have hs : s.dueSeal st q = b.applyPending st := by
    simp only [State.dueSeal, ho, hd, if_true, State.sealSlot]
    rw [State.sealUnit_valid _ o.unit st x ((he.unit? _).trans hx) howner hv]; rfl
  have ab : a.Only [.streams, .groups] b := (a.pushYoung_only st o.unit).andThen (State.wakeUnit_only _ _)
  have ap := b.applyPending_only st
  have astreams : a.streams = s.streams.modify st (fun r => { r with slots := r.slots.set q none }) := rfl
  have bstreams : b.streams = a.streams.modify st (fun r => { r with
      young := if r.state.bound then (o.unit :: r.young).take Config.youngLimit else r.young }) :=
    ((State.wakeUnit_only _ _) .streams (by decide)).trans (a.pushYoung_streams st o.unit)
  have bst : b.streams.get st = { s.streams.get st with
      slots := (s.streams.get st).slots.set q none
      young := if (s.streams.get st).state.bound then (o.unit :: (s.streams.get st).young).take 8 else (s.streams.get st).young } := by
    rw [bstreams, Table.get_modify_self, astreams, Table.get_modify_self]; rfl
  obtain ⟨hst, -⟩ := b.applyPending_stream st st
  rw [bst] at hst
  have tslots : ∀ k, ((b.applyPending st).streams.get st).slots.get k = if k = q then none else (s.streams.get st).slots.get k := fun k => by
    rw [State.applyPending_slots, bst, Table.get_set]
    exact if_congr eq_comm rfl rfl
  refine ⟨b.applyPending st, congrArg _ hs, ?_, fun v hne => ?_, ?_, fun k hk => ?_, ?_, ?_, fun y hy => ?_, ?_, ?_, fun hk => ?_⟩
  · rw [ap.unit?, ab.unit?, State.unit?_modUnit_self, he.unit?, hx]; rfl
  · rw [ap.unit?, ab.unit?, State.unit?_modUnit_ne _ _ _ _ hne, he.unit?]
  · rw [tslots, if_pos rfl]
  · rw [tslots, if_neg hk]
  · rw [hst]
  · rw [hst]
  · rw [(b.applyPending_stream st y).2 hy, bstreams, Table.get_modify_ne _ _ _ _ hy, astreams, Table.get_modify_ne _ _ _ _ hy]
  · rw [State.applyPending_balances, ab .credit (by decide)]; rfl
  · exact ((((State.Only.refl s _).andThen he).andThen (State.modUnit_only _ _ _)).andThen ab).andThen ap
  · have settled : (b.applyPending st).NoSealDue st := fun k => by
      rw [tslots]; split
      · rfl
      · next hkq => exact hk k hkq
    exact exec_place_settled s _ st ((s.settleSlots_one st q hk (hs ▸ settled)).trans hs) settled

/-! ## CLOSE-STREAM -/

/-- What sealing every slot of a stream does (R58). -/
theorem State.sealAllSlots_cases (s : State) (st : StreamId) :
    s.SealChange st (s.sealAllSlots st) ∧ (∀ k, ((s.sealAllSlots st).streams.get st).slots.get k = none) ∧
    ∀ k o x, (s.streams.get st).slots.get k = some o → s.unit? o.unit = some x →
      (s.sealAllSlots st).unit? o.unit = some (x.sealResult s) := by
  have h := s.sealSlots_fold st (List.finRange 8) (List.nodup_finRange 8)
  unfold State.sealAllSlots
  generalize (List.finRange 8).foldl (fun s q => s.sealSlot st q) s = a at h ⊢
  obtain ⟨ac, aslots, aunits⟩ := h
  refine ⟨ac.trans (a.applyPending_change st), fun k => ?_, fun k o x hk hx => ?_⟩
  · rw [State.applyPending_slots, aslots, if_pos (List.mem_finRange k)]
  · rw [(a.applyPending_only st).unit?]
    exact (aunits o.unit).1 ⟨k, List.mem_finRange k, o, hk, rfl⟩ x hx

theorem State.emptyYoung_streams (s : State) (st : StreamId) :
    (s.emptyYoung st).streams = s.streams.modify st (fun r => { r with young := [] }) :=
  (State.Only.foldl [.groups] _ State.wakeUnit State.wakeUnit_only _) .streams (by decide)

/-- What closing a stream does (R27): it is CLOSED and unbound, with every slot and the young list empty. -/
theorem State.closeStream_cases (s : State) (st : StreamId) :
    let t := s.closeStream st
    let r := s.streams.get st
    t.streams.get st = { r with
      state := .closed
      port := none
      profile := (t.streams.get st).profile
      pendingProfile := (t.streams.get st).pendingProfile
      slots := (t.streams.get st).slots
      packCursor := (t.streams.get st).packCursor
      spreadCursor := (t.streams.get st).spreadCursor
      young := [] } ∧
    (∀ k, (t.streams.get st).slots.get k = none) ∧
    (∀ k o x, r.slots.get k = some o → s.unit? o.unit = some x → t.unit? o.unit = some (x.sealResult s)) ∧
    (∀ x, x ≠ st → (t.streams.get x).state = (s.streams.get x).state ∧ (t.streams.get x).port = (s.streams.get x).port ∧
      (t.streams.get x).slots = (s.streams.get x).slots) ∧
    s.Only [.units, .streams, .waiters, .credit, .groups, .dies] t := by
  intro t r
  obtain ⟨bc, bslots, bunits⟩ := s.sealAllSlots_cases st
  have tdef : t = ((s.sealAllSlots st).emptyYoung st).modStream st (fun r => { r with state := .closed, port := none }) := rfl
  generalize s.sealAllSlots st = b at bc bslots bunits tdef
  have tb : b.Only [.streams, .groups] t := tdef ▸ (b.emptyYoung_only st).andThen (State.modStream_only _ _ _)
  have tst : t.streams.get st = { b.streams.get st with young := [], state := .closed, port := none } := by
    rw [tdef, State.modStream_streams, Table.get_modify_self, State.emptyYoung_streams, Table.get_modify_self]
  have tother : ∀ x, x ≠ st → t.streams.get x = b.streams.get x := fun x hx => by
    rw [tdef, State.modStream_streams, Table.get_modify_ne _ _ _ _ hx, State.emptyYoung_streams, Table.get_modify_ne _ _ _ _ hx]
  refine ⟨?_, fun k => ?_, fun k o x hk hx => (tb.unit? _).trans (bunits k o x hk hx), fun x hx => ?_, bc.only.andThen tb⟩
  · rw [tst, bc.streams st]
  · rw [tst]; exact bslots k
  · rw [tother x hx]
    exact ⟨by rw [bc.streams x], by rw [bc.streams x], bc.slots x hx⟩

/-- A request of the port to which its stream is bound goes on to its own rule (R24, R25). -/
theorem State.onBoundStream_bound (s : State) (p : MasterId) (r : Request) (act : StreamId → State → State) (st : StreamId)
    (h : r.stream = some st) (hp : (s.streams.get st).port = some p) : s.onBoundStream p r act = act st (s.touchStream st) := by
  simp only [State.onBoundStream, State.boundStream, h, hp, if_true]

theorem State.touchStream_only (s : State) (st : StreamId) : s.Only [.streams] (s.touchStream st) := s.modStream_only _ _

theorem State.touchStream_stream (s : State) (st : StreamId) :
    (s.touchStream st).streams.get st = { s.streams.get st with lastActivity := s.time.tick } := by
  simp [State.touchStream]

theorem StreamRecord.closable_iff (r : StreamRecord) :
    r.closable = true ↔ r.state = .quiesced ∨ (r.state = .opened ∧ r.outstanding = 0) := by
  simp [closable]

/-- Settles O23: a closable stream is closed as `State.closeStream_cases` says, and any other is refused. -/
theorem closeStreamUnbinds : Obligations.CloseStreamUnbinds := by
  unfold Obligations.CloseStreamUnbinds
  intro p s st hr hst hport r
  let q := s.headRequest (.master p)
  let a := (s.taken (.master p)).touchStream st
  have ao : s.Only [.streams, .masters] a := ((s.taken_only_master p).mono (by decide)).andThen (State.touchStream_only _ _)
  have ast : a.streams.get st = { r with lastActivity := s.time.tick } := by
    rw [State.touchStream_stream, State.taken_streams, State.taken_time]
  have aother : ∀ x, x ≠ st → a.streams.get x = s.streams.get x := fun x hx => by simp [a, State.touchStream, hx]
  have aclosable : (a.streams.get st).closable = r.closable := by rw [ast]; rfl
  have he : exec (.closeStream p) s = .next (if r.closable = true then q.answer (a.closeStream st) .ok else q.answer a .streamState) := by
    refine (exec_of_kind s (.master p) kindCloseStream (closeStreamRequest p) _ rfl hr).trans (congrArg _ ?_)
    rw [closeStreamRequest, State.onBoundStream_bound _ p _ _ st hst (by rw [State.taken_streams]; exact hport), ← aclosable]
  refine ⟨fun hc => ?_, fun hc => ?_⟩
  · have hcl := r.closable_iff.mpr hc
    rw [if_pos hcl] at he
    obtain ⟨tst, tslots, tunits, tothers, tonly⟩ := a.closeStream_cases st
    have ha := Request.answer_only_master q p rfl (a.closeStream st) .ok [] []
    have hstreams := ha .streams (by decide)
    rw [ast] at tst
    refine ⟨_, he, s.answered _ _ (tonly .masters (by decide)) (tonly .mport (by decide)) .ok [] [], ?_⟩
    rw [hstreams]
    refine ⟨by rw [tst], by rw [tst], by rw [tst], tslots, by rw [tst], by rw [tst], by rw [tst], by rw [tst], fun k o x hk hx _ => ?_,
      fun x hx => ?_, ?_⟩
    · have hu := tunits k o x (by rw [ast]; exact hk) ((ao.unit? _).trans hx)
      have hres : x.sealResult a = x.sealResult s := by
        have : a.time = s.time := ao .time (by decide)
        simp only [UnitRecord.sealResult, ao.plwAsserted, ao.pages, this]
      rw [hres] at hu
      refine ⟨fun hstay => ?_, fun hv hse hh => ?_⟩
      · rw [ha.unit?, hu, UnitRecord.sealResult, UnitRecord.checked, if_neg]; · rfl
        rw [UnitRecord.leavesSealed_iff]
        rintro ⟨-, hv, hse, hh⟩
        rcases hstay with h | h | h
        · exact h hv
        · rw [show x.settled = true from hse] at h; cases h
        · exact h hh
      · rw [State.unitState, ha.unit?, hu, Option.map_some, UnitRecord.sealResult, UnitRecord.checked, if_pos,
          UnitRecord.leftForErase_state]; · rfl
        rw [UnitRecord.leavesSealed_iff]; exact ⟨rfl, hv, hse, hh⟩
    · have := tothers x hx
      rwa [aother x hx] at this
    · exact ((ao.mono (by decide)).andThen tonly (gs := [.units, .streams, .waiters, .credit, .groups, .dies, .masters])).andThen ha
  · rw [if_neg (fun h => hc (r.closable_iff.mp h))] at he
    have ha := Request.answer_only_master q p rfl a .streamState [] []
    have hstreams := ha .streams (by decide)
    refine ⟨_, he, s.answered _ _ rfl rfl .streamState [] [], ?_, fun x hx => ?_, ao.andThen ha⟩
    · rw [hstreams, ast]
    · rw [hstreams, aother x hx]

end Sys2Proof.Machine
end

section
/-!
SUPPORT. The free lists (R16): what keeps them exact and in wear order, and what a unit that leaves or joins its die's list does to them.
-/

namespace Sys2Proof.Machine

/-- The place of a unit in its free list is a matter of the erase counts alone. -/
theorem State.wearBefore_congr {s t : State} (h : ∀ u, (t.unit? u).map (·.eraseCount) = (s.unit? u).map (·.eraseCount)) :
    t.wearBefore = s.wearBefore := by
  funext u v; simp only [State.wearBefore, h]

theorem State.wearBefore_irrefl (s : State) (u : Nat) : s.wearBefore u u = false := by
  simp [State.wearBefore]

/-- Of two units one comes before the other. -/
theorem State.wearBefore_total (s : State) (u v : Nat) (hn : u ≠ v) (h : s.wearBefore u v = false) : s.wearBefore v u = true := by
  simp only [State.wearBefore, decide_eq_false_iff_not, decide_eq_true_eq] at *; omega

theorem State.wearBefore_trans (s : State) (u v w : Nat) (h : s.wearBefore u v = true) (k : s.wearBefore v w = true) :
    s.wearBefore u w = true := by
  simp only [State.wearBefore, decide_eq_true_eq] at *; omega

/-- Free lists stay exact and in wear order where the lists, the FREE units and the erase counts stay. -/
theorem State.freeListsLegal_congr {s t : State} (h : s.FreeListsLegal) (hl : t.freeLists = s.freeLists)
    (hf : ∀ u, t.unitState u = some .free ↔ s.unitState u = some .free)
    (he : ∀ u, (t.unit? u).map (·.eraseCount) = (s.unit? u).map (·.eraseCount)) (hd : ∀ u, t.dieOf u = s.dieOf u) :
    t.FreeListsLegal := by
  intro d
  rw [hl, State.wearBefore_congr he]
  exact ⟨(h d).1, fun u => by rw [(h d).2, hf, hd]⟩

/-- The same where the unit table itself stays. -/
theorem State.freeListsLegal_of_only {s t : State} {fs : List Field} (h : s.FreeListsLegal) (ho : s.Only fs t)
    (hs : Field.units ∉ fs ∧ Field.freeLists ∉ fs ∧ Field.mgmt ∉ fs := by decide) : t.FreeListsLegal := by
  obtain ⟨hu, hf, hm⟩ := hs
  exact s.freeListsLegal_congr h (ho .freeLists hf) (fun u => by simp only [State.unitState, ho.unit? u hu])
    (fun u => by rw [ho.unit? u hu]) (fun u => ho.dieOf u hm)

/-- A unit stands once in its list. -/
theorem State.freeListsLegal_head_notMem {s : State} (h : s.FreeListsLegal) {d : DieId} {u : Nat} {rest : List Nat}
    (hl : s.freeLists.get d = u :: rest) : u ∉ rest := by
  have hp := (h d).1
  rw [hl] at hp
  intro hm
  have := (List.pairwise_cons.mp hp).1 u hm
  rw [s.wearBefore_irrefl] at this
  cases this

/-! ## A unit joins its list -/

theorem State.insertWear_perm (s : State) (u : Nat) (l : List Nat) : (s.insertWear u l).Perm (u :: l) := by
  induction l with
  | nil => exact .refl _
  | cons v vs ih =>
    unfold State.insertWear; split
    · exact .refl _
    · exact (ih.cons v).trans (.swap u v vs)

/-- A unit that is not yet in a list in wear order takes its wear position in it. -/
theorem State.insertWear_sorted (s : State) (u : Nat) (l : List Nat) (hu : u ∉ l)
    (h : l.Pairwise (fun u v => s.wearBefore u v = true)) : (s.insertWear u l).Pairwise (fun u v => s.wearBefore u v = true) := by
  induction l with
  | nil => exact List.pairwise_singleton _ _
  | cons v vs ih =>
    obtain ⟨hv, hvs⟩ := List.pairwise_cons.mp h
    unfold State.insertWear; split
    · next hb =>
        refine List.pairwise_cons.mpr ⟨fun w hw => ?_, h⟩
        rcases List.mem_cons.mp hw with rfl | hw
        · exact hb
        · exact s.wearBefore_trans u v w hb (hv w hw)
    · next hb =>
        refine List.pairwise_cons.mpr ⟨fun w hw => ?_, ih (fun hm => hu (.tail _ hm)) hvs⟩
        rcases List.mem_cons.mp ((s.insertWear_perm u vs).mem_iff.mp hw) with rfl | hw
        · exact s.wearBefore_total w v (fun e => hu (e ▸ .head _)) (by simpa using hb)
        · exact hv w hw

/-- What a unit that enters FREE does to the free lists (R13, R15). -/
theorem State.enterFree_freeLists (s : State) (u n : Nat) :
    (s.enterFree u n).freeLists = s.freeLists.modify (s.dieOf u) ((s.modUnit u (fun r => r.toFree n)).insertWear u) :=
  State.reportCounts_only _ u .freeLists (by decide)

theorem State.enterFree_units (s : State) (u n : Nat) : (s.enterFree u n).units = (s.modUnit u (fun r => r.toFree n)).units :=
  State.reportCounts_only _ u .units (by decide)

theorem State.enterFree_unit (s : State) (u n : Nat) (r : UnitRecord) (h : s.unit? u = some r) :
    (s.enterFree u n).unit? u = some (r.toFree n) := by
  rw [State.unit?, State.enterFree_units]
  exact (s.unit?_modUnit_self u _).trans (by rw [h]; rfl)

theorem State.enterFree_others (s : State) (u n : Nat) : s.OtherUnits u (s.enterFree u n) := fun v hv => by
  rw [State.unit?, State.enterFree_units]
  exact s.unit?_modUnit_ne u v _ hv

/-- The list of the unit's die gains the unit, and no other list changes. -/
theorem State.enterFree_perm (s : State) (u n : Nat) :
    ((s.enterFree u n).freeLists.get (s.dieOf u)).Perm (u :: s.freeLists.get (s.dieOf u)) ∧
    ∀ d, d ≠ s.dieOf u → (s.enterFree u n).freeLists.get d = s.freeLists.get d := by
  rw [State.enterFree_freeLists]
  exact ⟨by rw [Table.get_modify_self]; exact State.insertWear_perm _ _ _, fun d hd => Table.get_modify_ne _ _ _ _ hd⟩

/-- A unit that was not FREE and enters FREE leaves the free lists exact and in wear order (R16). -/
theorem State.enterFree_freeListsLegal (s : State) (u n : Nat) (r : UnitRecord) (hr : s.unit? u = some r) (hn : r.state ≠ .free)
    (h : s.FreeListsLegal) : (s.enterFree u n).FreeListsLegal := by
  let w := s.modUnit u (fun r => r.toFree n)
  have hu : ∀ d, u ∉ s.freeLists.get d := fun d hm => by
    have hf := (((h d).2 u).mp hm).1
    rw [State.unitState, hr, Option.map_some, Option.some_inj] at hf
    exact hn hf
  have hwear : (s.enterFree u n).wearBefore = w.wearBefore :=
    State.wearBefore_congr (fun v => by simp only [State.unit?, State.enterFree_units, w])
  have hdie : ∀ v, (s.enterFree u n).dieOf v = s.dieOf v := fun v => (s.enterFree_only u n).dieOf v
  have hself : (s.enterFree u n).unitState u = some .free := by rw [State.unitState, s.enterFree_unit u n r hr]; rfl
  have hother : ∀ v, v ≠ u → (s.enterFree u n).unitState v = s.unitState v := fun v hv => by
    rw [State.unitState, s.enterFree_others u n v hv]; rfl
  have sorted : ∀ d, (s.freeLists.get d).Pairwise (fun a b => w.wearBefore a b = true) := fun d =>
    (h d).1.imp_of_mem (fun {a b} ha hb hab => by
      have ne : ∀ v ∈ s.freeLists.get d, w.unit? v = s.unit? v := fun v hv => s.unit?_modUnit_ne u v _ (fun e => hu d (e ▸ hv))
      simpa only [State.wearBefore, ne a ha, ne b hb] using hab)
  obtain ⟨hperm, hrest⟩ := s.enterFree_perm u n
  intro d
  rw [hwear]
  by_cases hd : d = s.dieOf u
  · subst hd
    refine ⟨?_, fun v => ?_⟩
    · rw [State.enterFree_freeLists, Table.get_modify_self]
      exact w.insertWear_sorted u _ (hu _) (sorted _)
    · rw [hperm.mem_iff, List.mem_cons, (h _).2, hdie]
      by_cases hv : v = u
      · subst hv; simp [hself]
      · simp [hv, hother v hv]
  · rw [hrest d hd]
    refine ⟨sorted d, fun v => ?_⟩
    rw [(h d).2, hdie]
    by_cases hv : v = u
    · subst hv; simp [Ne.symm hd]
    · rw [hother v hv]

/-! ## A unit leaves its list -/

/-- The unit at the head of a list that is opened leaves the free lists exact and in wear order (R4, R16). -/
theorem State.freeListsLegal_tail {s t : State} (h : s.FreeListsLegal) (d : DieId) (u : Nat) (rest : List Nat)
    (hl : s.freeLists.get d = u :: rest) (ht : t.freeLists = s.freeLists.set d rest) (hu : t.unitState u ≠ some .free)
    (hf : ∀ v, v ≠ u → t.unitState v = s.unitState v)
    (he : ∀ v, (t.unit? v).map (·.eraseCount) = (s.unit? v).map (·.eraseCount)) (hd : ∀ v, t.dieOf v = s.dieOf v) :
    t.FreeListsLegal := by
  have hmem := State.freeListsLegal_head_notMem h hl
  have hdu : s.dieOf u = d := (((h d).2 u).mp (hl ▸ .head _)).2
  intro x
  rw [ht, State.wearBefore_congr he]
  by_cases hx : x = d
  · subst hx
    rw [Table.get_set_self]
    have hp := (h x).1
    have hm := (h x).2
    rw [hl] at hp hm
    refine ⟨(List.pairwise_cons.mp hp).2, fun v => ?_⟩
    by_cases hv : v = u
    · subst hv; simp [hmem, hu]
    · rw [hf v hv, hd, ← hm v, List.mem_cons]; simp [hv]
  · rw [Table.get_set_ne _ _ _ _ hx]
    refine ⟨(h x).1, fun v => ?_⟩
    rw [(h x).2, hd]
    by_cases hv : v = u
    · subst hv; simp [hdu, Ne.symm hx]
    · rw [hf v hv]

end Sys2Proof.Machine
end

section
/-!
PROOFS. SET_GEOMETRY (R20, R136, R171): the unit table and the free lists that it builds.
-/

namespace Sys2Proof.Machine

/-- The states in which a new geometry may be set (R171, check 1). -/
theorem State.mayRebuild_iff (s : State) : s.mayRebuild = true ↔ s.mgmt.device = .unconfigured ∨
    (s.mgmt.device = .halted ∧ (∀ st, (s.streams.get st).state = .closed) ∧ ∀ x ∈ s.units, x.state ≠ .reclaim) := by
  have hs : s.streams.items.all (fun r => decide (r.state = .closed)) = true ↔ ∀ st, (s.streams.get st).state = .closed := by
    simp only [List.all_eq_true, decide_eq_true_eq, Table.mem_items]
    exact ⟨fun h st => h _ ⟨st, rfl⟩, fun h x ⟨st, hx⟩ => hx ▸ h st⟩
  unfold State.mayRebuild
  cases hd : s.mgmt.device <;> simp [← hs]

/-- The ranges of a geometry (R171, check 2). -/
theorem Geometry.inRange_iff (g : Geometry) : g.inRange = true ↔ 1 ≤ g.dies ∧ g.dies ≤ 32 ∧ 64 ≤ g.bpd ∧ g.bpd ≤ 2048 ∧
    64 ≤ g.pages ∧ g.pages ≤ 1024 ∧ g.pages % 64 = 0 ∧ g.dies * g.bpd ≤ 32768 := by
  simp only [inRange, Bool.and_eq_true, decide_eq_true_eq, and_assoc]
  exact Iff.rfl

/-- The free list of a die holds the units of the die, and a die beyond the geometry has none (R20). -/
theorem Geometry.mem_freeList (g : Geometry) (d : DieId) (u : Nat) :
    u ∈ g.freeList d ↔ d.val < g.dies ∧ d.val * g.bpd ≤ u ∧ u < (d.val + 1) * g.bpd := by
  unfold freeList
  split
  · next h =>
      simp only [List.mem_map, List.mem_range, h, true_and, Nat.succ_mul]
      exact ⟨fun ⟨n, hn, e⟩ => by omega, fun ⟨h1, h2⟩ => ⟨u - d.val * g.bpd, by omega, by omega⟩⟩
  · next h => simp [h]

theorem Geometry.freeList_sorted (g : Geometry) (d : DieId) : (g.freeList d).Pairwise (· < ·) := by
  unfold freeList
  split
  · exact List.pairwise_map.mpr (List.pairwise_lt_range.imp (fun h => by omega))
  · exact .nil

/-- A unit of the new table lies on the die whose free list holds it (R2, R20). -/
theorem Geometry.dieOf_iff (g : Geometry) (hd : g.dies ≤ 32) (hb : 0 < g.bpd) (d : DieId) (u : Nat) :
    (d.val < g.dies ∧ d.val * g.bpd ≤ u ∧ u < (d.val + 1) * g.bpd) ↔ u < g.dies * g.bpd ∧ Fin.ofNat 32 (u / g.bpd) = d := by
  have hdiv : u / g.bpd = d.val ↔ d.val * g.bpd ≤ u ∧ u < (d.val + 1) * g.bpd := by
    rw [Nat.div_eq_iff hb, Nat.succ_mul]; omega
  rw [← hdiv]
  constructor
  · rintro ⟨h1, h2⟩
    exact ⟨(Nat.div_lt_iff_lt_mul hb).mp (h2 ▸ h1), Fin.ext (by simp [h2])⟩
  · rintro ⟨h1, h2⟩
    have hu : u / g.bpd < g.dies := (Nat.div_lt_iff_lt_mul hb).mpr h1
    have hv : u / g.bpd = d.val := by rw [← h2]; simp [Nat.mod_eq_of_lt (hu.trans_le hd)]
    exact ⟨hv ▸ hu, hv⟩

/-- The table that SET-GEOMETRY builds has every free list exact and in wear order (R16, R20). -/
theorem State.rebuild_freeListsLegal (s : State) (g : Geometry) (hd : g.dies ≤ 32) (hb : 0 < g.bpd) : (s.rebuild g).FreeListsLegal := by
  have hunit : ∀ u, (s.rebuild g).unit? u = if u < g.dies * g.bpd then some UnitRecord.blank else none := fun u => by
    simp [State.unit?, State.rebuild, List.getElem?_replicate]
  have hcount : ∀ u, (((s.rebuild g).unit? u).map (·.eraseCount)).getD 0 = 0 := fun u => by
    rw [hunit]; split <;> rfl
  have hlist : ∀ d, (s.rebuild g).freeLists.get d = g.freeList d := fun d => Table.get_tabulate _ d
  refine fun d => ⟨?_, fun u => ?_⟩
  · rw [hlist]
    exact (g.freeList_sorted d).imp (fun h => by simp [State.wearBefore, hcount, h])
  · rw [hlist, g.mem_freeList, g.dieOf_iff hd hb]
    refine and_congr ?_ Iff.rfl
    rw [State.unitState, hunit]
    split
    · next h => simp [h, UnitRecord.blank]
    · next h => simp [h]

/-- Settles O39: the two checks of R171 in their order, and the tables that `State.rebuild` makes. -/
theorem setGeometryRebuilds : Obligations.SetGeometryRebuilds := by
  unfold Obligations.SetGeometryRebuilds
  intro s hr q dies bpd pages allowed ranges
  let a := s.taken .management
  have he : exec .setGeometry s = .next (setGeometryRequest q a) :=
    exec_of_kind s .management kindSetGeometry setGeometryRequest _ rfl hr
  have hallowed : a.mayRebuild = true ↔ allowed := by
    rw [State.mayRebuild_iff, State.taken_mgmt, State.taken_streams, State.taken_units]
  have hranges : q.geometry.inRange = true ↔ ranges := q.geometry.inRange_iff
  refine ⟨fun h1 h2 => ?_, fun h1 h2 => onlyAnswered_of_exec (he.trans (congrArg _ ?_)), fun h1 => onlyAnswered_of_exec (he.trans (congrArg _ ?_))⟩
  · let b := a.rebuild ⟨dies, bpd, pages⟩
    have hb : q.answer b .ok (leBytes 2 (dies * bpd)) = setGeometryRequest q a := by
      rw [setGeometryRequest, if_pos (hallowed.mpr h1), if_pos (hranges.mpr h2)]; rfl
    have ha := Request.answer_only_management q rfl b .ok (leBytes 2 (dies * bpd)) []
    obtain ⟨-, hd, hbpd, -⟩ := h2
    have hlegal : b.FreeListsLegal := a.rebuild_freeListsLegal _ hd ((show 0 < 64 by decide).trans_le hbpd)
    have hlist : ∀ d, (q.answer b .ok (leBytes 2 (dies * bpd))).freeLists.get d = Geometry.freeList ⟨dies, bpd, pages⟩ d := fun d => by
      rw [ha .freeLists (by decide)]; exact Table.get_tabulate _ d
    have hdies := ha .dies (by decide)
    refine ⟨_, he.trans (congrArg _ hb.symm), s.answered b _ rfl rfl .ok _ [], ha .units (by decide), fun d u => ?_, fun d => ?_,
      State.freeListsLegal_of_only hlegal ha, fun g => ?_, ?_, fun d => ?_, ?_⟩
    · rw [hlist]; exact Geometry.mem_freeList _ d u
    · rw [hlist]; exact Geometry.freeList_sorted _ d
    · rw [ha .groups (by decide)]; exact Table.get_replicate _ g
    · rw [ha .mgmt (by decide), ← s.taken_mgmt .management]; rfl
    · have hrec : (q.answer b .ok (leBytes 2 (dies * bpd))).dies.get d = (a.dies.get d).rebuilt := by
        rw [hdies]; exact Table.get_map _ _ d
      rw [hrec]
      refine ⟨rfl, rfl, ?_, fun l => Table.get_replicate _ l, fun p => Table.get_replicate _ p⟩
      show (if (a.dies.get d).state = .faulted then DieState.idle else (a.dies.get d).state) ≠ .faulted
      split
      · simp
      · assumption
    · have hbo : a.Only [.units, .freeLists, .groups, .reclaim, .dies, .mgmt] b := fun f hf => by
        cases f <;> first | rfl | simp at hf
      exact ((s.taken_only_management.mono (by decide)).andThen hbo (gs := [.units, .freeLists, .groups, .reclaim, .dies, .mport, .mgmt])).andThen ha
  · rw [setGeometryRequest, if_pos (hallowed.mpr h1), if_neg (fun h => h2 (hranges.mp h))]
  · rw [setGeometryRequest, if_neg (fun h => h1 (hallowed.mp h))]

end Sys2Proof.Machine
end

section
/-!
PROOFS. ORDER_ISSUE (R10, R94, R95): the unit that moves, its order, and the notice that is written or waits.
-/

namespace Sys2Proof.Machine

/-- A table changed at one record is the table with that record set. -/
theorem Table.modify_eq_set {n : Nat} {α : Type} (t : Table n α) (i : Fin n) (f : α → α) : t.modify i f = t.set i (f (t.get i)) := rfl

/-- A table in which a record is set to what it holds already is as it was. -/
theorem Table.set_get {n : Nat} {α : Type} (t : Table n α) (i : Fin n) (x : α) (h : t.get i = x) : t.set i x = t := by
  refine Table.ext_get _ _ (fun j => ?_)
  rw [Table.get_set]
  split
  · next e => rw [← e, h]
  · rfl

/-! ## Order slots and records -/

theorem State.reclaimOf_modReclaim (s : State) (g : GroupId) (f : ReclaimRecord → ReclaimRecord) :
    (s.modReclaim g f).reclaimOf g = (s.reclaimOf g).map f := by
  simp only [State.reclaimOf, State.modReclaim_groups, Table.get_modify_self, Option.map_map]; rfl

/-- A change of a group's record that keeps its order slots keeps every order. -/
theorem State.order_modReclaim (s : State) (g : GroupId) (f : ReclaimRecord → ReclaimRecord) (hf : ∀ k, (f k).slots = k.slots)
    (r : NoticeRef) : (s.modReclaim g f).order r = s.order r :=
  (s.modReclaim_change 0 g f hf).order r

/-- An order slot of a configured group holds what is written into it. -/
theorem State.order_setOrder_self (s : State) (r : NoticeRef) (o : Option Order) (k : ReclaimRecord) (h : s.reclaimOf r.group = some k)
    (hl : r.slot.val < k.slots.length) : (s.setOrder r o).order r = o := by
  simp only [State.order, State.setOrder, State.reclaimOf_modReclaim, h, Option.map_some, Option.bind_some,
    List.getElem?_set_self hl, Option.join_some]

/-! ## The move to RECLAIM -/

/-- What the move of a unit to RECLAIM does (R10). -/
theorem State.moveToReclaim_unit (s : State) (u : Nat) (k : OrderSlotId) (x : UnitRecord) (h : s.unit? u = some x) :
    (s.moveToReclaim u k).unit? u = some { x with state := .reclaim, orderSlot := some k } := by
  unfold State.moveToReclaim
  rw [(State.reportCounts_only _ _).unit?, State.unit?_modUnit_self, h]; rfl

theorem State.moveToReclaim_change (s : State) (u : Nat) (k : OrderSlotId) : s.UnitChange u (s.moveToReclaim u k) :=
  (s.modUnit_change u _).trans (State.reportCounts_change _ u u)

/-- The move keeps the order slots of each group's record. -/
theorem State.UnitChange.reclaimOf {s t : State} {u : Nat} (h : s.UnitChange u t) (g : GroupId) (k : ReclaimRecord)
    (hk : s.reclaimOf g = some k) : ∃ k', t.reclaimOf g = some k' ∧ k'.slots = k.slots := by
  have hg := h.groups g
  unfold State.reclaimOf at hk ⊢
  obtain ⟨r, hr, rfl⟩ := Option.map_eq_some_iff.mp hk
  rw [hr] at hg
  obtain ⟨r', hr', he⟩ := Option.map_eq_some_iff.mp hg
  exact ⟨r'.reclaim, by rw [hr']; rfl, congrArg Prod.snd he⟩

/-! ## The notice of an order -/

/-- A notice waits where no notice slot of its port is free (R95, R158). -/
theorem State.offerNotice_waits (s : State) (p : MasterId) (r : NoticeRef) (h : s.noticePlace p = false) :
    s.offerNotice p r = s.modNotices p (· ++ [r]) := by
  have idle : ∀ (n : Nat) (t : State), t.noticePlace p = false → State.flushNotices n t p = t := fun n t ht => by
    induction n with
    | zero => rfl
    | succ n ih =>
      have : t.writeOldest p = t := by
        unfold State.writeOldest; split
        · rfl
        · simp [ht]
      rw [State.flushNotices, this, ih]
  exact idle _ _ h

/-- A notice that no other waits before is written where a notice slot is free (R95). -/
theorem State.offerNotice_written (s : State) (p : MasterId) (r : NoticeRef) (h : s.noticePlace p = true)
    (hw : s.reclaim.notices.get p = []) : s.offerNotice p r = s.writeNotice p r := by
  have hm : (s.modNotices p (· ++ [r])).reclaim.notices.get p = [r] := by simp [hw]
  have hplace : (s.modNotices p (· ++ [r])).noticePlace p = true := h
  have hback : (s.modNotices p (· ++ [r])).modNotices p (fun _ => []) = s := by
    have : (s.reclaim.notices.modify p (· ++ [r])).modify p (fun _ => []) = s.reclaim.notices := by
      refine Table.ext_get _ _ (fun j => ?_)
      by_cases hj : j = p
      · subst hj; rw [Table.get_modify_self, hw]
      · rw [Table.get_modify_ne _ _ _ _ hj, Table.get_modify_ne _ _ _ _ hj]
    simp only [State.modNotices, this]
  have hone : (s.modNotices p (· ++ [r])).writeOldest p = s.writeNotice p r := by
    simp only [State.writeOldest, hm, hplace, if_true, hback]
  show State.flushNotices 7 ((s.modNotices p (· ++ [r])).writeOldest p) p = _
  rw [hone]
  exact State.flushNotices_nil _ _ _ (by rw [s.writeNotice_only p r .reclaim (by decide)]; exact hw)

/-- The RELOCATE-ORDER notice of a PENDING order is written into the port's ring, and the order is ISSUED (R95). -/
theorem State.writeNotice_pending (s : State) (p : MasterId) (r : NoticeRef) (o : Order) (ho : s.order r = some o)
    (hp : o.phase = .pending) : s.writeNotice p r =
      (s.modRing (.master p) (fun q => q.writeRecord .notice (noticeRecord kindRelocateOrder
        (relocateOrderBody o r (((s.unit? o.unit).map (·.valid)).getD 0))) [])).setOrder r
          (some { o with phase := .issued s.orderTicks }) := by
  simp only [State.writeNotice, ho, hp]; rfl

/-! ## The order -/

/-- The state in which the notice of a new order is offered (R94). -/
def State.ordered (s : State) (g : GroupId) (k : OrderSlotId) (q : IssuePlan) : State :=
  let s := s.moveToReclaim q.unit k
  let number := s.reclaim.orderNumber
  let s := { s with reclaim := { s.reclaim with orderNumber := number + 1 } }
  let s := s.modReclaim g ReclaimRecord.toIdle
  s.setOrder ⟨g, k⟩ (some ⟨q.unit, q.tenant, q.target, q.port, number, .pending⟩)

theorem State.issueOrder_eq (s : State) (g : GroupId) (k : OrderSlotId) (q : IssuePlan) :
    s.issueOrder g k q = (s.ordered g k q).offerNotice q.port ⟨g, k⟩ := rfl

/-- What a new order does before its notice is offered (R10, R94). -/
theorem State.ordered_cases (s : State) (g : GroupId) (k : OrderSlotId) (q : IssuePlan) (x : UnitRecord) (r : ReclaimRecord)
    (hx : s.unit? q.unit = some x) (hr : s.reclaimOf g = some r) (hk : k.val < r.slots.length) :
    let t := s.ordered g k q
    t.unit? q.unit = some { x with state := .reclaim, orderSlot := some k } ∧ s.OtherUnits q.unit t ∧
    (t.reclaimOf g).map (·.search) = some .idle ∧
    t.reclaim = { s.reclaim with orderNumber := s.reclaim.orderNumber + 1 } ∧
    t.order ⟨g, k⟩ = some ⟨q.unit, q.tenant, q.target, q.port, s.reclaim.orderNumber, .pending⟩ ∧
    (∀ n, n ≠ ⟨g, k⟩ → t.order n = s.order n) ∧
    (∃ k', t.reclaimOf g = some k' ∧ k.val < k'.slots.length) ∧
    s.Only [.units, .groups, .reclaim] t := by
  intro t
  let a := s.moveToReclaim q.unit k
  let b : State := { a with reclaim := { a.reclaim with orderNumber := a.reclaim.orderNumber + 1 } }
  let c := b.modReclaim g ReclaimRecord.toIdle
  let o : Order := ⟨q.unit, q.tenant, q.target, q.port, a.reclaim.orderNumber, .pending⟩
  have ac := s.moveToReclaim_change q.unit k
  have areclaim : a.reclaim = s.reclaim := s.moveToReclaim_only q.unit k .reclaim (by decide)
  have ab : a.Only [.reclaim] b := a.setReclaim_only _
  have bc : b.Only [.groups] c := b.modReclaim_only g _
  have ct : c.Only [.groups] t := c.setOrder_only ⟨g, k⟩ (some o)
  have atounits : a.Only [.reclaim, .groups] t := (ab.mono (by decide)).andThen (bc.andThen ct)
  obtain ⟨r', hr', hslots⟩ := ac.reclaimOf g r hr
  have cr : c.reclaimOf g = some r'.toIdle := by rw [State.reclaimOf_modReclaim, show b.reclaimOf g = some r' from hr']; rfl
  have clen : k.val < r'.toIdle.slots.length := by rw [ReclaimRecord.toIdle_slots, hslots]; exact hk
  have tr : t.reclaimOf g = some { r'.toIdle with slots := r'.toIdle.slots.set k.val (some o) } := by
    exact (c.reclaimOf_modReclaim g _).trans (by rw [cr]; rfl)
  have corder : ∀ n, c.order n = s.order n := fun n =>
    (b.order_modReclaim g _ ReclaimRecord.toIdle_slots n).trans (ac.order n)
  refine ⟨?_, fun v hv => ?_, ?_, ?_, ?_, fun n hn => ?_, ⟨_, tr, ?_⟩, ?_⟩
  · rw [atounits.unit?]; exact s.moveToReclaim_unit q.unit k x hx
  · rw [atounits.unit?]; exact ac.others v hv
  · rw [tr]; rfl
  · rw [ct .reclaim (by decide), bc .reclaim (by decide)]
    show { a.reclaim with orderNumber := a.reclaim.orderNumber + 1 } = _
    rw [areclaim]
  · rw [← areclaim]; exact c.order_setOrder_self ⟨g, k⟩ (some o) _ cr clen
  · exact (c.order_setOrder_ne ⟨g, k⟩ n (some o) hn).trans (corder n)
  · simpa using clen
  · exact ((s.moveToReclaim_only q.unit k).mono (by decide)).andThen atounits

/-! ## ORDER-ISSUE -/

/-- Where orders may be issued, a checked candidate is issued its order, or its move is refused and the search goes IDLE (R94; log entry
31). -/
theorem exec_orderIssue (g : GroupId) (s : State) (k : ReclaimRecord) (slot : OrderSlotId) (v : Candidate) (hk : s.reclaimOf g = some k)
    (hc : k.chosen = some slot) (hv : k.candidate = some v) (hm : s.mayIssue = true) :
    (k.discard = true ∨ s.issuePlan v.unit = none → exec (.orderIssue g) s = .next (s.modReclaim g ReclaimRecord.toIdle)) ∧
    ∀ q, k.discard = false → s.issuePlan v.unit = some q → exec (.orderIssue g) s = .next (s.issueOrder g slot q) := by
  have he : exec (.orderIssue g) s = execOrderIssue g s := rfl
  constructor
  · rintro (h | h)
    · simp only [he, execOrderIssue, hk, hc, hv, hm, h, Bool.not_true, Bool.and_false, Bool.false_eq_true, if_false]
    · simp only [he, execOrderIssue, hk, hc, hv, hm, h]; split <;> rfl
  · intro q h hq
    simp only [he, execOrderIssue, hk, hc, hv, hm, h, hq, Bool.not_false, Bool.and_true, if_true]

/-- Settles O53: the plan of `State.issuePlan` exists exactly where the unit may move and has a route, and its order is offered to its port. -/
theorem orderIssueMovesUnit : Obligations.OrderIssueMovesUnit := by
  unfold Obligations.OrderIssueMovesUnit
  intro g s k slot v x hk hchosen hcand hissue hx hlen movable
  obtain ⟨refused, issued⟩ := exec_orderIssue g s k slot v hk hchosen hcand hissue
  have hmov : movable ↔ (x.movable && (s.youngOwner v.unit).isNone) = true := by
    simp only [movable, UnitRecord.movable, Bool.and_eq_true, decide_eq_true_eq, Option.isNone_iff_eq_none, State.youngOwner_eq_none, and_assoc]
  refine ⟨fun h => ⟨_, refused ?_, ?_, s.modReclaim_only g _⟩, ?_⟩
  · rcases h with h | h
    · right; simp only [State.issuePlan, hx, if_neg (fun e => h (hmov.mpr e))]
    · exact .inl h
  · rw [State.reclaimOf_modReclaim, hk]; rfl
  intro n target p hm hd hn hroute hport waiting order hwait
  have hplan : s.issuePlan v.unit = some ⟨v.unit, n, target, p⟩ := by
    simp only [State.issuePlan, hx, hmov.mp hm, if_true, hn, hroute, hport, Option.map_some]
  obtain ⟨ou, oothers, osearch, oreclaim, oorder, oorders, ⟨k', ok, olen⟩, oonly⟩ :=
    s.ordered_cases g slot ⟨v.unit, n, target, p⟩ x k hx hk hlen
  have he := issued _ hd hplan
  rw [State.issueOrder_eq] at he
  generalize s.ordered g slot ⟨v.unit, n, target, p⟩ = o at ou oothers osearch oreclaim oorder oorders ok olen oonly he
  have omasters : o.masters = s.masters := oonly .masters (by decide)
  have oplace : o.noticePlace p = s.noticePlace p := by simp only [State.noticePlace, omasters]
  refine ⟨_, he, ?_⟩
  cases hplace : s.noticePlace p with
  | false =>
    rw [o.offerNotice_waits p ⟨g, slot⟩ (oplace.trans hplace)]
    have hw := o.modNotices_only p (· ++ [(⟨g, slot⟩ : NoticeRef)])
    refine ⟨(hw.unit? _).trans ou, fun w hne => (hw.unit? w).trans (oothers w hne), osearch, ?_, oorders, fun _ => ⟨oorder, omasters⟩,
      by simp, (oonly.mono (by decide)).andThen hw⟩
    show { o.reclaim with notices := o.reclaim.notices.modify p (· ++ [(⟨g, slot⟩ : NoticeRef)]) } = _
    rw [oreclaim]; rfl
  | true =>
    have hnone : waiting = [] := hwait.resolve_right (by simp [hplace])
    rw [o.offerNotice_written p ⟨g, slot⟩ (oplace.trans hplace) (by rw [oreclaim]; exact hnone),
      o.writeNotice_pending p ⟨g, slot⟩ _ oorder rfl]
    let f : Ring → Ring := fun q => q.writeRecord .notice (noticeRecord kindRelocateOrder
      (relocateOrderBody (order .pending) ⟨g, slot⟩ x.valid)) []
    let w := o.modRing (.master p) f
    let last := some (order (.issued (max 1 s.limits.order)))
    have hlimits : o.limits = s.limits := oonly .limits (by decide)
    have hval : ((o.unit? v.unit).map (·.valid)).getD 0 = x.valid := by rw [ou]; rfl
    have ht : o.orderTicks = max 1 s.limits.order := by simp only [State.orderTicks, hlimits]
    rw [hval, ht]
    have wo : o.Only [.masters] w := o.modRingMaster_only p f
    have hw : o.Only [.groups, .masters] (w.setOrder ⟨g, slot⟩ last) := (wo.mono (by decide)).andThen (w.setOrder_only ⟨g, slot⟩ last)
    have hmasters : (w.setOrder ⟨g, slot⟩ last).masters = s.masters.modify p (fun m => { m with ring := f m.ring }) := by
      rw [← omasters]; rfl
    have hrecl : (w.setOrder ⟨g, slot⟩ last).reclaimOf g = some { k' with slots := k'.slots.set slot.val last } :=
      (w.reclaimOf_modReclaim g _).trans (by rw [show w.reclaimOf g = some k' from ok]; rfl)
    refine ⟨(hw.unit? _).trans ou, fun u hne => (hw.unit? u).trans (oothers u hne), ?_, ?_,
      fun r hr => (w.order_setOrder_ne ⟨g, slot⟩ r last hr).trans (oorders r hr), by simp,
      fun _ => ⟨w.order_setOrder_self ⟨g, slot⟩ last k' ok olen, fun u hu => ?_, ?_⟩, (oonly.mono (by decide)).andThen hw⟩
    · rw [hrecl]; rw [ok] at osearch; exact osearch
    · rw [hw .reclaim (by decide), oreclaim, if_pos rfl, Table.set_get _ _ _ hnone]
    · rw [hmasters, Table.get_modify_ne _ _ _ _ hu]
    · rw [hmasters, Table.get_modify_self]

end Sys2Proof.Machine
end

section
/-!
PROOFS. ERASE_COMPLETION and CHECK_COMPLETION (R8, R13, R15, R119, R120, R144): the completion that is matched, the die that goes on, the unit
that takes the outcome, and the examination that follows (R55).
-/

namespace Sys2Proof.Machine

/-! ## Completions that are matched -/

/-- A completion that names a sent descriptor and has a kind that the descriptor's kind allows is matched (R143). -/
theorem State.matchCompletion_names (s : State) (c : Completion) (e : TagEntry) (h : s.Names c e) (hk : e.kind.allows c.kind.toNat = true) :
    s.matchCompletion c = .matched e := by
  obtain ⟨hf, hp, hd⟩ := h
  simp [State.matchCompletion, hf, hp, hd, hk]

/-- A matched completion of its command's kinds is acted on with its tag taken off the table (R144). -/
theorem State.onCompletion_names (s : State) (c : Completion) (e : TagEntry) (kind : DescriptorKind) (kinds : List Nat)
    (act : TagEntry → State → State) (h : s.Names c e) (hk : e.kind = kind) (ha : kind.allows c.kind.toNat = true)
    (hm : c.kind.toNat ∈ kinds) : s.onCompletion c kind kinds act = .next (act e (s.takeMatched c e)) := by
  simp only [State.onCompletion, s.matchCompletion_names c e h (hk ▸ ha), hk, hm, and_self, if_true]

/-- The tag of a matched entry is the completion's. -/
theorem State.Names.tag {s : State} {c : Completion} {e : TagEntry} (h : s.Names c e) : e.tag = c.tag := by
  simpa using List.find?_some h.1

/-- The tag that a completion releases is outstanding no more (R144). -/
theorem State.takeMatched_tags (s : State) (c : Completion) (e : TagEntry) : ∀ y ∈ (s.takeMatched c e).link.tags, y.tag ≠ e.tag := by
  intro y hy
  have : (s.takeMatched c e).link.tags = s.link.tags.filter (fun x => decide (x.tag ≠ e.tag)) := by
    simp only [State.takeMatched]; split <;> rfl
  rw [this] at hy
  simpa using (List.mem_filter.mp hy).2

/-- The end of an erase on the link leaves no tag that was not there (R145, R146). -/
theorem Link.endErase_tags (l : Link) (d : DieId) (u : Nat) (y : TagEntry) (hy : y ∈ (l.endErase d u).tags) :
    ∃ x ∈ l.tags, x.tag = y.tag := by
  obtain ⟨x, hx, rfl⟩ := List.mem_map.mp hy
  refine ⟨x, (List.mem_filter.mp hx).1, ?_⟩
  split <;> rfl

/-! ## The die after its operation -/

/-- A die whose erase or check has ended with no program suspended on it: IDLE, its WAITING windows granted (R119, R120). -/
theorem State.dieAfterErase_idle (s : State) (d : DieId) (h : (s.dies.get d).suspendedProgram = none) :
    let t := s.dieAfterErase d
    (t.dies.get d).state = .idle ∧ (t.dies.get d).current = none ∧ (t.dies.get d).opTimer = none ∧ (t.dies.get d).heldErase = none ∧
    (∀ p pl, (t.dies.get d).windows.get p ≠ .waiting pl) ∧ s.OtherDies d t := by
  intro t
  let f : DieRecord → DieRecord := fun r => match r.suspendedProgram with
    | some k => { r with
        state := .program, current := some (.program k), suspendedProgram := none, purpose := none, programs := none, heldErase := none }
    | none => { r with state := .idle, current := none, purpose := none, programs := none, opTimer := none, heldErase := none }
  let a := s.modDie d f
  obtain ⟨others, self, windows⟩ := a.grantWindows_cases d
  have ht : t = a.grantWindows d := rfl
  have ha : a.dies.get d = { s.dies.get d with
      state := .idle, current := none, purpose := none, programs := none, opTimer := none, heldErase := none } := by
    simp [a, f, h]
  rw [ha] at self
  rw [ht]
  refine ⟨by rw [self], by rw [self], by rw [self], by rw [self], fun p pl hp => ?_, fun x hx => ?_⟩
  · obtain ⟨granted, kept⟩ := windows p
    cases hw : (a.dies.get d).windows.get p with
    | waiting pl' => rw [(granted pl' hw).1] at hp; cases hp
    | closed => rw [(kept (by simp [hw])).1, hw] at hp; cases hp
    | opened n => rw [(kept (by simp [hw])).1, hw] at hp; cases hp
  · rw [others x hx]; exact Table.get_modify_ne _ _ _ _ hx

/-- Where no die is SUSPENDED, none decides again (R123, R124). -/
theorem State.serveSuspended_none (s : State) (h : s.NoneSuspended) : s.serveSuspended = s := by
  have : s.dies.indices (fun r => decide (r.state = .suspended)) = [] := by
    simp only [Table.indices, List.filter_eq_nil_iff, decide_eq_true_eq]
    exact fun d _ => h d
  simp only [State.serveSuspended, this, List.foldl_nil]

/-! ## The examination of a freed unit -/

theorem State.groupOfUnit_of_only {s t : State} {fs : List Field} (h : s.Only fs t) (u : Nat) (hc : ∀ g, t.config g = s.config g)
    (hf : Field.mgmt ∉ fs := by decide) : t.groupOfUnit u = s.groupOfUnit u :=
  s.groupOfUnit_congr t u (congrArg Management.geometry (h .mgmt hf)) hc

/-- A unit that is not FREE calls for nothing (R55). -/
theorem State.examineFreed_other (m : State) (u : Nat) (h : m.unitState u ≠ some .free) : m.examineFreed u = m := by
  simp only [State.examineFreed, h, false_and, if_false]

/-- A unit that has become FREE has the waiting work of its group examined, unless the part is HALTED (R55). -/
theorem State.examineFreed_examines (s m : State) (u : Nat) (h : m.unitState u = some .free) (hm : m.mgmt = s.mgmt)
    (hg : m.groupOfUnit u = s.groupOfUnit u) (hs : ∀ st, (m.streams.get st).group = (s.streams.get st).group) :
    s.ExaminesFreed u m (m.examineFreed u) := by
  constructor
  · intro hd g hgu
    have : m.examineFreed u = m.examineWork (s.ofGroup g) := by
      have he : (fun st => decide ((m.streams.get st).group = some g)) = s.ofGroup g := by
        funext st; simp only [State.ofGroup, hs]
      simp [State.examineFreed, State.examineGroup, h, hm, hd, hg.trans hgu, he]
    rw [this]
    exact m.examineWork_examined _
  · rintro (hd | hn)
    · simp [State.examineFreed, hm, hd]
    · simp [State.examineFreed, hg, hn]

/-- Where no page waits for a place, a freed unit calls for nothing (R55). -/
theorem State.examineFreed_noWork (m : State) (u : Nat) (h : m.NoWork) : m.examineFreed u = m := by
  unfold State.examineFreed; split
  · split
    · exact m.examineWork_none _ (by rw [h.1]; simp) (fun e he hr => absurd hr (h.2 e he))
    · rfl
  · rfl

/-! ## The state that a completion leaves -/

/-- What the completion `c` of entry `e` has done in the state `m`, beside its outcome for the unit: the tag is released, the die is IDLE, and
the other dies keep their states (R119, R120, R144). -/
structure State.Ended (s : State) (c : Completion) (e : TagEntry) (m : State) : Prop where
  idle : (m.dies.get e.die).state = .idle
  noOperation : (m.dies.get e.die).current = none
  noTimer : (m.dies.get e.die).opTimer = none
  states : ∀ d, d ≠ e.die → (m.dies.get d).state = (s.dies.get d).state
  tags : ∀ y ∈ m.link.tags, y.tag ≠ c.tag
  config : ∀ g, m.config g = s.config g
  group : ∀ st, (m.streams.get st).group = (s.streams.get st).group
  only : s.Only [.units, .freeLists, .streams, .groups, .dies, .link, .masters] m

/-- The die goes on once the tag is off the table. -/
theorem State.dieAfterErase_ended (s a : State) (c : Completion) (e : TagEntry) (ha : s.Only [.link] a)
    (ht : ∀ y ∈ a.link.tags, y.tag ≠ c.tag) (h : (s.dies.get e.die).suspendedProgram = none) : s.Ended c e (a.dieAfterErase e.die) := by
  have hd : a.dies = s.dies := ha .dies (by decide)
  have hb := a.dieAfterErase_only e.die
  obtain ⟨idle, noOp, noTimer, -, -, others⟩ := a.dieAfterErase_idle e.die (by rw [hd]; exact h)
  refine ⟨idle, noOp, noTimer, fun d hne => by rw [others d hne, hd], ?_, fun g => ?_, fun st => ?_, (ha.mono (by decide)).andThen hb⟩
  · rw [hb .link (by decide)]; exact ht
  · simp only [State.config, show (a.dieAfterErase e.die).groups = s.groups from (hb .groups (by decide)).trans (ha .groups (by decide))]
  · rw [show (a.dieAfterErase e.die).streams = s.streams from (hb .streams (by decide)).trans (ha .streams (by decide))]

theorem State.Ended.unitChange {s b m : State} {c : Completion} {e : TagEntry} {u : Nat} (h : s.Ended c e b) (k : b.UnitChange u m) :
    s.Ended c e m where
  idle := by rw [k.dies]; exact h.idle
  noOperation := by rw [k.dies]; exact h.noOperation
  noTimer := by rw [k.dies]; exact h.noTimer
  states d hd := by rw [k.dies]; exact h.states d hd
  tags := by rw [k.only .link (by decide)]; exact h.tags
  config g := (k.config g).trans (h.config g)
  group st := by rw [k.streams]; exact h.group st
  only := h.only.andThen k.only

theorem State.enterFree_config (s : State) (u n : Nat) (g : GroupId) : (s.enterFree u n).config g = s.config g :=
  State.UnitChange.config (State.reportCounts_change _ u u) g

theorem State.Ended.enterFree {s b : State} {c : Completion} {e : TagEntry} (h : s.Ended c e b) (u n : Nat) :
    s.Ended c e (b.enterFree u n) := by
  have ho := b.enterFree_only u n
  have hd := ho .dies (by decide)
  have hl := ho .link (by decide)
  have hs := ho .streams (by decide)
  exact ⟨by rw [hd]; exact h.idle, by rw [hd]; exact h.noOperation, by rw [hd]; exact h.noTimer, fun d hne => by rw [hd]; exact h.states d hne,
    by rw [hl]; exact h.tags, fun g => (b.enterFree_config u n g).trans (h.config g), fun st => by rw [hs]; exact h.group st,
    h.only.andThen ho⟩

/-- The examination that a freed unit calls for (R55). -/
theorem State.Ended.examines {s m : State} {c : Completion} {e : TagEntry} (h : s.Ended c e m) (u : Nat)
    (hu : m.unitState u = some .free) : s.ExaminesFreed u m (m.examineFreed u) :=
  s.examineFreed_examines m u hu (h.only .mgmt (by decide)) (State.groupOfUnit_of_only h.only u h.config) h.group

/-- Where no page waits for a place and no die is SUSPENDED, nothing follows. -/
theorem State.Ended.rests {s m : State} {c : Completion} {e : TagEntry} (h : s.Ended c e m) (u : Nat) (hw : s.NoWork)
    (hs : s.NoneSuspended) : (m.examineFreed u).serveSuspended = m := by
  have hm : m.NoWork := by
    unfold State.NoWork
    rw [h.only .waiters (by decide), h.only .credit (by decide)]; exact hw
  rw [m.examineFreed_noWork u hm, m.serveSuspended_none (fun d => ?_)]
  by_cases hd : d = e.die
  · rw [hd, h.idle]; simp
  · rw [h.states d hd]; exact hs d

/-! ## Outcomes for the unit -/

/-- A change of one unit that neither was FREE nor becomes so keeps the free lists exact and in wear order (R16). -/
theorem State.UnitChange.freeListsLegal {s t : State} {u : Nat} {x y : UnitRecord} (h : s.UnitChange u t) (hx : s.unit? u = some x)
    (hy : t.unit? u = some y) (hxf : x.state ≠ .free) (hyf : y.state ≠ .free) (he : y.eraseCount = x.eraseCount)
    (hs : s.FreeListsLegal) : t.FreeListsLegal := by
  refine s.freeListsLegal_congr hs (h.only .freeLists (by decide)) (fun v => ?_) (fun v => ?_) (fun v => h.only.dieOf v)
  · by_cases hv : v = u
    · subst hv; simp [State.unitState, hx, hy, hxf, hyf]
    · simp only [State.unitState, h.others v hv]
  · by_cases hv : v = u
    · subst hv; simp [hx, hy, he]
    · rw [h.others v hv]

/-- A unit that is erased, or found blank, is as new but for its erase count (R13, R15, R20). -/
theorem UnitRecord.toFree_eq (x : UnitRecord) (n : Nat) : x.toFree n = { UnitRecord.blank with eraseCount := n } := rfl

/-! ## The two completions -/

/-- The state in which the die of an ended erase goes on: the tag is off the table, and the SUSPENDs and RESUMEs of the erase are dealt with
(R144, R145, R146). -/
def State.eraseTaken (s : State) (c : Completion) (e : TagEntry) : State :=
  { s.takeMatched c e with link := (s.takeMatched c e).link.endErase e.die e.unit }

theorem State.eraseTaken_only (s : State) (c : Completion) (e : TagEntry) : s.Only [.link] (s.eraseTaken c e) :=
  (s.takeMatched_only c e).andThen (State.setLink_only _ _)

theorem State.eraseTaken_tags (s : State) (c : Completion) (e : TagEntry) : ∀ y ∈ (s.eraseTaken c e).link.tags, y.tag ≠ e.tag := by
  intro y hy
  obtain ⟨z, hz, hzy⟩ := Link.endErase_tags _ _ _ y hy
  rw [← hzy]; exact s.takeMatched_tags c e z hz

/-- ERASE_COMPLETION of an erase with no program suspended behind it: the die goes on, and the unit takes the outcome (R119). -/
theorem exec_eraseCompletion (c : Completion) (s : State) (e : TagEntry) (hn : s.Names c e) (hk : e.kind = .erase)
    (hsus : (s.dies.get e.die).suspendedProgram = none) (hc : c.kind = 0 ∨ c.kind = 1) :
    ∃ b, exec (.eraseCompletion c) s =
        .next ((b.eraseOutcome e.unit (decide (c.kind.toNat = doneCode))).examineFreed e.unit).serveSuspended ∧
      s.Ended c e b ∧ s.Only [.dies, .link, .masters] b ∧ (b.dies.get e.die).heldErase = none ∧
      (∀ p pl, (b.dies.get e.die).windows.get p ≠ .waiting pl) ∧ s.OtherDies e.die b := by
  have ha := s.eraseTaken_only c e
  have hd : (s.eraseTaken c e).dies = s.dies := ha .dies (by decide)
  obtain ⟨-, -, -, held, windows, others⟩ := (s.eraseTaken c e).dieAfterErase_idle e.die (by rw [hd]; exact hsus)
  refine ⟨(s.eraseTaken c e).dieAfterErase e.die, ?_, s.dieAfterErase_ended _ c e ha (hn.tag ▸ s.eraseTaken_tags c e) hsus,
    (ha.mono (by decide)).andThen (State.dieAfterErase_only _ _), held, windows, fun d hne => by rw [others d hne, hd]⟩
  exact s.onCompletion_names c e .erase [doneCode, failCode] (fun e s => s.endErase e.die e.unit (decide (c.kind.toNat = doneCode))
    (fun l => l.endErase e.die e.unit)) hn hk (by rcases hc with h | h <;> rw [h] <;> rfl)
    (by rcases hc with h | h <;> rw [h] <;> simp [doneCode, failCode])

/-- CHECK_COMPLETION with no program suspended behind it: the die goes on, and the unit takes the outcome (R120). -/
theorem exec_checkCompletion (c : Completion) (s : State) (e : TagEntry) (hn : s.Names c e) (hk : e.kind = .check)
    (hsus : (s.dies.get e.die).suspendedProgram = none) (hc : c.kind = 1 ∨ c.kind = 3 ∨ c.kind = 4) :
    ∃ b, exec (.checkCompletion c) s = .next ((b.checkOutcome e.unit c.kind.toNat).examineFreed e.unit).serveSuspended ∧
      s.Ended c e b ∧ s.Only [.dies, .link, .masters] b := by
  have ha := s.takeMatched_only c e
  refine ⟨(s.takeMatched c e).dieAfterErase e.die, ?_, s.dieAfterErase_ended _ c e ha (hn.tag ▸ s.takeMatched_tags c e) hsus,
    (ha.mono (by decide)).andThen (State.dieAfterErase_only _ _)⟩
  exact s.onCompletion_names c e .check [failCode, blankCode, notBlankCode] (fun e s =>
    let s := (s.dieAfterErase e.die).checkOutcome e.unit c.kind.toNat
    (s.examineFreed e.unit).serveSuspended) hn hk (by rcases hc with h | h | h <;> rw [h] <;> rfl)
    (by rcases hc with h | h | h <;> rw [h] <;> simp [failCode, blankCode, notBlankCode])

/-- The outcome FREE of an erase or a check, in a state whose die has gone on (R13, R15). -/
theorem State.Ended.freed {s b : State} {c : Completion} {e : TagEntry} (h : s.Ended c e b) (bo : s.Only [.dies, .link, .masters] b)
    (u n : Nat) (x : UnitRecord) (hx : s.unit? u = some x) :
    let m := b.enterFree u n
    m.unit? u = some { UnitRecord.blank with eraseCount := n } ∧ s.OtherUnits u m ∧
    (m.freeLists.get (s.dieOf u)).Perm (u :: s.freeLists.get (s.dieOf u)) ∧
    (∀ d, d ≠ s.dieOf u → m.freeLists.get d = s.freeLists.get d) ∧
    (s.FreeListsLegal → x.state ≠ .free → m.FreeListsLegal) ∧ m.dies = b.dies ∧ s.Ended c e m ∧
    s.ExaminesFreed u m (m.examineFreed u) := by
  intro m
  have bx : b.unit? u = some x := (bo.unit? _).trans hx
  have mx : m.unit? u = some { UnitRecord.blank with eraseCount := n } := b.enterFree_unit u n x bx
  have mended := h.enterFree u n
  obtain ⟨perm, rest⟩ := b.enterFree_perm u n
  rw [bo.dieOf, bo .freeLists (by decide)] at perm rest
  exact ⟨mx, fun v hv => (b.enterFree_others u n v hv).trans (bo.unit? v), perm, rest,
    fun hl hne => b.enterFree_freeListsLegal u n x bx hne (State.freeListsLegal_of_only hl bo), b.enterFree_only u n .dies (by decide),
    mended, mended.examines u (by rw [State.unitState, mx]; rfl)⟩

/-- An outcome other than FREE, in a state whose die has gone on (R12, R13, R15). -/
theorem State.Ended.kept {s b m : State} {c : Completion} {e : TagEntry} (h : s.Ended c e b) (bo : s.Only [.dies, .link, .masters] b)
    {u : Nat} {x y : UnitRecord} (k : b.UnitChange u m) (hx : s.unit? u = some x) (my : m.unit? u = some y) (hy : y.state ≠ .free)
    (he : y.eraseCount = x.eraseCount) :
    s.OtherUnits u m ∧ m.freeLists = s.freeLists ∧ (s.FreeListsLegal → x.state ≠ .free → m.FreeListsLegal) ∧ s.Ended c e m ∧
    m.examineFreed u = m :=
  ⟨fun v hv => (k.others v hv).trans (bo.unit? v), (k.only .freeLists (by decide)).trans (bo .freeLists (by decide)),
    fun hl hne => k.freeListsLegal ((bo.unit? _).trans hx) my hne hy he (State.freeListsLegal_of_only hl bo), h.unitChange k,
    m.examineFreed_other u (by rw [State.unitState, my, Option.map_some, Ne, Option.some_inj]; exact hy)⟩

theorem State.eraseOutcome_cases (b : State) (u : Nat) (x : UnitRecord) (h : b.unit? u = some x) :
    b.eraseOutcome u true = b.enterFree u (min 65535 (x.eraseCount + 1)) ∧ b.eraseOutcome u false = b.enterRetired u := by
  constructor <;> simp only [State.eraseOutcome, h] <;> rfl

theorem State.checkOutcome_cases (b : State) (u : Nat) (x : UnitRecord) (h : b.unit? u = some x) :
    b.checkOutcome u 1 = b.enterRetired u ∧ b.checkOutcome u 3 = b.enterFree u x.eraseCount ∧ b.checkOutcome u 4 = b.enterErasing u := by
  refine ⟨?_, ?_, ?_⟩ <;> simp [State.checkOutcome, h, blankCode, notBlankCode]

/-- Settles O59: the outcome for the unit is FREE, where `State.Ended.freed` says what is left, or another state, where `State.Ended.kept` does. -/
theorem eraseAndCheckEnd : Obligations.EraseAndCheckEnd := by
  unfold Obligations.EraseAndCheckEnd
  constructor
  · intro c s e x hn hk hx hsus hc
    obtain ⟨b, he, hb, bo, held, windows, others⟩ := exec_eraseCompletion c s e hn hk hsus hc
    have bx : b.unit? e.unit = some x := (bo.unit? _).trans hx
    obtain ⟨onDone, onFail⟩ := b.eraseOutcome_cases e.unit x bx
    rcases hc with h | h <;> rw [h] at he ⊢
    · rw [show decide ((0 : Byte).toNat = doneCode) = true from rfl, onDone] at he
      obtain ⟨mx, mothers, perm, rest, legal, md, mended, examines⟩ := hb.freed bo e.unit (min 65535 (x.eraseCount + 1)) x hx
      refine ⟨b.enterFree e.unit (min 65535 (x.eraseCount + 1)), _, _, he, mx, mothers, fun _ => ⟨rfl, perm, rest⟩, by simp,
        mended.idle, mended.noOperation, mended.noTimer, md ▸ held, md ▸ windows, fun d hd => md ▸ others d hd,
        fun hl hxs => legal hl (by rw [hxs]; simp), mended.tags, mended.only, fun _ => examines, by simp, mended.rests e.unit⟩
    · rw [show decide ((1 : Byte).toNat = doneCode) = false from rfl, onFail] at he
      have mx := b.enterRetired_unit e.unit x bx
      obtain ⟨mothers, mlists, legal, mended, none⟩ := hb.kept bo (b.enterRetired_change e.unit) hx mx (by simp [UnitRecord.toRetired]) rfl
      have md : (b.enterRetired e.unit).dies = b.dies := b.enterRetired_only e.unit .dies (by decide)
      refine ⟨b.enterRetired e.unit, _, _, he, mx, mothers, by simp, fun _ => ⟨rfl, rfl, rfl, rfl, rfl, mlists⟩,
        mended.idle, mended.noOperation, mended.noTimer, md ▸ held, md ▸ windows, fun d hd => md ▸ others d hd,
        fun hl hxs => legal hl (by rw [hxs]; simp), mended.tags, mended.only, by simp, fun _ => none, mended.rests e.unit⟩
  · intro c s e x hn hk hx hsus hc
    obtain ⟨b, he, hb, bo⟩ := exec_checkCompletion c s e hn hk hsus hc
    have bx : b.unit? e.unit = some x := (bo.unit? _).trans hx
    obtain ⟨onFail, onBlank, onNotBlank⟩ := b.checkOutcome_cases e.unit x bx
    rcases hc with h | h | h <;> rw [h] at he ⊢
    · rw [show (1 : Byte).toNat = 1 from rfl, onFail] at he
      have mx := b.enterRetired_unit e.unit x bx
      obtain ⟨mothers, mlists, legal, mended, none⟩ := hb.kept bo (b.enterRetired_change e.unit) hx mx (by simp [UnitRecord.toRetired]) rfl
      refine ⟨b.enterRetired e.unit, _, _, he, mx, mothers, by simp, by simp, fun _ => ⟨rfl, rfl, mlists⟩,
        fun hl hxs => legal hl (by rw [hxs]; simp), mended.idle, mended.noOperation, mended.noTimer, mended.tags, mended.only, by simp,
        fun _ => none, mended.rests e.unit⟩
    · rw [show (3 : Byte).toNat = 3 from rfl, onBlank] at he
      obtain ⟨mx, mothers, perm, -, legal, -, mended, examines⟩ := hb.freed bo e.unit x.eraseCount x hx
      refine ⟨b.enterFree e.unit x.eraseCount, _, _, he, mx, mothers, fun _ => ⟨rfl, perm⟩, by simp, by simp,
        fun hl hxs => legal hl (by rw [hxs]; simp), mended.idle, mended.noOperation, mended.noTimer, mended.tags, mended.only,
        fun _ => examines, by simp, mended.rests e.unit⟩
    · rw [show (4 : Byte).toNat = 4 from rfl, onNotBlank] at he
      have mx := b.enterErasing_unit e.unit x bx
      rw [bo.plwAsserted] at mx
      have hs : (if s.plwAsserted then x.toErasing.toUnknown else x.toErasing).state = if s.plwAsserted then .unknown else .erasing := by
        split <;> rfl
      obtain ⟨mothers, mlists, legal, mended, none⟩ := hb.kept bo (b.enterErasing_change e.unit) hx mx
        (by rw [hs]; split <;> simp) (by split <;> rfl)
      refine ⟨b.enterErasing e.unit, _, _, he, mx, mothers, by simp, fun _ => ⟨hs, mlists⟩, by simp,
        fun hl hxs => legal hl (by rw [hxs]; simp), mended.idle, mended.noOperation, mended.noTimer, mended.tags, mended.only, by simp,
        fun _ => none, mended.rests e.unit⟩

end Sys2Proof.Machine
end

section
/-!
PROOFS. PLACE_PAGE where a unit is opened (R4, R36, R49 to R52): the position that is chosen, the unit that is opened, and the page it takes.
-/

namespace Sys2Proof.Machine

/-! ## The position -/

/-- The positions from one on are searched in ascending order, wrapping (R49). -/
theorem positionsFrom_find? (q : Position) (p : Position → Bool) :
    (∀ x, (positionsFrom q).find? p = some x → p x = true ∧ ∀ n : Position, n < x - q → ¬ p (q + n) = true) ∧
    ((positionsFrom q).find? p = none → ∀ x, ¬ p x = true) := by
  have hl : positionsFrom q = List.ofFn (fun k : Position => q + k) := (List.ofFn_eq_map (f := fun k : Position => q + k)).symm
  have hinj : Function.Injective (fun k : Position => q + k) := add_right_injective q
  constructor
  · intro x hx
    rw [hl, ← add_sub_cancel q x, List.find?_ofFn_eq_some_of_injective hinj] at hx
    simpa using hx
  · intro hn x
    have := List.find?_eq_none.mp hn (q + (x - q)) (List.mem_map.mpr ⟨x - q, List.mem_finRange _, rfl⟩)
    simpa using this

/-- The enabled positions of a stream whose group is configured (R23). -/
theorem State.enabledPositions_contains (s : State) (st : StreamId) (c : GroupConfig) (h : s.streamConfig st = some c) (q : Position) :
    (s.enabledPositions st).contains q = true ↔ c.first + q.val ≤ c.last ∧ (s.streams.get st).profile.mask.getLsbD q.val = true := by
  simp only [State.enabledPositions, h]
  simp

/-- Whether a position can take a page (R49, R51). -/
theorem State.canTake_iff (s : State) (st : StreamId) (c : GroupConfig) (kind : PlaceKind) (q : Position) :
    s.canTake st c kind q = true ↔ (s.dies.get (c.dieAt q)).state ≠ .faulted ∧
      ((s.streams.get st).slots.get q ≠ none ∨
        (s.freeLists.get (c.dieAt q) ≠ [] ∧ (kind = .freshHost → c.reserve < s.freeCount c))) := by
  have hopen : s.mayOpen c (c.dieAt q) kind = true ↔
      s.freeLists.get (c.dieAt q) ≠ [] ∧ (kind = .freshHost → c.reserve < s.freeCount c) := by
    cases kind <;> simp [State.mayOpen]
  rw [← hopen]
  simp [State.canTake, Option.isSome_iff_ne_none]

/-- The position that is found is the first from the cursor on that is enabled and can take the page (R50). -/
theorem State.findPosition_cases (s : State) (st : StreamId) (c : GroupConfig) (kind : PlaceKind) :
    let can := fun q => (s.enabledPositions st).contains q = true ∧ s.canTake st c kind q = true
    (∀ q, s.findPosition st c kind = some q →
      can q ∧ ∀ n : Position, n < q - (s.streams.get st).cursor → ¬ can ((s.streams.get st).cursor + n)) ∧
    (s.findPosition st c kind = none → ∀ q, ¬ can q) := by
  have key := positionsFrom_find? (s.streams.get st).cursor (fun q => (s.enabledPositions st).contains q && s.canTake st c kind q)
  simp only [Bool.and_eq_true] at key
  exact key

/-- The next enabled position after an enabled one (R50). -/
theorem State.nextEnabled_cases (s : State) (st : StreamId) (q : Position) (h : (s.enabledPositions st).contains q = true) :
    (s.enabledPositions st).contains (s.nextEnabled st q) = true ∧
    ∀ n : Position, n < s.nextEnabled st q - (q + 1) → ¬ (s.enabledPositions st).contains (q + 1 + n) = true := by
  obtain ⟨found, absent⟩ := positionsFrom_find? (q + 1) (fun x => (s.enabledPositions st).contains x)
  unfold State.nextEnabled
  cases hf : (positionsFrom (q + 1)).find? (fun x => (s.enabledPositions st).contains x) with
  | none => exact absurd h (absent hf q)
  | some x => exact found x hf

/-! ## Opening a unit -/

/-- What opening the head unit of a die's free list does (R4, R51). -/
theorem State.openUnit_cases (s : State) (st : StreamId) (q : Position) (d : DieId) (v : Nat) (rest : List Nat) (u : UnitRecord)
    (hl : s.freeLists.get d = v :: rest) (hu : s.unit? v = some u) :
    let t := s.openUnit st q d
    t.freeLists = s.freeLists.set d rest ∧
    t.unit? v = some { u.toFree u.eraseCount with state := .opened, tenant := some (s.streams.get st).tenant, owner := some st } ∧
    s.OtherUnits v t ∧
    t.streams = s.streams.modify st (fun r => { r with slots := r.slots.set q (some ⟨v, 0, 0, false⟩) }) := by
  intro t
  let f : UnitRecord → UnitRecord := fun r =>
    { r.toFree r.eraseCount with state := .opened, tenant := some (s.streams.get st).tenant, owner := some st }
  let a := ({ s with freeLists := s.freeLists.set d rest } : State).modUnit v f
  let b := a.modStream st (fun r => { r with slots := r.slots.set q (some ⟨v, 0, 0, false⟩) })
  have ht : t = (b.reportCounts v).callSpace (fun x => decide (x = st)) := by
    show s.openUnit st q d = _
    simp only [State.openUnit, hl]; rfl
  have bo : b.Only [.groups, .credit] t :=
    ht ▸ ((b.reportCounts_only v).mono (by decide)).andThen (State.callSpace_only _ _)
  have ao : a.Only [.streams, .groups, .credit] t := ((a.modStream_only st _).mono (by decide)).andThen bo
  refine ⟨bo .freeLists (by decide), ?_, fun w hw => ?_, bo .streams (by decide)⟩
  · rw [ao.unit?, State.unit?_modUnit_self]
    show (s.unit? v).map f = _
    rw [hu]; rfl
  · rw [ao.unit?, State.unit?_modUnit_ne _ _ _ _ hw]; rfl

/-! ## Taking a page -/

/-- A unit's record without its suspend count, which a trigger may raise (R121). -/
def UnitRecord.unsuspended (r : UnitRecord) : UnitRecord := { r with suspendCount := none }

/-- What does not read the suspend count is the same in records that differ in it alone. -/
theorem map_of_unsuspended {α : Type} {a b : Option UnitRecord} (h : a.map UnitRecord.unsuspended = b.map UnitRecord.unsuspended)
    (g : UnitRecord → α) (hg : ∀ r, g r.unsuspended = g r) : a.map g = b.map g := by
  have key : ∀ o : Option UnitRecord, o.map g = (o.map UnitRecord.unsuspended).map g := fun o => by
    cases o <;> simp [hg]
  rw [key a, key b, h]

/-- A trigger changes no unit but in its suspend count. -/
theorem State.trigger_unit (s : State) (d : DieId) (o : Bool) (v : Nat) :
    ((s.trigger d o).unit? v).map UnitRecord.unsuspended = (s.unit? v).map UnitRecord.unsuspended := by
  unfold State.trigger; dsimp only
  split
  · split
    · rfl
    · next u _ =>
      split
      · split
        · let f : UnitRecord → UnitRecord := fun r => { r with suspendCount := some (r.suspendCount.getD 0 + 1) }
          have hm : (s.suspendToServe d u).unit? v = (s.modUnit u f).unit? v :=
            ((State.modDie_only _ d _).mono (gs := [.dies, .link]) (by decide) |>.andThen (State.handOver_only _ _ _ _ _)).unit? v
          rw [hm]
          by_cases hv : v = u
          · subst hv
            rw [State.unit?_modUnit_self, Option.map_map]; rfl
          · rw [State.unit?_modUnit_ne _ _ _ _ hv]
        · rw [(s.joinWaiting_only d).unit?]
      · rfl
  · rfl

theorem State.pageTrigger_unit (s : State) (d : DieId) (k : PageKey) (v : Nat) :
    ((s.pageTrigger d k).unit? v).map UnitRecord.unsuspended = (s.unit? v).map UnitRecord.unsuspended := by
  unfold State.pageTrigger; split
  · exact s.trigger_unit d false v
  · rfl

theorem State.moveCursor_streams (s : State) (st : StreamId) (q : Position) :
    (∀ x, x ≠ st → (s.moveCursor st q).streams.get x = s.streams.get x) ∧
    ((s.moveCursor st q).streams.get st).slots = (s.streams.get st).slots := by
  constructor
  · intro x hx; simp [State.moveCursor, hx]
  · simp only [State.moveCursor, State.modStream_streams, Table.get_modify_self]
    cases (s.streams.get st).profile.mode <;> rfl

/-- A page taken from a unit that it does not fill (R50, R52). -/
theorem State.takePage_notFull (s : State) (st : StreamId) (c : GroupConfig) (q : Position) (x : WriteContext) (page : Nat)
    (o : OpenSlot) (u : UnitRecord) (ho : (s.streams.get st).slots.get q = some o) (hu : s.unit? o.unit = some u)
    (hfull : u.writePointer + 1 ≠ s.pages) :
    let t := s.takePage st c q x page
    (t.unit? o.unit).map UnitRecord.unsuspended = some { u with writePointer := u.writePointer + 1 }.unsuspended ∧
    (∀ v, v ≠ o.unit → (t.unit? v).map UnitRecord.unsuspended = (s.unit? v).map UnitRecord.unsuspended) ∧
    (t.streams.get st).slots.get q = some { o with allocated := o.allocated + 1, idle := 0, sealDue := false } ∧
    s.OtherStreams st t ∧
    t.pool = s.pool ++ [⟨⟨x.id, page⟩, ⟨o.unit, u.writePointer⟩, c.dieAt q, s.levelFor st c x.cls, x.handle + BitVec.ofNat 32 page⟩] ∧
    s.Only [.units, .streams, .contexts, .pool, .dies, .link] t := by
  intro t
  let a := s.modUnit o.unit (fun r => { r with writePointer := r.writePointer + 1 })
  let slot : OpenSlot := { o with allocated := o.allocated + 1, idle := 0, sealDue := false }
  let b := a.modStream st (fun r => { r with slots := r.slots.set q (some slot) })
  let key : PageKey := ⟨o.unit, u.writePointer⟩
  let level := s.levelFor st c x.cls
  let entry : PoolEntry := ⟨⟨x.id, page⟩, key, c.dieAt q, level, x.handle + BitVec.ofNat 32 page⟩
  let address : PageAddress := ⟨c.dieAt q, s.blockOf o.unit, u.writePointer⟩
  let e : State := { b with pool := b.pool ++ [entry] }
  let f := (e.modPage ⟨x.id, page⟩ (fun p => { p with outcome := .allocated, address := some address })).modDie (c.dieAt q)
    (fun r => { r with backlogs := r.backlogs.modify level (· ++ [key]) })
  let g := f.moveCursor st q
  have hwp : ((s.unit? o.unit).map (·.writePointer)).getD 0 = u.writePointer := by rw [hu]; rfl
  let h := g.pageTrigger (c.dieAt q) key
  have ao : a.Only [.streams, .contexts, .pool, .dies] g :=
    (((((State.Only.refl a _).andThen (a.modStream_only st _)).andThen (b.setPool_only _)).andThen (State.modPage_only e _ _)).andThen
      (State.modDie_only _ _ _)).andThen (f.moveCursor_only st q)
  have gh := g.pageTrigger_only (c.dieAt q) key
  have only : s.Only [.units, .streams, .contexts, .pool, .dies, .link] h :=
    (((s.modUnit_only o.unit _).mono (by decide)).andThen ao).andThen gh
  have ht : t = h := by
    show s.takePage st c q x page = h
    simp only [State.takePage, ho, hwp]
    exact if_neg (fun hf => hfull (hf.trans only.pages))
  have bst : b.streams.get st = { s.streams.get st with slots := (s.streams.get st).slots.set q (some slot) } := by
    simp [b, a]
  have gstreams := f.moveCursor_streams st q
  have hstreams : h.streams = g.streams := gh .streams (by decide)
  rw [ht]
  refine ⟨?_, fun v hv => ?_, ?_, fun y hy => ?_, ?_, only⟩
  · rw [g.pageTrigger_unit, ao.unit?, State.unit?_modUnit_self, hu]; rfl
  · rw [g.pageTrigger_unit, ao.unit?, State.unit?_modUnit_ne _ _ _ _ hv]
  · rw [hstreams, gstreams.2]
    show (b.streams.get st).slots.get q = _
    rw [bst, Table.get_set_self]
  · rw [hstreams, gstreams.1 y hy]
    show b.streams.get y = _
    rw [State.modStream_streams, Table.get_modify_ne _ _ _ _ hy]; rfl
  · rw [gh .pool (by decide)]; rfl

/-! ## PLACE-PAGE -/

/-- PLACE_PAGE where no profile is pending, no seal is due and a position is found (R48, R50). -/
theorem exec_placePage_found (st : StreamId) (cls : WriteClass) (s : State) (x : WriteContext) (c : GroupConfig) (k : Position)
    (hh : s.headContext st cls = some x) (hm : s.mayPlaceFresh st x = true) (hp : (s.streams.get st).pendingProfile = none)
    (hd : s.NoSealDue st) (hc : s.streamConfig st = some c) (hf : s.findPosition st c (freshKind x.cls) = some k)
    (hk : (s.streams.get st).slots.get k = none) :
    exec (.placePage st cls) s =
      .next (((s.openUnit st k (c.dieAt k)).takePage st c k x x.nextFresh).afterFresh st x).serveSuspended := by
  have ha : s.applyPending st = s := by simp only [State.applyPending, hp]
  have ht : s.tryPlace st (freshKind x.cls) x x.nextFresh =
      some ((s.openUnit st k (c.dieAt k)).takePage st c k x x.nextFresh) := by
    simp only [State.tryPlace, hc, hf, hk]; rfl
  show execPlacePage st cls s = _
  simp only [execPlacePage, s.settleSlots_none st hd, hh, hm, if_true, State.attemptFresh, ha, ht]

/-- Settles O29: the rules of the position, the level and the cursor, and the page that opens a unit. -/
theorem placePageOpensUnit : Obligations.PlacePageOpensUnit := by
  unfold Obligations.PlacePageOpensUnit
  constructor
  · intro s st c kind hc r can cursor
    have henabled : ∀ q, (s.enabledPositions st).contains q = true ↔ _ := s.enabledPositions_contains st c hc
    have hcan : ∀ q, (s.enabledPositions st).contains q = true ∧ s.canTake st c kind q = true ↔ can q := fun q => by
      rw [henabled, State.canTake_iff, and_assoc]
    obtain ⟨found, absent⟩ := s.findPosition_cases st c kind
    simp only [hcan] at found absent
    refine ⟨found, absent, ⟨rfl, ?_⟩, ?_⟩
    · show c.relocLevel.getD _ = _
      cases c.relocLevel <;> rfl
    · intro enabled q hq
      have next := s.nextEnabled_cases st q ((henabled q).mpr hq)
      simp only [henabled] at next
      exact next
  · intro st cls s x c k v rest u hh hm hp hd hc hf hk hl hu hpages
    have he := exec_placePage_found st cls s x c k hh hm hp hd hc hf hk
    have oo := s.openUnit_only st k (c.dieAt k)
    obtain ⟨ofree, ou, oothers, ostreams⟩ := s.openUnit_cases st k (c.dieAt k) v rest u hl hu
    generalize s.openUnit st k (c.dieAt k) = o at he oo ofree ou oothers ostreams
    have ost : o.streams.get st = { s.streams.get st with slots := (s.streams.get st).slots.set k (some ⟨v, 0, 0, false⟩) } := by
      rw [ostreams, Table.get_modify_self]
    obtain ⟨tu, tothers, tslot, tstreams, tpool, tonly⟩ := o.takePage_notFull st c k x x.nextFresh ⟨v, 0, 0, false⟩ _
      (by rw [ost, Table.get_set_self]) ou (by rw [oo.pages]; show 0 + 1 ≠ s.pages; omega)
    generalize o.takePage st c k x x.nextFresh = t at he tu tothers tslot tstreams tpool tonly
    have fo := (t.afterFresh_only st x).mono (gs := [.contexts, .lines, .credit, .dies, .link]) (by decide) |>.andThen
      (State.serveSuspended_only (t.afterFresh st x))
    generalize (t.afterFresh st x).serveSuspended = w at he fo
    have hlevel : o.levelFor st c x.cls = s.levelFor st c x.cls := by
      cases hx : x.cls <;> simp only [State.levelFor, ost]
    have only : s.Only [.units, .freeLists, .streams, .contexts, .lines, .pool, .credit, .groups, .dies, .link] w :=
      ((oo.mono (by decide)).andThen tonly).andThen fo
    have wu : ∀ y, w.unit? y = t.unit? y := fun y => fo.unit? y
    have wothers : ∀ y, y ≠ v → (w.unit? y).map UnitRecord.unsuspended = (s.unit? y).map UnitRecord.unsuspended := fun y hy => by
      rw [wu, tothers y hy, oothers y hy]
    have wself : ∀ {α : Type} (g : UnitRecord → α), (∀ r, g r.unsuspended = g r) → (w.unit? v).map g = some (g
        { u.toFree u.eraseCount with
          state := .opened, tenant := some (s.streams.get st).tenant, owner := some st, writePointer := 0 + 1 }) := fun g hg => by
      rw [wu]; exact map_of_unsuspended (b := some _) tu g hg
    have wlists : w.freeLists = s.freeLists.set (c.dieAt k) rest :=
      (fo .freeLists (by decide)).trans ((tonly .freeLists (by decide)).trans ofree)
    refine ⟨w, he, wlists, wself _ (fun _ => rfl), wself _ (fun _ => rfl), ?_, fun hlegal => ?_, ?_, fun y hy => ?_, only⟩
    · rw [fo .streams (by decide), tslot]
    · refine State.freeListsLegal_tail hlegal (c.dieAt k) v rest hl wlists ?_ (fun y hy => ?_) (fun y => ?_) (fun y => only.dieOf y)
      · rw [State.unitState, wself _ (fun _ => rfl)]; simp
      · exact map_of_unsuspended (wothers y hy) _ (fun _ => rfl)
      · by_cases hy : y = v
        · rw [hy, wself _ (fun _ => rfl), hu]; rfl
        · exact map_of_unsuspended (wothers y hy) _ (fun _ => rfl)
    · rw [fo .pool (by decide), tpool, hlevel, oo .pool (by decide)]; rfl
    · rw [fo .streams (by decide), tstreams y hy, ostreams, Table.get_modify_ne _ _ _ _ hy]

end Sys2Proof.Machine
end

section
/-!
PROOFS. PROGRAM_FAIL (R6, R9, R63, R64, R118): the unit that fails, the pages that are withdrawn from it, the re-placement list that they join,
and the die that goes on.
-/

namespace Sys2Proof.Machine

/-! ## Page records -/

/-- The record of a page of a request (R43), where the request has that page. -/
def State.page? (s : State) (r : PageRef) : Option PageRecord := (s.context r.ctx).bind (fun x => x.pages[r.page]?)

theorem State.Only.context {s t : State} {fs : List Field} (h : s.Only fs t) (c : ContextId) (hf : Field.contexts ∉ fs := by decide) :
    t.context c = s.context c := congrArg (List.find? (fun x : WriteContext => decide (x.id = c))) (h .contexts hf)

theorem State.Only.page? {s t : State} {fs : List Field} (h : s.Only fs t) (r : PageRef) (hf : Field.contexts ∉ fs := by decide) :
    t.page? r = s.page? r := by rw [State.page?, h.context r.ctx hf]; rfl

/-- A change of a request's context that keeps its name is seen in that request alone. -/
theorem State.context_modContext (s : State) (c d : ContextId) (f : WriteContext → WriteContext) (hf : ∀ x, (f x).id = x.id) :
    (s.modContext c f).context d = if d = c then (s.context d).map f else s.context d := by
  have hid : (fun x : WriteContext => decide (x.id = d)) ∘ (fun x => if x.id = c then f x else x) = fun x => decide (x.id = d) := by
    funext x
    simp only [Function.comp_apply]
    split <;> simp [hf]
  simp only [State.context, State.modContext_contexts, List.find?_map, hid]
  cases h : s.contexts.find? (fun x => decide (x.id = d)) with
  | none => simp
  | some x =>
    have hx : x.id = d := by simpa using List.find?_some h
    simp only [Option.map_some, hx]
    split <;> rfl

theorem State.page?_modPage_self (s : State) (r : PageRef) (f : PageRecord → PageRecord) : (s.modPage r f).page? r = (s.page? r).map f := by
  unfold State.page? State.modPage
  rw [State.context_modContext _ _ _ _ (by simp), if_pos rfl]
  cases s.context r.ctx <;> simp

theorem State.page?_modPage_ne (s : State) (r q : PageRef) (f : PageRecord → PageRecord) (h : q ≠ r) : (s.modPage r f).page? q = s.page? q := by
  unfold State.page? State.modPage
  rw [State.context_modContext _ _ _ _ (by simp)]
  split
  · next hc =>
      have hp : r.page ≠ q.page := fun e => h (by cases q; cases r; simp_all)
      cases s.context q.ctx <;> simp [hp]
  · rfl

theorem State.failed_modPage (s : State) (r : PageRef) (f : PageRecord → PageRecord) (c : ContextId) :
    ((s.modPage r f).context c).map (·.failed) = (s.context c).map (·.failed) := by
  unfold State.modPage
  rw [State.context_modContext _ _ _ _ (by simp)]
  split
  · cases s.context c <;> rfl
  · rfl

/-! ## The retry rule -/

/-- A page that has failed fewer than twice counts a retry and waits to be placed again; one that has failed twice is FAILED (R64). -/
theorem State.failPage_cases (s : State) (r : PageRef) (p : PageRecord) (x : WriteContext) (hp : s.page? r = some p)
    (hx : s.context r.ctx = some x) :
    (p.retries < 2 → (s.failPage r).page? r = some { p with outcome := .unplaced, retries := p.retries + 1 } ∧
      ((s.failPage r).context r.ctx).map (·.failed) = some x.failed) ∧
    (2 ≤ p.retries → (s.failPage r).page? r = some { p with outcome := .failed } ∧
      ((s.failPage r).context r.ctx).map (·.failed) = some (x.failed + 1)) ∧
    ∀ q, q ≠ r → (s.failPage r).page? q = s.page? q := by
  have hp' : (s.context r.ctx).bind (fun x => x.pages[r.page]?) = some p := hp
  let g : PageRecord → PageRecord := fun p => { p with outcome := .failed }
  let f : WriteContext → WriteContext := fun x => { x with failed := x.failed + 1 }
  have counted : ∀ q, ((s.modPage r g).modContext r.ctx f).page? q = (s.modPage r g).page? q := fun q => by
    unfold State.page?
    rw [State.context_modContext _ _ _ f (fun _ => rfl)]
    split
    · cases (s.modPage r g).context q.ctx <;> rfl
    · rfl
  by_cases hr : p.retries < 2
  · have he : s.failPage r = s.modPage r (fun p => { p with outcome := .unplaced, retries := p.retries + 1 }) := by
      simp only [State.failPage, hp']; exact if_pos hr
    rw [he]
    refine ⟨fun _ => ⟨?_, ?_⟩, fun h => absurd hr (by omega), fun q hq => s.page?_modPage_ne r q _ hq⟩
    · rw [State.page?_modPage_self, hp]; rfl
    · rw [State.failed_modPage, hx]; rfl
  · have he : s.failPage r = (s.modPage r g).modContext r.ctx f := by
      simp only [State.failPage, hp']; exact if_neg hr
    rw [he]
    refine ⟨fun h => absurd h hr, fun _ => ⟨?_, ?_⟩, fun q hq => (counted q).trans (s.page?_modPage_ne r q _ hq)⟩
    · rw [counted, State.page?_modPage_self, hp]; rfl
    · have := s.failed_modPage r g r.ctx
      rw [State.context_modContext _ _ _ f (fun _ => rfl), if_pos rfl, Option.map_map]
      rw [hx] at this
      obtain ⟨y, hy, hyf⟩ := Option.map_eq_some_iff.mp this
      rw [hy]
      exact congrArg (fun n => some (n + 1)) hyf

/-! ## The pages that are withdrawn -/

/-- The pages of some pool entries are withdrawn (R63): each entry leaves the pool, and its page is UNPLACED. -/
def State.withdraw (s : State) (l : List PoolEntry) : State :=
  l.foldl (fun s x => (s.freeEntry x).modPage x.ref (fun p => { p with outcome := .unplaced })) s

theorem State.freeEntry_pool (s : State) (e : PoolEntry) : (s.freeEntry e).pool = s.pool.filter (fun x => decide (x.key ≠ e.key)) := rfl

theorem State.freeEntry_dies (s : State) (e : PoolEntry) (d : DieId) :
    (s.freeEntry e).dies.get d = { s.dies.get d with backlogs := ((s.freeEntry e).dies.get d).backlogs } := by
  by_cases hd : d = e.die
  · subst hd; simp [State.freeEntry]
  · simp [State.freeEntry, hd]

/-- What a withdrawal does: the entries leave the pool, their pages are UNPLACED with no retry counted, and backlogs alone change on the dies
(R63). -/
theorem State.withdraw_cases (s : State) (l : List PoolEntry) :
    let t := s.withdraw l
    t.pool = s.pool.filter (fun y => decide (∀ x ∈ l, y.key ≠ x.key)) ∧
    (∀ r g, s.page? r = some g → (∃ x ∈ l, x.ref = r) → t.page? r = some { g with outcome := .unplaced }) ∧
    (∀ r, (∀ x ∈ l, x.ref ≠ r) → t.page? r = s.page? r) ∧
    (∀ c, (t.context c).map (·.failed) = (s.context c).map (·.failed)) ∧
    (∀ d, t.dies.get d = { s.dies.get d with backlogs := (t.dies.get d).backlogs }) ∧
    s.Only [.contexts, .pool, .dies] t := by
  induction l generalizing s with
  | nil => exact ⟨by simp [State.withdraw], by simp, fun _ _ => rfl, fun _ => rfl, fun _ => rfl, .refl s _⟩
  | cons x l ih =>
    let f : PageRecord → PageRecord := fun p => { p with outcome := .unplaced }
    let m := (s.freeEntry x).modPage x.ref f
    have fo := s.freeEntry_only x
    have mo : s.Only [.contexts, .pool, .dies] m := (fo.mono (by decide)).andThen (State.modPage_only _ _ _)
    obtain ⟨tpool, tunplaced, tother, tfailed, tdies, tonly⟩ := ih m
    have hpage : ∀ r, (s.freeEntry x).page? r = s.page? r := fun r => fo.page? r
    rw [show s.withdraw (x :: l) = m.withdraw l from rfl]
    refine ⟨?_, fun r g hg hr => ?_, fun r hr => ?_, fun c => ?_, fun d => ?_, mo.andThen tonly⟩
    · rw [tpool, show m.pool = s.pool.filter (fun y => decide (y.key ≠ x.key)) from rfl, List.filter_filter]
      refine List.filter_congr (fun y _ => ?_)
      simp only [List.mem_cons, forall_eq_or_imp, Bool.decide_and, Bool.and_comm]
    · by_cases hx : x.ref = r
      · have mg : m.page? r = some { g with outcome := .unplaced } := by
          rw [← hx, State.page?_modPage_self, hx, hpage, hg]; rfl
        by_cases hl : ∃ y ∈ l, y.ref = r
        · exact tunplaced r { g with outcome := .unplaced } mg hl
        · rw [tother r (fun y hy e => hl ⟨y, hy, e⟩), mg]
      · obtain ⟨y, hy, e⟩ := hr
        refine tunplaced r g ?_ ⟨y, (List.mem_cons.mp hy).resolve_left (fun h => hx (h ▸ e)), e⟩
        rw [State.page?_modPage_ne _ _ _ _ (Ne.symm hx), hpage, hg]
    · rw [tother r (fun y hy => hr y (.tail _ hy)), State.page?_modPage_ne _ _ _ _ (Ne.symm (hr x (.head _))), hpage]
    · rw [tfailed, State.failed_modPage, fo.context c]
    · rw [tdies, show m.dies = (s.freeEntry x).dies from rfl, s.freeEntry_dies]

/-- The pool entries of a unit are those of the pool (R44). -/
theorem State.mem_unitEntries (s : State) (u : Nat) (y : PoolEntry) : y ∈ s.unitEntries u ↔ y ∈ s.pool ∧ y.key.unit = u := by
  have insert : ∀ (e : PoolEntry) (l : List PoolEntry), y ∈ insertByIndex e l ↔ y = e ∨ y ∈ l := fun e l => by
    induction l with
    | nil => simp [insertByIndex]
    | cons x xs ih =>
      unfold insertByIndex; split
      · simp
      · simp only [List.mem_cons, ih]; tauto
  have fold : ∀ l : List PoolEntry, y ∈ l.foldr insertByIndex [] ↔ y ∈ l := fun l => by
    induction l with
    | nil => simp
    | cons x xs ih => rw [List.foldr_cons, insert, ih, List.mem_cons]
  rw [State.unitEntries, fold, List.mem_filter, decide_eq_true_eq]

/-! ## The unit that fails -/

/-- The record of a unit behind a failed page, before the empty-unit check (R6). -/
def UnitRecord.failedAt (x : UnitRecord) (p : Nat) (epoch : Word) (pages : Nat) : UnitRecord :=
  { x with
    state := .sealed
    writePointer := p + 1
    retirePending := true
    sealEpoch := if x.state = .opened then some epoch else x.sealEpoch
    short := x.short || decide (p + 1 < pages) }

/-- An empty unit with no hold keeps its count and its hold as it retires (R12). -/
theorem UnitRecord.toRetired_empty (r : UnitRecord) (hv : r.valid = 0) (hh : r.hold = .noHold) :
    r.toRetired = { r with state := .retired, tenant := none, owner := none, sealEpoch := none, orderSlot := none, suspendCount := none } := by
  cases r; cases hv; cases hh; rfl

/-- A failed unit is settled, so an empty one that is not held leaves for RETIRED at once, and any other stays SEALED (R3, R9, R12). -/
theorem State.failUnit_unit (s : State) (u p : Nat) (x : UnitRecord) (h : s.unit? u = some x) :
    (x.valid ≠ 0 ∨ x.hold ≠ .noHold → (s.failUnit u p).unit? u = some (x.failedAt p s.time.epoch s.pages)) ∧
    (x.valid = 0 → x.hold = .noHold → (s.failUnit u p).unit? u = some (x.failedAt p s.time.epoch s.pages).toRetired) := by
  let r := x.failedAt p s.time.epoch s.pages
  have hm : (s.modUnit u (fun r => r.failedAt p s.time.epoch s.pages)).unit? u = some r := by simp [h, r]
  have hw := (s.modUnit u (fun r => r.failedAt p s.time.epoch s.pages)).wakeUnit_only u
  have hu : (s.failUnit u p).unit? u = some (r.checked s.plwAsserted) := by
    have := State.checkEmpty_unit _ u r ((hw.unit? u).trans hm)
    rwa [hw.plwAsserted] at this
  have leaves : r.leavesSealed = true ↔ x.valid = 0 ∧ x.hold = .noHold := by
    simp [UnitRecord.leavesSealed, UnitRecord.settled, r, UnitRecord.failedAt]
  rw [hu]
  refine ⟨fun hs => ?_, fun hv hh => ?_⟩
  · rw [UnitRecord.checked, if_neg]
    exact fun hl => hs.elim (· (leaves.mp hl).1) (· (leaves.mp hl).2)
  · rw [UnitRecord.checked, if_pos (leaves.mpr ⟨hv, hh⟩), UnitRecord.leftForErase, if_pos (show r.retirePending = true from rfl)]

/-! ## The slot that empties -/

theorem State.slotOf_congr (s t : State) (st : StreamId) (u : Nat) (h : (t.streams.get st).slots = (s.streams.get st).slots) :
    t.slotOf st u = s.slotOf st u := by
  simp only [State.slotOf, h]

/-- The slot of a stream that holds a unit empties, a pending profile taking effect where it was the last; the others stay (R35, R63). -/
def State.dropSlot (s : State) (st : StreamId) (u : Nat) : State :=
  match s.slotOf st u with
  | some q => (s.emptySlot st q).applyPending st
  | none => s

theorem State.dropSlot_only (s : State) (st : StreamId) (u : Nat) : s.Only [.streams, .waiters, .credit] (s.dropSlot st u) := by
  unfold State.dropSlot; split
  · exact ((s.emptySlot_only st _).mono (by decide)).andThen (State.applyPending_only _ st)
  · exact .refl s _

theorem State.dropSlot_slots (s : State) (st : StreamId) (u : Nat) :
    (∀ q o, ((s.dropSlot st u).streams.get st).slots.get q = some o → (s.streams.get st).slots.get q = some o) ∧
    ∀ q, s.slotOf st u = some q → ((s.dropSlot st u).streams.get st).slots.get q = none := by
  have emptied : ∀ p q, (((s.emptySlot st p).applyPending st).streams.get st).slots.get q =
      if p = q then none else (s.streams.get st).slots.get q := fun p q => by
    rw [State.applyPending_slots]; simp [State.emptySlot, Table.get_set]
  unfold State.dropSlot
  cases hq : s.slotOf st u with
  | none => exact ⟨fun _ _ h => h, by simp⟩
  | some p =>
    refine ⟨fun q o h => ?_, fun q h => ?_⟩
    · rw [emptied] at h
      split at h
      · cases h
      · exact h
    · obtain rfl : p = q := Option.some.inj h
      exact (emptied p p).trans (if_pos rfl)

/-! ## The program that failed -/

/-- A program's failure step by step (R63): the unit fails, its page and the higher ones leave the pool, those that wait to be placed again join
the re-placement list of the unit's owner, and the slot empties. -/
theorem State.programFailed_eq (s : State) (k : PageKey) (e : PoolEntry) (x : UnitRecord) (st : StreamId) (he : s.poolEntry k = some e)
    (hx : s.unit? k.unit = some x) (ho : x.owner = some st) :
    let higher := (s.unitEntries k.unit).filter (fun x => decide (k.index < x.key.index))
    let w := ((((s.failUnit k.unit k.index).freeEntry e).failPage e.ref).withdraw higher)
    s.programFailed k = (w.modLines st (fun l => { l with
      replace := l.replace ++ (if w.pageUnplaced e.ref then [e.ref] else []) ++ higher.map (·.ref) })).dropSlot st k.unit := by
  have hb : (s.unit? k.unit).bind (·.owner) = some st := by rw [hx]; exact ho
  simp only [State.programFailed, he, hb]
  rfl

/-- Whether a page waits to be placed again is its record's outcome (R64). -/
theorem State.pageUnplaced_eq (s : State) (r : PageRef) (p : PageRecord) (h : s.page? r = some p) :
    s.pageUnplaced r = decide (p.outcome = .unplaced) := by
  have h' : (s.context r.ctx).bind (fun x => x.pages[r.page]?) = some p := h
  simp only [State.pageUnplaced, h']

/-- The page of a failed program and the higher ones of its unit leave the pool, and no other page (R63). -/
theorem State.pool_failed (s : State) (k : PageKey) (e : PoolEntry) (he : s.poolEntry k = some e) :
    (s.pool.filter (fun y : PoolEntry => decide (y.key ≠ e.key))).filter (fun y : PoolEntry =>
      decide (∀ x ∈ (s.unitEntries k.unit).filter (fun x : PoolEntry => decide (k.index < x.key.index)), y.key ≠ x.key)) =
    s.pool.filter (fun y => decide (¬ (y.key.unit = k.unit ∧ k.index ≤ y.key.index))) := by
  have hk : e.key = k := by simpa using List.find?_some he
  rw [List.filter_filter, hk]
  refine List.filter_congr (fun y hy => ?_)
  rw [← Bool.decide_and, decide_eq_decide]
  constructor
  · rintro ⟨hhigh, hne⟩ ⟨hu, hi⟩
    rcases Nat.lt_or_eq_of_le hi with hlt | heq
    · exact hhigh y (List.mem_filter.mpr ⟨(s.mem_unitEntries _ y).mpr ⟨hy, hu⟩, by simpa using hlt⟩) rfl
    · exact hne (by cases hy' : y.key; cases k; simp_all)
  · intro hn
    refine ⟨fun z hz hzy => hn ?_, fun hyk => hn ⟨by rw [hyk], by rw [hyk]⟩⟩
    obtain ⟨hz1, hz2⟩ := List.mem_filter.mp hz
    rw [hzy]
    exact ⟨((s.mem_unitEntries _ z).mp hz1).2, le_of_lt (by simpa using hz2)⟩

/-- What a program's failure leaves of the unit, the pages, the lines, the slots and the dies (R6, R63, R64). -/
theorem State.programFailed_cases (s : State) (k : PageKey) (e : PoolEntry) (ctx : WriteContext) (pr : PageRecord) (x : UnitRecord)
    (st : StreamId) (he : s.poolEntry k = some e) (hctx : s.context e.ref.ctx = some ctx) (hpr : ctx.pages[e.ref.page]? = some pr)
    (hx : s.unit? k.unit = some x) (ho : x.owner = some st)
    (hne : ∀ y ∈ (s.unitEntries k.unit).filter (fun x => decide (k.index < x.key.index)), y.ref ≠ e.ref) :
    let higher := (s.unitEntries k.unit).filter (fun x => decide (k.index < x.key.index))
    let t := s.programFailed k
    (∀ u, t.unit? u = (s.failUnit k.unit k.index).unit? u) ∧
    (pr.retries < 2 → (t.lines.get st).replace = (s.lines.get st).replace ++ e.ref :: higher.map (·.ref) ∧
      t.page? e.ref = some { pr with outcome := .unplaced, retries := pr.retries + 1 } ∧
      (t.context e.ref.ctx).map (·.failed) = some ctx.failed) ∧
    (2 ≤ pr.retries → (t.lines.get st).replace = (s.lines.get st).replace ++ higher.map (·.ref) ∧
      t.page? e.ref = some { pr with outcome := .failed } ∧
      (t.context e.ref.ctx).map (·.failed) = some (ctx.failed + 1)) ∧
    (∀ q o, (t.streams.get st).slots.get q = some o → (s.streams.get st).slots.get q = some o) ∧
    (∀ q, s.slotOf st k.unit = some q → (t.streams.get st).slots.get q = none) ∧
    t.pool = s.pool.filter (fun y => decide (¬ (y.key.unit = k.unit ∧ k.index ≤ y.key.index))) ∧
    (∀ y ∈ higher, ∀ g, s.page? y.ref = some g → t.page? y.ref = some { g with outcome := .unplaced }) ∧
    (∀ d, t.dies.get d = { s.dies.get d with
      queue := (t.dies.get d).queue, waiting := (t.dies.get d).waiting, backlogs := (t.dies.get d).backlogs }) := by
  intro higher t
  let a := s.failUnit k.unit k.index
  let b := a.freeEntry e
  let c := b.failPage e.ref
  let w := c.withdraw higher
  let list := if w.pageUnplaced e.ref then [e.ref] else []
  let v := w.modLines st (fun l => { l with replace := l.replace ++ list ++ higher.map (·.ref) })
  have ht : t = v.dropSlot st k.unit := s.programFailed_eq k e x st he hx ho
  have ac := s.failUnit_change k.unit k.index
  have ab := a.freeEntry_only e
  have bc := b.failPage_only e.ref
  have sb : s.Only [.units, .streams, .groups, .dies, .pool] b := (ac.only.mono (by decide)).andThen ab
  obtain ⟨wpool, wunplaced, wother, wfailed, wdies, cw⟩ := c.withdraw_cases higher
  have wv := w.modLines_only st (fun l => { l with replace := l.replace ++ list ++ higher.map (·.ref) })
  have vt : v.Only [.streams, .waiters, .credit] t := ht ▸ v.dropSlot_only st k.unit
  have wt : w.Only [.lines, .streams, .waiters, .credit] t := (wv.mono (by decide)).andThen vt
  have at' : a.Only [.contexts, .pool, .dies, .lines, .streams, .waiters, .credit] t :=
    (((ab.mono (by decide)).andThen bc).andThen cw).andThen wt
  have bpage : b.page? e.ref = some pr := by
    rw [sb.page?, State.page?, hctx]; exact hpr
  have bctx : b.context e.ref.ctx = some ctx := (sb.context _).trans hctx
  obtain ⟨retry, fail, others⟩ := b.failPage_cases e.ref pr ctx bpage bctx
  have wpage : w.page? e.ref = c.page? e.ref := wother e.ref hne
  have tlines : (t.lines.get st).replace = (s.lines.get st).replace ++ list ++ higher.map (·.ref) := by
    have hw : w.lines = s.lines := (cw .lines (by decide)).trans ((bc .lines (by decide)).trans (sb .lines (by decide)))
    rw [vt .lines (by decide)]
    show ((w.modLines st _).lines.get st).replace = _
    rw [State.modLines_lines, Table.get_modify_self, hw]
  have vslots : (v.streams.get st).slots = (s.streams.get st).slots := by
    have hv : v.streams = a.streams :=
      (wv .streams (by decide)).trans ((cw .streams (by decide)).trans ((bc .streams (by decide)).trans (ab .streams (by decide))))
    rw [hv, ac.streams st]
  obtain ⟨kept, emptied⟩ := v.dropSlot_slots st k.unit
  rw [← ht, vslots] at kept
  rw [← ht, v.slotOf_congr s st k.unit vslots.symm |>.symm] at emptied
  refine ⟨fun u => at'.unit? u, fun hr => ?_, fun hr => ?_, kept, emptied, ?_, fun y hy g hg => ?_, fun d => ?_⟩
  · obtain ⟨cpage, cfailed⟩ := retry hr
    rw [tlines, wt.page?, wpage, cpage, wt.context, wfailed, cfailed]
    have : list = [e.ref] := if_pos (by rw [w.pageUnplaced_eq e.ref _ (wpage.trans cpage)]; rfl)
    exact ⟨by rw [this, List.append_assoc]; rfl, rfl, rfl⟩
  · obtain ⟨cpage, cfailed⟩ := fail hr
    rw [tlines, wt.page?, wpage, cpage, wt.context, wfailed, cfailed]
    have : list = [] := if_neg (by rw [w.pageUnplaced_eq e.ref _ (wpage.trans cpage)]; simp)
    exact ⟨by rw [this, List.append_nil], rfl, rfl⟩
  · rw [wt .pool (by decide), wpool, bc .pool (by decide), a.freeEntry_pool, ac.only .pool (by decide)]
    exact s.pool_failed k e he
  · rw [wt.page?]
    refine wunplaced y.ref g ?_ ⟨y, hy, rfl⟩
    rw [others y.ref (hne y hy), sb.page?, hg]
  · rw [wt .dies (by decide), wdies d, bc .dies (by decide), a.freeEntry_dies, ac.dies d]

/-! ## PROGRAM-FAIL -/

/-- The die whose current operation a program was is IDLE at its end (R118). -/
theorem DieRecord.programEnded_current (r : DieRecord) (k : PageKey) (hs : r.suspendedProgram = none) (hc : r.current = some (.program k)) :
    r.programEnded k = { r with state := .idle, current := none, opTimer := none } := by
  simp [programEnded, hs, hc]

/-- A program's end leaves a die that is not SUSPENDED so (R118). -/
theorem DieRecord.programEnded_state (r : DieRecord) (k : PageKey) (h : r.state ≠ .suspended) : (r.programEnded k).state ≠ .suspended := by
  unfold programEnded; split
  · exact h
  · split
    · simp
    · exact h

/-- A FAIL that is matched releases its tag and is recorded for the die (R144, R148). -/
theorem State.takeMatched_failed (s : State) (c : Completion) (e : TagEntry) (hn : s.Names c e) (hc : c.kind = 1) :
    (s.takeMatched c e).link = { s.link with
      tags := s.link.tags.filter (fun y => decide (y.tag ≠ c.tag))
      queue := s.link.queue.filter (fun y => decide (y.tag ≠ c.tag))
      lastFail := s.link.lastFail.set e.die (some (e.kind, failCauseOf c)) } := by
  simp only [State.takeMatched, if_pos hc, hn.tag]; rfl

/-- Settles O58: the failed program is `State.programFailed` on the state with the tag released, and no SUSPENDED die decides again. -/
theorem programFailRetries : Obligations.ProgramFailRetries := by
  unfold Obligations.ProgramFailRetries
  intro c s e k pe ctx pr x st hn hk hc hpage hpool hctx hpr hx ho hnone higher failed hne
  let a := s.takeMatched c e
  let b := a.programFailed k
  let m := b.modDie e.die (fun r => r.programEnded k)
  have ao : s.Only [.link] a := s.takeMatched_only c e
  obtain ⟨bunit, bretry, bfail, bkept, bemptied, bpool, bpages, bdies⟩ :=
    a.programFailed_cases k pe ctx pr x st hpool hctx hpr hx ho hne
  have bo := a.programFailed_only k
  have adies : a.dies = s.dies := ao .dies (by decide)
  rw [adies] at bdies
  have mother : ∀ d, d ≠ e.die → m.dies.get d = b.dies.get d := fun d hd => Table.get_modify_ne _ _ _ _ hd
  have mself : m.dies.get e.die = (b.dies.get e.die).programEnded k := Table.get_modify_self _ _ _
  have bstate : ∀ d, (b.dies.get d).state ≠ .suspended := fun d => by rw [bdies d]; exact hnone d
  have mnone : m.NoneSuspended := fun d => by
    by_cases hd : d = e.die
    · rw [hd, mself]; exact DieRecord.programEnded_state _ k (bstate _)
    · rw [mother d hd]; exact bstate d
  have he : exec (.programFail c) s = .next m := by
    have := s.onCompletion_names c e .program [failCode] (fun e s => s.endProgram e (fun k s => s.programFailed k)) hn hk
      (by rw [hc]; rfl) (by rw [hc]; simp [failCode])
    refine this.trans (congrArg _ ?_)
    simp only [State.endProgram, hpage]
    exact m.serveSuspended_none mnone
  have bm : b.Only [.dies] m := b.modDie_only _ _
  have fu := a.failUnit_unit k.unit k.index x hx
  refine ⟨m, he, fun hs => ?_, fun hv hh => ?_, fun u hu => ?_, fun hr => ?_, fun hr => ?_, fun q o h => ?_, fun q h => ?_, ?_,
    fun y hy g hg => ?_, fun hs hcur => ?_, fun d hd => ?_, ?_, ?_⟩
  · rw [bm.unit?, bunit, fu.1 hs]; rfl
  · rw [bm.unit?, bunit, fu.2 hv hh]; exact congrArg some (UnitRecord.toRetired_empty (x.failedAt k.index a.time.epoch a.pages) hv hh)
  · rw [bm.unit?, bunit]; exact (a.failUnit_change k.unit k.index).others u hu
  · rw [bm .lines (by decide), bm.context]; exact bretry hr
  · rw [bm .lines (by decide), bm.context]; exact bfail hr
  · rw [bm .streams (by decide)] at h; exact bkept q o h
  · rw [bm .streams (by decide)]; exact bemptied q h
  · exact bpool
  · rw [bm.context]; exact bpages y hy g hg
  · have : m.dies.get e.die = _ := mself.trans (DieRecord.programEnded_current _ k (by rw [bdies]; exact hs) (by rw [bdies]; exact hcur))
    rw [this]; exact ⟨rfl, rfl, rfl⟩
  · rw [mother d hd, bdies]; exact ⟨rfl, rfl⟩
  · rw [bm .link (by decide), bo .link (by decide)]
    exact (s.takeMatched_failed c e hn hc).trans (by rw [hk]; rfl)
  · have sb : s.Only [.units, .streams, .contexts, .lines, .pool, .waiters, .credit, .groups, .dies, .link] b :=
      (ao.mono (by decide)).andThen bo
    exact sb.andThen bm

end Sys2Proof.Machine
end

section
/-!
PROOFS. Young lists (R38): no operation brings a young list of 8 units or fewer above 8, and so no step does. An operation that leaves the
streams alone is read off its frame; the others follow the calls of the definitions down to `State.leaveYoung`, `State.pushYoung` and
`State.emptyYoung`, the only ones that change a young list.
-/

namespace Sys2Proof.Machine

set_option Elab.async false

/-- Each young list that holds at most 8 units in `s` does so in `t`. -/
def State.YoungKept (s t : State) : Prop :=
  ∀ st, (s.streams.get st).young.length ≤ Config.youngLimit → (t.streams.get st).young.length ≤ Config.youngLimit

theorem State.YoungKept.legal {s t : State} (h : s.YoungKept t) (hs : s.YoungLegal) : t.YoungLegal := fun st => h st (hs st)

theorem State.YoungKept.refl (s : State) : s.YoungKept s := fun _ h => h

theorem State.YoungKept.trans {s t u : State} (h : s.YoungKept t) (k : t.YoungKept u) : s.YoungKept u := fun st hs => k st (h st hs)

theorem State.YoungKept.of_streams {s t : State} (h : t.streams = s.streams) : s.YoungKept t := fun st hs => by rw [h]; exact hs

theorem State.Only.youngKept {s t : State} {fs : List Field} (h : s.Only fs t) (hf : Field.streams ∉ fs := by decide) : s.YoungKept t :=
  .of_streams (h .streams hf)

theorem State.YoungKept.foldl {α : Type} {f : State → α → State} (h : ∀ (s : State) (a : α), s.YoungKept (f s a)) (l : List α) (s : State) :
    s.YoungKept (l.foldl f s) := by
  induction l generalizing s with
  | nil => exact .refl s
  | cons a l ih => exact (h s a).trans (ih (f s a))

/-- A further change that is made in one case only. -/
theorem State.YoungKept.thenIf {s t u : State} {c : Prop} [Decidable c] (h : s.YoungKept t) (k : t.YoungKept u) :
    s.YoungKept (if c then u else t) := by
  split
  · exact h.trans k
  · exact h

/-- A change of one stream record; by default one that leaves its young list alone. -/
theorem State.modStream_youngKept (s : State) (st : StreamId) (f : StreamRecord → StreamRecord)
    (hf : ∀ r, r.young.length ≤ Config.youngLimit → (f r).young.length ≤ Config.youngLimit := by exact fun _ h => h) :
    s.YoungKept (s.modStream st f) := by
  intro x hx
  by_cases he : x = st
  · subst he; simpa using hf _ hx
  · simpa [he] using hx

/-! ## The three changes of a young list -/

theorem State.leaveYoung_youngKept (s : State) (u : Nat) : s.YoungKept (s.leaveYoung u) := by
  unfold State.leaveYoung; split
  · exact s.modStream_youngKept _ _ (fun r h => (List.length_erase_le (l := r.young)).trans h)
  · exact .refl s

/-- A ninth unit, the oldest, is dropped (R38). -/
theorem State.pushYoung_youngKept (s : State) (st : StreamId) (u : Nat) : s.YoungKept (s.pushYoung st u) := by
  intro x hx
  rw [State.pushYoung_streams]
  refine State.modStream_youngKept s st (fun r => { r with
    young := if r.state.bound then (u :: r.young).take Config.youngLimit else r.young }) (fun r hr => ?_) x hx
  dsimp only; split
  · exact List.length_take_le _ _
  · exact hr

theorem State.emptyYoung_youngKept (s : State) (st : StreamId) : s.YoungKept (s.emptyYoung st) := by
  unfold State.emptyYoung
  exact (s.modStream_youngKept st _ (fun _ _ => Nat.zero_le _)).trans (.foldl (fun s u => (s.wakeUnit_only u).youngKept) _ _)

/-! ## Transitions of units -/

theorem State.enterErasing_youngKept (s : State) (u : Nat) : s.YoungKept (s.enterErasing u) :=
  (((s.leaveYoung_youngKept u).trans (State.modUnit_only _ _ _).youngKept).trans (State.handBackground_only _ _).youngKept).trans
    (State.reportCounts_only _ _).youngKept

theorem State.enterRetired_youngKept (s : State) (u : Nat) : s.YoungKept (s.enterRetired u) :=
  ((s.leaveYoung_youngKept u).trans (State.modUnit_only _ _ _).youngKept).trans (State.reportCounts_only _ _).youngKept

theorem State.leaveForErase_youngKept (s : State) (u : Nat) : s.YoungKept (s.leaveForErase u) := by
  unfold State.leaveForErase; split
  · exact .refl s
  · split
    · exact s.enterRetired_youngKept u
    · exact s.enterErasing_youngKept u

theorem State.checkEmpty_youngKept (s : State) (u : Nat) : s.YoungKept (s.checkEmpty u) := by
  unfold State.checkEmpty; split
  · exact .refl s
  · split
    · exact s.leaveForErase_youngKept u
    · exact .refl s

/-- A wake event of a unit's group and the empty-unit check, with which most transitions end. -/
theorem State.wakeCheck_youngKept (s : State) (u : Nat) : s.YoungKept ((s.wakeUnit u).checkEmpty u) :=
  (s.wakeUnit_only u).youngKept.trans (State.checkEmpty_youngKept _ u)

theorem State.sealUnit_youngKept (s : State) (u : Nat) : s.YoungKept (s.sealUnit u) := by
  unfold State.sealUnit; split
  · exact .refl s
  · refine .trans ?_ (State.wakeCheck_youngKept _ u)
    split
    · exact (s.modUnit_only u _).youngKept.trans (State.pushYoung_youngKept _ _ u)
    · exact (s.modUnit_only u _).youngKept

theorem State.failUnit_youngKept (s : State) (u p : Nat) : s.YoungKept (s.failUnit u p) :=
  (s.modUnit_only u _).youngKept.trans (State.wakeCheck_youngKept _ u)

theorem State.returnToSealed_youngKept (s : State) (u : Nat) : s.YoungKept (s.returnToSealed u) :=
  (((s.modUnit_only u _).youngKept.trans (State.wakeUnit_only _ _).youngKept).trans (State.reportCounts_only _ _).youngKept).trans
    (State.checkEmpty_youngKept _ u)

theorem State.eraseOutcome_youngKept (s : State) (u : Nat) (done : Bool) : s.YoungKept (s.eraseOutcome u done) := by
  unfold State.eraseOutcome; split
  · exact .refl s
  · split
    · exact (s.enterFree_only _ _).youngKept
    · exact s.enterRetired_youngKept u

theorem State.checkOutcome_youngKept (s : State) (u kind : Nat) : s.YoungKept (s.checkOutcome u kind) := by
  unfold State.checkOutcome; split
  · exact .refl s
  · split
    · exact (s.enterFree_only _ _).youngKept
    · split
      · exact s.enterErasing_youngKept u
      · exact s.enterRetired_youngKept u

/-! ## Profiles and slots -/

theorem State.takeProfile_youngKept (s : State) (st : StreamId) (p : Profile) : s.YoungKept (s.takeProfile st p) :=
  (s.modStream_youngKept st _).trans (State.callWork_only _ _).youngKept

theorem State.applyPending_youngKept (s : State) (st : StreamId) : s.YoungKept (s.applyPending st) := by
  intro x hx; rw [(s.applyPending_stream st x).1]; exact hx

theorem State.emptySlot_youngKept (s : State) (st : StreamId) (q : Position) : s.YoungKept (s.emptySlot st q) :=
  s.modStream_youngKept st _

theorem State.sealSlot_youngKept (s : State) (st : StreamId) (q : Position) : s.YoungKept (s.sealSlot st q) := by
  unfold State.sealSlot; split
  · exact .refl s
  · exact ((s.emptySlot_youngKept st q).trans (State.sealUnit_youngKept _ _)).trans (State.applyPending_youngKept _ st)

theorem State.sealAllSlots_youngKept (s : State) (st : StreamId) : s.YoungKept (s.sealAllSlots st) :=
  (State.YoungKept.foldl (fun s q => s.sealSlot_youngKept st q) _ s).trans (State.applyPending_youngKept _ st)

theorem State.dueSeal_youngKept (s : State) (st : StreamId) (q : Position) : s.YoungKept (s.dueSeal st q) := by
  unfold State.dueSeal; split
  · split
    · exact s.sealSlot_youngKept st q
    · exact .refl s
  · exact .refl s

theorem State.settleSlots_youngKept (s : State) (st : StreamId) : s.YoungKept (s.settleSlots st) :=
  .foldl (fun s q => s.dueSeal_youngKept st q) _ s

/-! ## Placing pages -/

theorem State.openUnit_youngKept (s : State) (st : StreamId) (q : Position) (d : DieId) : s.YoungKept (s.openUnit st q d) := by
  unfold State.openUnit; split
  · exact .refl s
  · exact ((((s.setFreeLists_only _).youngKept.trans (State.modUnit_only _ _ _).youngKept).trans
      (State.modStream_youngKept _ _ _)).trans (State.reportCounts_only _ _).youngKept).trans (State.callSpace_only _ _).youngKept

theorem State.moveCursor_youngKept (s : State) (st : StreamId) (q : Position) : s.YoungKept (s.moveCursor st q) := by
  refine s.modStream_youngKept st _ (fun r h => ?_)
  split <;> exact h

theorem State.takePage_youngKept (s : State) (st : StreamId) (c : GroupConfig) (q : Position) (x : WriteContext) (n : Nat) :
    s.YoungKept (s.takePage st c q x n) := by
  unfold State.takePage; split
  · exact .refl s
  · exact .thenIf ((((((s.modUnit_only _ _).youngKept.trans (State.modStream_youngKept _ st _)).trans
      (State.setPool_only _ _).youngKept).trans (State.modPage_only _ _ _).youngKept).trans (State.modDie_only _ _ _).youngKept).trans
      ((State.moveCursor_youngKept _ st q).trans (State.pageTrigger_only _ _ _).youngKept)) (State.sealSlot_youngKept _ st q)

theorem State.tryPlace_youngKept (s t : State) (st : StreamId) (k : PlaceKind) (x : WriteContext) (n : Nat)
    (h : s.tryPlace st k x n = some t) : s.YoungKept t := by
  unfold State.tryPlace at h
  split at h
  · cases h
  · split at h
    · cases h
    · dsimp only at h
      cases h
      refine .trans ?_ (State.takePage_youngKept _ st _ _ x n)
      split
      · exact .refl s
      · exact s.openUnit_youngKept st _ _

theorem State.attemptFresh_youngKept (s : State) (st : StreamId) (x : WriteContext) : s.YoungKept (s.attemptFresh st x).1 := by
  refine (s.applyPending_youngKept st).trans ?_
  unfold State.attemptFresh; dsimp only; split
  · next h => exact (State.tryPlace_youngKept _ _ _ _ _ _ h).trans (State.afterFresh_only _ _ _).youngKept
  · exact (State.waitForSpace_only _ _).youngKept

theorem State.placeRun_youngKept (n : Nat) (s : State) (st : StreamId) (cls : WriteClass) (id : ContextId) :
    s.YoungKept (State.placeRun n s st cls id) := by
  induction n generalizing s with
  | zero => exact .refl s
  | succ n ih =>
    unfold State.placeRun; split
    · exact .refl s
    · next x _ =>
      have once := s.attemptFresh_youngKept st x
      split
      · split
        · next h => rw [h] at once; exact once.trans (ih _)
        · next h => rw [h] at once; exact once
      · exact .refl s

theorem State.attemptReplace_youngKept (s : State) (st : StreamId) : s.YoungKept (s.attemptReplace st).1 := by
  refine (s.applyPending_youngKept st).trans ?_
  unfold State.attemptReplace; dsimp only; split
  · exact .refl _
  · split
    · exact (State.dropReplaceHead_only _ _).youngKept
    · split
      · next h => exact (State.tryPlace_youngKept _ _ _ _ _ _ h).trans (State.dropReplaceHead_only _ _).youngKept
      · exact (State.waitReplace_only _ _).youngKept

theorem State.replaceRun_youngKept (n : Nat) (s : State) (st : StreamId) : s.YoungKept (State.replaceRun n s st) := by
  induction n generalizing s with
  | zero => exact .refl s
  | succ n ih =>
    have once := s.attemptReplace_youngKept st
    unfold State.replaceRun; split
    · next h => rw [h] at once; exact once.trans (ih _)
    · next h => rw [h] at once; exact once

theorem State.serveList_youngKept (s : State) (st : StreamId) : s.YoungKept (s.serveList st) :=
  (s.settleSlots_youngKept st).trans (State.replaceRun_youngKept _ _ st)

theorem State.serveEntry_youngKept (s : State) (e : WaitEntry) : s.YoungKept (s.serveEntry e) :=
  (s.settleSlots_youngKept e.stream).trans (State.placeRun_youngKept _ _ _ _ _)

theorem State.serveEntries_youngKept (l : List WaitEntry) (s : State) : s.YoungKept (l.foldl State.serveEntry s) :=
  .foldl State.serveEntry_youngKept l s

theorem State.serveLists_youngKept (l : List ReplaceWaiter) (s : State) :
    s.YoungKept (l.foldl (fun s w => s.serveList w.stream) s) := by
  refine .foldl ?_ l s
  intro s w
  exact s.serveList_youngKept w.stream

theorem State.examineWork_youngKept (s : State) (p : StreamId → Bool) : s.YoungKept (s.examineWork p) := by
  unfold State.examineWork State.examineCalled
  exact (((s.callWork_only p).youngKept.trans (State.serveLists_youngKept _ _)).trans (State.serveEntries_youngKept _ _)).trans
    (State.serveEntries_youngKept _ _)

theorem State.examineFreed_youngKept (s : State) (u : Nat) : s.YoungKept (s.examineFreed u) := by
  unfold State.examineFreed; split
  · split
    · exact s.examineWork_youngKept _
    · exact .refl s
  · exact .refl s

/-! ## The end of a page's program -/

theorem State.slotLower_youngKept (s : State) (u : Nat) : s.YoungKept (s.slotLower u) := by
  unfold State.slotLower; split
  · exact .refl s
  · exact s.modStream_youngKept _ _

theorem State.relocDone_youngKept (s : State) (x : WriteContext) : s.YoungKept (s.relocDone x) := by
  unfold State.relocDone; split
  · exact .refl s
  · split
    · exact (s.modContext_only _ _).youngKept
    · split
      · exact .thenIf (s.lowerValid_only _ _).youngKept (State.wakeCheck_youngKept _ _)
      · exact (s.modContext_only _ _).youngKept

theorem State.settleCheck_youngKept (s : State) (u : Nat) : s.YoungKept (s.settleCheck u) := by
  unfold State.settleCheck; split
  · exact .refl s
  · exact .thenIf (.refl s) (s.wakeCheck_youngKept u)

theorem State.pageDone_youngKept (s : State) (k : PageKey) : s.YoungKept (s.pageDone k) := by
  unfold State.pageDone; split
  · exact .refl s
  · refine .trans ?_ (State.settleCheck_youngKept _ k.unit)
    split
    · refine .trans ?_ (State.relocDone_youngKept _ _)
      exact (((s.freeEntry_only _).youngKept.trans (State.modPage_only _ _ _).youngKept).trans
        (State.modUnit_only _ _ _).youngKept).trans (State.slotLower_youngKept _ k.unit)
    · exact (((s.freeEntry_only _).youngKept.trans (State.modPage_only _ _ _).youngKept).trans
        (State.modUnit_only _ _ _).youngKept).trans (State.slotLower_youngKept _ k.unit)

theorem State.programFailed_youngKept (s : State) (k : PageKey) : s.YoungKept (s.programFailed k) := by
  unfold State.programFailed; split
  · next e st _ _ =>
    have withdrawn := fun (l : List PoolEntry) (u : State) => State.YoungKept.foldl (f := fun s x =>
      (s.freeEntry x).modPage x.ref (fun p => { p with outcome := .unplaced }))
      (fun s x => (s.freeEntry_only x).youngKept.trans (State.modPage_only _ _ _).youngKept) l u
    dsimp only; split
    · refine .trans ?_ ((State.emptySlot_youngKept _ st _).trans (State.applyPending_youngKept _ st))
      exact ((((s.failUnit_youngKept k.unit k.index).trans (State.freeEntry_only _ e).youngKept).trans
        (State.failPage_only _ e.ref).youngKept).trans (withdrawn _ _)).trans (State.modLines_only _ st _).youngKept
    · exact ((((s.failUnit_youngKept k.unit k.index).trans (State.freeEntry_only _ e).youngKept).trans
        (State.failPage_only _ e.ref).youngKept).trans (withdrawn _ _)).trans (State.modLines_only _ st _).youngKept
  · exact .refl s

/-! ## Orders that end -/

theorem State.closeOrder_youngKept (s : State) (r : NoticeRef) (o : Order) (c : OrderCause) : s.YoungKept (s.closeOrder r o c) :=
  (((s.returnToSealed_youngKept o.unit).trans (State.setOrder_only _ _ _).youngKept).trans (State.addExpiry_only _ _).youngKept).trans
    (State.offerNotice_only _ _ _).youngKept

theorem State.withdrawOrder_youngKept (s : State) (r : NoticeRef) (o : Order) : s.YoungKept (s.withdrawOrder r o) :=
  ((s.returnToSealed_youngKept o.unit).trans (State.dropNotice_only _ _ _).youngKept).trans (State.setOrder_only _ _ _).youngKept

theorem State.dropClosing_youngKept (s : State) (p : MasterId) (r : NoticeRef) : s.YoungKept ((s.dropNotice p r).setOrder r none) :=
  (s.dropNotice_only p r).youngKept.trans (State.setOrder_only _ r none).youngKept

theorem State.cancelSlot_youngKept (s : State) (r : NoticeRef) : s.YoungKept (s.cancelSlot r) := by
  unfold State.cancelSlot; split
  · exact .refl s
  · split
    · exact s.withdrawOrder_youngKept _ _
    · exact s.closeOrder_youngKept _ _ _
    · exact .refl s

theorem State.fenceSlot_youngKept (s : State) (p : MasterId) (r : NoticeRef) : s.YoungKept (s.fenceSlot p r) := by
  unfold State.fenceSlot; split
  · exact .refl s
  · split
    · split
      · exact s.withdrawOrder_youngKept _ _
      · exact (s.returnToSealed_youngKept _).trans (State.setOrder_only _ _ _).youngKept
      · exact s.dropClosing_youngKept _ _
    · exact .refl s

theorem State.fenceOrders_youngKept (s : State) (p : MasterId) : s.YoungKept (s.fenceOrders p) :=
  ((State.YoungKept.foldl (fun s r => s.fenceSlot_youngKept p r) _ s).trans (State.modNotices_only _ _ _).youngKept).trans
    (State.setReclaim_only _ _).youngKept

theorem State.resetSlot_youngKept (s : State) (r : NoticeRef) : s.YoungKept (s.resetSlot r) := by
  unfold State.resetSlot; split
  · exact .refl s
  · split
    · exact s.withdrawOrder_youngKept _ _
    · exact ((s.returnToSealed_youngKept _).trans (State.addExpiry_only _ _).youngKept).trans (State.setOrder_only _ _ _).youngKept
    · exact s.dropClosing_youngKept _ _

theorem State.resetOrders_youngKept (s : State) (g : GroupId) : s.YoungKept (s.resetOrders g) :=
  .foldl (fun s k => s.resetSlot_youngKept ⟨g, k⟩) _ s

/-! ## Requests, drains and fences that end -/

theorem State.requestGone_youngKept (s : State) (st : StreamId) : s.YoungKept (s.requestGone st) :=
  .thenIf (s.modStream_youngKept st _) (State.sealAllSlots_youngKept _ st)

theorem State.endRequest_youngKept (s : State) (x : WriteContext) : s.YoungKept (s.endRequest x) :=
  (((s.answerWrite_only x).youngKept.trans (State.leaveShare_only _ x).youngKept).trans (State.dropContext_only _ _).youngKept).trans
    (State.requestGone_youngKept _ _)

theorem State.endDrain_youngKept (s : State) (st : StreamId) : s.YoungKept (s.endDrain st) := by
  have ended := (s.sealAllSlots_youngKept st).trans (State.modStream_youngKept _ st (fun r => { r with state := .quiesced, drain := none }))
  unfold State.endDrain; dsimp only; split
  · exact ended.trans (State.replyMaster_only _ _ _ _ _ _ _ _).youngKept
  · exact ended

theorem State.parkStream_youngKept (s : State) (st : StreamId) : s.YoungKept (s.parkStream st) := by
  have parked := ((s.sealAllSlots_youngKept st).trans (State.emptyYoung_youngKept _ st)).trans
    (State.modStream_youngKept _ st (fun r => { r with state := .parked, port := none, drain := none }))
  unfold State.parkStream; dsimp only; split
  · exact parked.trans (State.releaseSlot_only _ _ _).youngKept
  · exact parked

theorem State.fence_youngKept (s : State) (p : MasterId) (c : FenceCause) : s.YoungKept (s.fence p c) :=
  ((((((((((s.modMaster_only p _).youngKept.trans (State.flagFence_only _ _ _).youngKept).trans
    (.foldl State.parkStream_youngKept _ _)).trans (State.orphanContexts_only _ _).youngKept).trans
    (State.fenceCredit_only _ _).youngKept).trans (.foldl State.endRequest_youngKept _ _)).trans
    (State.fenceOrders_youngKept _ _)).trans (.foldl (fun s d => (s.fenceWindow_only p d).youngKept) _ _)).trans
    (State.modRingMaster_only _ _ _).youngKept).trans (State.offerManagement_only _ _ _).youngKept).trans
    (State.serveSuspended_only _).youngKept

theorem State.dueFence_youngKept (s : State) (p : MasterId) : s.YoungKept (s.dueFence p) := by
  unfold State.dueFence
  exact .thenIf (.refl s) (s.fence_youngKept p _)

theorem State.settlePort_youngKept (s : State) (p : PortId) : s.YoungKept (s.settlePort p) := by
  cases p with
  | master p => exact s.dueFence_youngKept p
  | management => exact .refl s

/-! ## Commands -/

/-- A command that gives a next state keeps the young lists. -/
def State.YoungKeptBy (s : State) (r : Result) : Prop := ∀ t, r = .next t → s.YoungKept t

theorem State.YoungKept.next {s t : State} (h : s.YoungKept t) : s.YoungKeptBy (.next t) := by
  rintro _ ⟨⟩; exact h

theorem State.YoungKept.nextIf {s t u : State} {c : Prop} [Decidable c] (h : s.YoungKept t) (k : s.YoungKept u) :
    s.YoungKeptBy (if c then .next t else .next u) := by
  split
  · exact h.next
  · exact k.next

theorem State.YoungKept.answer {s t : State} (h : s.YoungKept t) (r : Request) (status : Status) (body : List Byte) (words : List Word) :
    s.YoungKept (r.answer t status body words) := h.trans (r.answer_only t status body words).youngKept

/-- A request that is answered with no change of the streams. -/
theorem State.answer_youngKept (s t : State) (r : Request) (status : Status) (body : List Byte) (words : List Word)
    (h : t.streams = s.streams := by rfl) : s.YoungKept (r.answer t status body words) := (State.YoungKept.of_streams h).answer r status body words

/-- A request command (R152, R169): the fence that is due, the taking of the request and the request's own act. -/
theorem State.onRequest_youngKept (s : State) (p : PortId) (accepts : Nat → Bool) (act : Request → State → State)
    (h : ∀ r (u : State), u.YoungKept (act r u)) : s.YoungKeptBy (s.onRequest p accepts act) := by
  have settled := s.settlePort_youngKept p
  unfold State.onRequest
  exact .nextIf ((settled.trans (State.taken_only _ p).youngKept).trans (h _ _)) settled

/-- A completion command (R144): the release of the tag and the command's own act. -/
theorem State.onCompletion_youngKept (s : State) (c : Completion) (kind : DescriptorKind) (kinds : List Nat)
    (act : TagEntry → State → State) (h : ∀ e (u : State), u.YoungKept (act e u)) : s.YoungKeptBy (s.onCompletion c kind kinds act) := by
  unfold State.onCompletion; split
  · exact (State.YoungKept.refl s).next
  · exact .nextIf ((s.takeMatched_only c _).youngKept.trans (h _ _)) (.refl s)

/-- A stream request after the checks of R24. -/
theorem State.onBoundStream_youngKept (s : State) (p : MasterId) (r : Request) (act : StreamId → State → State)
    (h : ∀ st (u : State), u.YoungKept (act st u)) : s.YoungKept (s.onBoundStream p r act) := by
  unfold State.onBoundStream; split
  · exact State.answer_youngKept _ _ _ _ _ _
  · exact (s.modStream_youngKept _ _).trans (h _ _)

/-! ### Requests about streams and writes -/

theorem openStreamRequest_youngKept (p : MasterId) (r : Request) (s : State) : s.YoungKept (openStreamRequest p r s) := by
  unfold openStreamRequest; split
  · exact State.answer_youngKept _ _ _ _ _ _
  · dsimp only; split
    · split <;> exact State.answer_youngKept _ _ _ _ _ _
    · split
      · exact .answer (((s.modStream_youngKept _ _).trans (State.modStream_youngKept _ _ _)).trans (State.wakeAll_only _).youngKept) _ _ _ _
      · exact State.answer_youngKept _ _ _ _ _ _

theorem State.closeStream_youngKept (s : State) (st : StreamId) : s.YoungKept (s.closeStream st) :=
  ((s.sealAllSlots_youngKept st).trans (State.emptyYoung_youngKept _ st)).trans (State.modStream_youngKept _ st _)

theorem closeStreamRequest_youngKept (p : MasterId) (r : Request) (s : State) : s.YoungKept (closeStreamRequest p r s) := by
  refine s.onBoundStream_youngKept p r _ (fun st u => ?_)
  split
  · exact (u.closeStream_youngKept st).answer _ _ _ _
  · exact State.answer_youngKept _ _ _ _ _ _

theorem State.startDrain_youngKept (s : State) (st : StreamId) (pl : Pledge) : s.YoungKept (s.startDrain st pl) :=
  ((s.settleCredit_only _).youngKept.trans (State.modStream_youngKept _ st _)).trans (State.admitStream_only _ st).youngKept

theorem drainStreamRequest_youngKept (p : MasterId) (r : Request) (s : State) : s.YoungKept (drainStreamRequest p r s) := by
  refine s.onBoundStream_youngKept p r _ (fun st u => ?_)
  split
  · exact .thenIf (u.startDrain_youngKept st _) (State.endDrain_youngKept _ st)
  · exact State.answer_youngKept _ _ _ _ _ _

theorem resumeStreamRequest_youngKept (p : MasterId) (r : Request) (s : State) : s.YoungKept (resumeStreamRequest p r s) := by
  refine s.onBoundStream_youngKept p r _ (fun st u => ?_)
  split
  · exact .answer ((u.modStream_youngKept st _).trans (State.wakeAll_only _).youngKept) _ _ _ _
  · exact State.answer_youngKept _ _ _ _ _ _

theorem State.setProfile_youngKept (s : State) (st : StreamId) (p : Profile) (sealNow : Bool) : s.YoungKept (s.setProfile st p sealNow) := by
  unfold State.setProfile; split
  · exact s.takeProfile_youngKept st p
  · split
    · exact ((s.modStream_youngKept st _).trans (State.sealAllSlots_youngKept _ st)).trans (State.takeProfile_youngKept _ st p)
    · exact s.modStream_youngKept st _

theorem setProfileRequest_youngKept (p : MasterId) (r : Request) (s : State) : s.YoungKept (setProfileRequest p r s) := by
  refine s.onBoundStream_youngKept p r _ (fun st u => ?_)
  split
  · exact State.answer_youngKept _ _ _ _ _ _
  · next pr _ =>
    refine .answer (.trans (.thenIf ?_ ?_) (State.serveSuspended_only _).youngKept) _ _ _ _
    · exact u.setProfile_youngKept st pr _
    · exact State.examineWork_youngKept _ _

theorem setStreamRequest_youngKept (r : Request) (s : State) : s.YoungKept (setStreamRequest r s) := by
  unfold setStreamRequest; split
  · exact State.answer_youngKept _ _ _ _ _ _
  · next st _ =>
    split
    · exact State.answer_youngKept _ _ _ _ _ _
    · split
      · exact State.answer_youngKept _ _ _ _ _ _
      · next q _ =>
        have taken := (s.modStream_youngKept st (fun x => { x with tenant := q.tenant, group := q.group, target := q.target })).trans
          (State.takeProfile_youngKept _ st q.profile)
        split
        · exact State.answer_youngKept _ _ _ _ _ _
        · refine .answer ?_ _ _ _ _
          unfold State.setStream; dsimp only; split
          · exact taken
          · exact taken.trans (State.wakeAll_only _).youngKept

theorem State.acceptWrite_youngKept (s : State) (x : WriteContext) : s.YoungKept (s.acceptWrite x) :=
  ((((s.setContexts_only _).youngKept.trans (State.modStream_youngKept _ x.stream _)).trans
    (State.modStream_youngKept _ x.stream _)).trans (State.setCredit_only _ _).youngKept).trans (State.creditArrival_only _ x).youngKept

theorem writeRequest_youngKept (p : MasterId) (r : Request) (s : State) : s.YoungKept (writeRequest p r s) := by
  unfold writeRequest; split
  · exact State.answer_youngKept _ _ _ _ _ _
  · exact s.acceptWrite_youngKept _

/-! ### Requests about units -/

theorem State.invalidateUnit_youngKept (s : State) (u n : Nat) (r : UnitRecord) : s.YoungKept (s.invalidateUnit u n r) := by
  refine .thenIf (s.lowerValid_only u n).youngKept ?_
  refine .trans ?_ (State.checkEmpty_youngKept _ u)
  exact .thenIf (.refl _) (State.wakeUnit_only _ u).youngKept

theorem State.invalidatePair_youngKept (s : State) (u n : Nat) : s.YoungKept (s.invalidatePair u n).1 := by
  unfold State.invalidatePair; split
  · exact .refl s
  · split
    · exact s.invalidateUnit_youngKept u n _
    · exact .refl s

theorem State.invalidatePairs_youngKept (l : List (Nat × Nat)) (s : State) : s.YoungKept (s.invalidatePairs l).1 := by
  induction l generalizing s with
  | nil => exact .refl s
  | cons x l ih => exact (s.invalidatePair_youngKept x.1 x.2).trans (ih _)

theorem invalidateRequest_youngKept (r : Request) (s : State) : s.YoungKept (invalidateRequest r s) := by
  unfold invalidateRequest; split
  · exact State.answer_youngKept _ _ _ _ _ _
  · exact (State.invalidatePairs_youngKept r.pairs s).answer _ _ _ _

theorem State.drainUnit_youngKept (s : State) (k : NoticeRef) (u : Nat) : s.YoungKept (s.drainUnit k u) :=
  ((s.setOrder_only k none).youngKept.trans (State.modUnit_only _ u _).youngKept).trans (State.leaveForErase_youngKept _ u)

theorem unitDrainedRequest_youngKept (p : MasterId) (r : Request) (s : State) : s.YoungKept (unitDrainedRequest p r s) := by
  unfold unitDrainedRequest; split
  · exact State.answer_youngKept _ _ _ _ _ _
  · split
    · exact (s.drainUnit_youngKept _ _).answer _ _ _ _
    · split <;> exact State.answer_youngKept _ _ _ _ _ _

theorem holdRequest_youngKept (f : Hold → Hold) (r : Request) (s : State) : s.YoungKept (holdRequest f r s) := by
  unfold holdRequest; split
  · exact State.answer_youngKept _ _ _ _ _ _
  · split <;> exact State.answer_youngKept _ _ _ _ _ _

theorem State.liftHold_youngKept (s : State) (u : Nat) : s.YoungKept (s.liftHold u) :=
  (s.modUnit_only u _).youngKept.trans (State.wakeCheck_youngKept _ u)

theorem releaseRequest_youngKept (level : LineLevel) (r : Request) (s : State) : s.YoungKept (releaseRequest level r s) := by
  have lifted := State.liftHold_youngKept { s with inputs := { s.inputs with retainN := level } } r.unit
  unfold releaseRequest; dsimp only; split
  · exact State.answer_youngKept _ _ _ _ _ _
  · split
    · exact State.answer_youngKept _ _ _ _ _ _
    · exact lifted.answer _ _ _ _
    · exact lifted.answer _ _ _ _
    all_goals exact State.answer_youngKept _ _ _ _ _ _

theorem queryUnitRequest_youngKept (r : Request) (s : State) : s.YoungKept (queryUnitRequest r s) := by
  unfold queryUnitRequest; split <;> exact State.answer_youngKept _ _ _ _ _ _

/-! ### Read windows -/

theorem readWindowRequest_youngKept (p : MasterId) (r : Request) (s : State) : s.YoungKept (readWindowRequest p r s) := by
  unfold readWindowRequest; split
  · exact State.answer_youngKept _ _ _ _ _ _
  · split
    · split
      · exact State.answer_youngKept _ _ _ _ _ _
      · exact (s.modDie_only _ _).youngKept.trans (State.trigger_only _ _ _).youngKept
    · exact State.answer_youngKept _ _ _ _ _ _

theorem endWindowRequest_youngKept (p : MasterId) (r : Request) (s : State) : s.YoungKept (endWindowRequest p r s) := by
  unfold endWindowRequest; split
  · exact State.answer_youngKept _ _ _ _ _ _
  · split
    · exact ((s.modDie_only _ _).youngKept.trans (State.serveSuspended_only _).youngKept).answer _ _ _ _
    · exact State.answer_youngKept _ _ _ _ _ _
    · split <;> exact State.answer_youngKept _ _ _ _ _ _

/-! ### Requests that configure and restore -/

theorem setGeometryRequest_youngKept (r : Request) (s : State) : s.YoungKept (setGeometryRequest r s) := by
  unfold setGeometryRequest; split
  · split <;> exact State.answer_youngKept _ _ _ _ _ _
  · exact State.answer_youngKept _ _ _ _ _ _

theorem State.setGroups_only (s : State) (g : Table 8 (Option Group)) : s.Only [.groups] { s with groups := g } := by
  intro f hf; cases f <;> first | rfl | simp at hf

theorem State.setGroup_youngKept (s : State) (g : GroupId) (c : GroupConfig) : s.YoungKept (s.setGroup g c) :=
  ((s.resetOrders_youngKept g).trans (State.setGroups_only _ _).youngKept).trans (State.evaluateActivity_only _ g).youngKept

theorem setGroupRequest_youngKept (r : Request) (s : State) : s.YoungKept (setGroupRequest r s) := by
  unfold setGroupRequest; dsimp only; split
  · exact State.answer_youngKept _ _ _ _ _ _
  · split
    · exact State.answer_youngKept _ _ _ _ _ _
    · split
      · split
        · exact State.answer_youngKept _ _ _ _ _ _
        · exact (s.setGroup_youngKept _ _).answer _ _ _ _
      · exact State.answer_youngKept _ _ _ _ _ _

theorem setTimebaseRequest_youngKept (r : Request) (s : State) : s.YoungKept (setTimebaseRequest r s) := by
  unfold setTimebaseRequest; split <;> exact State.answer_youngKept _ _ _ _ _ _

theorem State.setTenant_youngKept (s : State) (t : Tenant) (metered : Bool) (rate ceiling : Nat) :
    s.YoungKept (s.setTenant t metered rate ceiling) := by
  have set := ((s.settleCredit_only t).youngKept.trans (State.modTenant_only _ t (fun r => { r with
    metered := metered, rate := rate, ceiling := ceiling })).youngKept).trans (State.modBalance_only _ t (fun b => min b ceiling)).youngKept
  unfold State.setTenant; dsimp only; split
  · exact set
  · exact set.trans (State.admitTenant_only _ t).youngKept

theorem setTenantRequest_youngKept (r : Request) (s : State) : s.YoungKept (setTenantRequest r s) := by
  unfold setTenantRequest; split
  · exact State.answer_youngKept _ _ _ _ _ _
  · split
    · exact State.answer_youngKept _ _ _ _ _ _
    · split
      · exact (s.setTenant_youngKept _ _ _ _).answer _ _ _ _
      · exact State.answer_youngKept _ _ _ _ _ _

theorem seekUnitsRequest_youngKept (r : Request) (s : State) : s.YoungKept (seekUnitsRequest r s) := by
  unfold seekUnitsRequest; split
  · exact State.answer_youngKept _ _ _ _ _ _
  · split <;> exact State.answer_youngKept _ _ _ _ _ _

theorem State.applyRecord_youngKept (s : State) (u : Nat) (r : UnitRecord) : s.YoungKept (s.applyRecord u r) := by
  have replaced := (((s.removeFree_only u).youngKept.trans (State.leaveYoung_youngKept _ u)).trans
    (State.dropBackground_only _ u).youngKept).trans (State.replaceUnit_only _ u r).youngKept
  refine .trans ?_ (State.reportCounts_only _ u).youngKept
  split
  · exact replaced.trans (State.insertFree_only _ u).youngKept
  · exact replaced.trans (State.handBackground_only _ u).youngKept
  · exact replaced

theorem State.loadRecord_youngKept (s : State) (l : LoadedRecord) : s.YoungKept (s.loadRecord l).1 := by
  unfold State.loadRecord; dsimp only; split
  · exact (s.modMgmt_only _).youngKept
  · split
    · exact (s.modMgmt_only _).youngKept
    · exact (s.applyRecord_youngKept _ _).trans (State.modMgmt_only _ _).youngKept
  · exact (s.modMgmt_only _).youngKept

theorem State.loadRecords_youngKept (l : List LoadedRecord) (s : State) : s.YoungKept (s.loadRecords l).1 := by
  induction l generalizing s with
  | nil => exact .refl s
  | cons x l ih => exact (s.loadRecord_youngKept x).trans (ih _)

theorem loadUnitsRequest_youngKept (r : Request) (s : State) : s.YoungKept (loadUnitsRequest r s) := by
  unfold loadUnitsRequest; split
  · exact State.answer_youngKept _ _ _ _ _ _
  · split
    · exact State.answer_youngKept _ _ _ _ _ _
    · exact (State.loadRecords_youngKept r.loadedRecords s).answer _ _ _ _

/-! ### Requests that read back and steer -/

theorem readUnitRequest_youngKept (r : Request) (s : State) : s.YoungKept (readUnitRequest r s) := by
  unfold readUnitRequest; split
  · exact State.answer_youngKept _ _ _ _ _ _
  · split <;> exact State.answer_youngKept _ _ _ _ _ _

theorem readStreamRequest_youngKept (r : Request) (s : State) : s.YoungKept (readStreamRequest r s) := by
  unfold readStreamRequest; split <;> exact State.answer_youngKept _ _ _ _ _ _

theorem readTenantRequest_youngKept (r : Request) (s : State) : s.YoungKept (readTenantRequest r s) := by
  unfold readTenantRequest; split <;> exact State.answer_youngKept _ _ _ _ _ _

theorem getStatusRequest_youngKept (level : LineLevel) (r : Request) (s : State) : s.YoungKept (getStatusRequest level r s) := by
  unfold getStatusRequest; dsimp only; split <;> exact State.answer_youngKept _ _ _ _ _ _

theorem State.fillQueues_only (s : State) : s.Only [.dies] s.fillQueues := .foldl _ _ _ State.fillQueue_only s

theorem State.issueAgain_only (s : State) : s.Only [.groups] s.issueAgain := by
  unfold State.issueAgain; split
  · exact s.setGroups_only _
  · exact .refl s _

theorem State.startRunning_youngKept (s : State) : s.YoungKept s.startRunning :=
  ((((s.modMgmt_only _).youngKept.trans (State.fillQueues_only _).youngKept).trans (State.issueAgain_only _).youngKept).trans
    (State.examineWork_youngKept _ _)).trans (State.serveSuspended_only _).youngKept

theorem runRequest_youngKept (r : Request) (s : State) : s.YoungKept (runRequest r s) := by
  unfold runRequest; split
  · exact State.answer_youngKept _ _ _ _ _ _
  · split
    · exact s.startRunning_youngKept.answer _ _ _ _
    · exact State.answer_youngKept _ _ _ _ _ _

theorem State.endHalt_youngKept (s : State) (pl : Pledge) : s.YoungKept (s.endHalt pl) :=
  ((s.modMgmt_only _).youngKept.trans (State.modMgmt_only _ _).youngKept).trans (State.replyManagement_only _ _ _ _ _ _ _).youngKept

theorem State.startHalt_youngKept (s : State) (pl : Pledge) : s.YoungKept (s.startHalt pl) := by
  have halting := (s.stopIssue_only.youngKept.trans (State.modMgmt_only _ (fun m => { m with device := .halting })).youngKept).trans
    (State.modMgmt_only _ (fun m => { m with haltReply := some pl })).youngKept
  unfold State.startHalt; dsimp only; split
  · exact halting.trans (State.endHalt_youngKept _ pl)
  · exact halting.trans (State.serveSuspended_only _).youngKept

theorem haltRequest_youngKept (r : Request) (s : State) : s.YoungKept (haltRequest r s) := by
  unfold haltRequest; split
  · exact s.startHalt_youngKept _
  all_goals exact State.answer_youngKept _ _ _ _ _ _

theorem fencePortRequest_youngKept (r : Request) (s : State) : s.YoungKept (fencePortRequest r s) := by
  unfold fencePortRequest; split
  · exact State.answer_youngKept _ _ _ _ _ _
  · next p _ =>
    have due := s.dueFence_youngKept p
    dsimp only; split
    · exact due.answer _ _ _ _
    · exact (due.trans (State.fence_youngKept _ p _)).answer _ _ _ _

theorem revivePortRequest_youngKept (r : Request) (s : State) : s.YoungKept (revivePortRequest r s) := by
  unfold revivePortRequest; split
  · exact State.answer_youngKept _ _ _ _ _ _
  · next p _ =>
    have due := s.dueFence_youngKept p
    dsimp only; split
    · exact due.answer _ _ _ _
    · exact (due.trans (State.modMaster_only _ p _).youngKept).answer _ _ _ _

theorem State.clearFault_youngKept (s : State) (d : DieId) : s.YoungKept (s.clearFault d) := by
  have cleared := (s.modDie_only d (fun r => { r with
    state := .idle, backlogs := Table.replicate 7 [], passOver := Table.replicate 7 0, queue := [] })).youngKept.trans
    (State.fillQueue_only _ d).youngKept
  unfold State.clearFault; dsimp only; split
  · exact ((cleared.trans (State.wakeGroup_only _ _).youngKept).trans (State.examineWork_youngKept _ _)).trans
      (State.serveSuspended_only _).youngKept
  · exact cleared

theorem clearDieFaultRequest_youngKept (r : Request) (s : State) : s.YoungKept (clearDieFaultRequest r s) := by
  unfold clearDieFaultRequest; split
  · exact State.answer_youngKept _ _ _ _ _ _
  · split
    · exact (s.clearFault_youngKept _).answer _ _ _ _
    · exact State.answer_youngKept _ _ _ _ _ _

theorem cancelOrdersRequest_youngKept (r : Request) (s : State) : s.YoungKept (cancelOrdersRequest r s) := by
  unfold cancelOrdersRequest; split
  · exact State.answer_youngKept _ _ _ _ _ _
  · exact (State.YoungKept.foldl State.cancelSlot_youngKept allSlots s).answer _ _ _ _

/-! ### Notices, settings and the other requests -/

theorem setTimersRequest_youngKept (r : Request) (s : State) : s.YoungKept (setTimersRequest r s) := State.answer_youngKept _ _ _ _ _ _

theorem setFilterRequest_youngKept (r : Request) (s : State) : s.YoungKept (setFilterRequest r s) := State.answer_youngKept _ _ _ _ _ _

theorem clearStatusRequest_youngKept (r : Request) (s : State) : s.YoungKept (clearStatusRequest r s) :=
  State.answer_youngKept _ _ _ _ _ _

/-! ### Completions -/

theorem State.endProgram_youngKept (s : State) (e : TagEntry) (report : PageKey → State → State)
    (h : ∀ k (u : State), u.YoungKept (report k u)) : s.YoungKept (s.endProgram e report) := by
  unfold State.endProgram; split
  · exact .refl s
  · exact ((h _ s).trans (State.modDie_only _ _ _).youngKept).trans (State.serveSuspended_only _).youngKept

theorem State.endErase_youngKept (s : State) (d : DieId) (u : Nat) (done : Bool) (l : Link → Link) :
    s.YoungKept (s.endErase d u done l) :=
  ((((s.setLink_only _).youngKept.trans (State.dieAfterErase_only _ d).youngKept).trans (State.eraseOutcome_youngKept _ u done)).trans
    (State.examineFreed_youngKept _ u)).trans (State.serveSuspended_only _).youngKept

theorem State.endCheck_youngKept (s : State) (d : DieId) (u kind : Nat) :
    s.YoungKept ((((s.dieAfterErase d).checkOutcome u kind).examineFreed u).serveSuspended) :=
  (((s.dieAfterErase_only d).youngKept.trans (State.checkOutcome_youngKept _ u kind)).trans (State.examineFreed_youngKept _ u)).trans
    (State.serveSuspended_only _).youngKept

theorem State.holdErase_youngKept (s : State) (d : DieId) : s.YoungKept (s.holdErase d) :=
  ((s.modDie_only d _).youngKept.trans (State.grantWindows_only _ d).youngKept).trans (State.serveSuspended_only _).youngKept

theorem State.takeSuspend_youngKept (s : State) (d : DieId) (kind : Nat) : s.YoungKept (s.takeSuspend d kind) := by
  unfold State.takeSuspend; split
  · split
    · split
      · exact s.holdErase_youngKept d
      · exact (s.abandonErase_only d).youngKept
    · exact .thenIf (.refl s) (s.modDie_only d _).youngKept
  · exact .refl s

/-! ### The part's own commands -/

theorem execSearchExamine_youngKept (g : GroupId) (s : State) : s.YoungKeptBy (execSearchExamine g s) := by
  unfold execSearchExamine; split
  · exact (State.YoungKept.refl s).next
  · split
    · exact (s.modReclaim_only g _).youngKept.next
    · exact .nextIf (s.modReclaim_only g _).youngKept (.refl s)

theorem State.issueOrder_youngKept (s : State) (g : GroupId) (k : OrderSlotId) (q : IssuePlan) : s.YoungKept (s.issueOrder g k q) :=
  ((((s.moveToReclaim_only q.unit k).youngKept.trans (State.setReclaim_only _ _).youngKept).trans
    (State.modReclaim_only _ g _).youngKept).trans (State.setOrder_only _ _ _).youngKept).trans (State.offerNotice_only _ _ _).youngKept

theorem execOrderIssue_youngKept (g : GroupId) (s : State) : s.YoungKeptBy (execOrderIssue g s) := by
  have idle := (s.modReclaim_only g ReclaimRecord.toIdle).youngKept
  unfold execOrderIssue; split
  · exact (State.YoungKept.refl s).next
  · split
    · split
      · split
        · exact (s.issueOrder_youngKept g _ _).next
        · exact idle.next
      · exact idle.next
    · exact (State.YoungKept.refl s).next

theorem State.offerErase_youngKept (s : State) (d : DieId) : s.YoungKept (s.offerErase d) := by
  unfold State.offerErase; dsimp only; split
  · exact (s.suspendToAbandon_only d _).youngKept
  · exact .thenIf (.refl s) (s.trigger_only d _).youngKept

theorem State.offerDie_youngKept (s : State) (d : DieId) : s.YoungKept (s.offerDie d) := by
  unfold State.offerDie; split
  · exact (s.arbitrateDie_only d _).youngKept
  · exact s.offerErase_youngKept d
  · exact (s.serveDie_only d _).youngKept
  all_goals exact .refl s

theorem execWaitingDieOffer_youngKept (s : State) : s.YoungKeptBy (execWaitingDieOffer s) := by
  unfold execWaitingDieOffer; split
  · exact (State.YoungKept.refl s).next
  · exact .nextIf ((s.setLink_only _).youngKept.trans (State.offerDie_youngKept _ _)) (.refl s)

theorem execDescriptorSend_youngKept (s : State) : s.YoungKeptBy (execDescriptorSend s) := by
  unfold execDescriptorSend; split
  · exact (State.YoungKept.refl s).next
  · exact (s.setLink_only _).youngKept.next

theorem execPlacePage_youngKept (st : StreamId) (cls : WriteClass) (s : State) : s.YoungKeptBy (execPlacePage st cls s) := by
  have settled := s.settleSlots_youngKept st
  unfold execPlacePage; dsimp only; split
  · exact settled.next
  · exact .nextIf ((settled.trans (State.attemptFresh_youngKept _ st _)).trans (State.serveSuspended_only _).youngKept) settled

theorem execReplacePage_youngKept (st : StreamId) (s : State) : s.YoungKeptBy (execReplacePage st s) := by
  have settled := s.settleSlots_youngKept st
  unfold execReplacePage; dsimp only; split
  · exact settled.next
  · exact .nextIf ((settled.trans (State.attemptReplace_youngKept _ st)).trans (State.serveSuspended_only _).youngKept) settled

theorem execWriteEnd_youngKept (p : MasterId) (slot : ReplySlot) (s : State) : s.YoungKeptBy (execWriteEnd p slot s) := by
  unfold execWriteEnd; split
  · exact (State.YoungKept.refl s).next
  · exact .nextIf (s.endRequest_youngKept _) (.refl s)

/-! ### Port memory -/

theorem execRequestTailWrite_youngKept (p : PortId) (w : IndexWrite) (s : State) : s.YoungKeptBy (execRequestTailWrite p w s) := by
  have held := (s.settlePort_youngKept p).trans (State.modRing_only _ p (fun r => r.holdIndex requestTailOffset w)).youngKept
  unfold execRequestTailWrite
  exact .nextIf (held.trans (State.modRing_only _ p _).youngKept) held

theorem State.noticesFreed_only (s : State) (p : PortId) : s.Only [.groups, .reclaim, .masters] (s.noticesFreed p) := by
  cases p with
  | master p => exact State.flushNotices_only _ s p
  | management => exact .refl s _

theorem State.heard_only (s : State) (p : PortId) : s.Only [.masters] (s.heard p) := by
  cases p with
  | master p => exact s.modMaster_only p _
  | management => exact .refl s _

theorem execReplyHeadWrite_youngKept (p : PortId) (w : IndexWrite) (s : State) : s.YoungKeptBy (execReplyHeadWrite p w s) := by
  have held := (s.settlePort_youngKept p).trans (State.modRing_only _ p (fun r => r.holdIndex replyHeadOffset w)).youngKept
  unfold execReplyHeadWrite; dsimp only; split
  · exact .nextIf (held.trans (((State.modRing_only _ p _).youngKept.trans (State.heard_only _ p).youngKept).trans
      (State.noticesFreed_only _ p).youngKept)) (held.trans (State.modRing_only _ p _).youngKept)
  · exact held.next

theorem execOtherMemoryWrite_youngKept (p : PortId) (offset : Nat) (bytes : List Byte) (s : State) :
    s.YoungKeptBy (execOtherMemoryWrite p offset bytes s) := by
  unfold execOtherMemoryWrite; split
  · rintro _ ⟨⟩
  · exact .nextIf (.refl s) (s.modRing_only p _).youngKept

/-! ### Lines and time -/

theorem execDeviceReset_youngKept (s : State) : s.YoungKeptBy (execDeviceReset s) := by
  rintro t ⟨⟩ st -
  have empty : ∀ u : State, u.streams = State.reset.streams → (u.streams.get st).young.length ≤ Config.youngLimit := fun u hu => by
    simp [hu, State.reset, StreamRecord.reset]
  split
  · exact empty _ rfl
  · exact empty _ rfl

theorem State.plwDie_youngKept (s : State) (d : DieId) : s.YoungKept (s.plwDie d) := by
  unfold State.plwDie; dsimp only; split
  · split
    · exact (s.suspendToAbandon_only d _).youngKept
    · exact (s.modDie_only d _).youngKept.trans (State.joinWaiting_only _ d).youngKept
  · exact (s.abandonErase_only d).youngKept
  · exact .refl s

theorem State.plwQueue_youngKept (s : State) (d : DieId) : s.YoungKept (s.plwQueue d) :=
  (s.modDie_only d _).youngKept.trans (State.abandonUnits_only _ _).youngKept

theorem State.plwDies_youngKept (l : List DieId) (s : State) : s.YoungKept (l.foldl (fun s d => (s.plwDie d).plwQueue d) s) := by
  refine .foldl ?_ l s
  intro u d
  exact (u.plwDie_youngKept d).trans (State.plwQueue_youngKept _ d)

theorem State.setInputs_only (s : State) (i : InputLines) : s.Only [.inputs] { s with inputs := i } := by
  intro f hf; cases f <;> first | rfl | simp at hf

theorem execPlwNAsserted_youngKept (s : State) : s.YoungKeptBy (execPlwNAsserted s) := by
  unfold execPlwNAsserted
  have low := (((s.setInputs_only { s.inputs with plwN := .low }).youngKept.trans (State.flagPlw_only _).youngKept).trans
    (State.stopIssue_only _).youngKept)
  exact .nextIf (.refl s) (low.trans (State.plwDies_youngKept _ _))

theorem execPlwNDeasserted_youngKept (s : State) : s.YoungKeptBy (execPlwNDeasserted s) := by
  unfold execPlwNDeasserted
  exact .nextIf (((s.setInputs_only _).youngKept.trans (State.fillQueues_only _).youngKept).trans (State.issueAgain_only _).youngKept)
    (.refl s)

/-- A tick changes open slots, and no young list (R57). -/
theorem execTick_youngKept (s : State) : s.YoungKeptBy (execTick s) := by
  have settled : s.settleRefills.streams = s.streams := s.settleRefills_only .streams (by decide)
  unfold execTick
  refine State.YoungKept.next (fun st h => ?_)
  simpa [settled] using h

theorem execEpochAdvance_youngKept (s : State) : s.YoungKeptBy (execEpochAdvance s) := by
  unfold execEpochAdvance
  exact .nextIf (.of_streams rfl) (.refl s)

theorem execOrderExpiry_youngKept (g : GroupId) (k : OrderSlotId) (s : State) : s.YoungKeptBy (execOrderExpiry g k s) := by
  unfold execOrderExpiry; split
  · exact .nextIf (s.closeOrder_youngKept _ _ _) (.refl s)
  · exact (State.YoungKept.refl s).next

theorem execWindowExpiry_youngKept (d : DieId) (p : MasterId) (s : State) : s.YoungKeptBy (execWindowExpiry d p s) := by
  unfold execWindowExpiry
  exact .nextIf ((s.modDie_only d _).youngKept.trans (State.serveSuspended_only _).youngKept) (.refl s)

theorem State.faultUnit_youngKept (s : State) (u : Nat) : s.YoungKept (s.faultUnit u) := by
  unfold State.faultUnit; split
  · exact s.programFailed_youngKept _
  · split
    · split
      · split
        · split
          · exact s.sealSlot_youngKept _ _
          · exact .refl s
        · exact .refl s
      · exact .refl s
    · exact .refl s

theorem State.faultBackground_youngKept (s : State) (d : DieId) (running : Option Nat) : s.YoungKept (s.faultBackground d running) :=
  (s.modDie_only d _).youngKept.trans (State.abandonUnits_only _ _).youngKept

theorem State.faultDie_youngKept (s : State) (d : DieId) (op : Operation) : s.YoungKept (s.faultDie d op) :=
  ((((((s.modDie_only d _).youngKept.trans (State.setLink_only _ _).youngKept).trans (.foldl State.faultUnit_youngKept _ _)).trans
    (State.faultBackground_youngKept _ d _)).trans (State.grantWindows_only _ d).youngKept).trans
    (State.flagDieFault_only _ d _).youngKept).trans (State.offerManagement_only _ _ _).youngKept

theorem execDieFault_youngKept (d : DieId) (s : State) : s.YoungKeptBy (execDieFault d s) := by
  unfold execDieFault; dsimp only; split
  · exact .nextIf (s.faultDie_youngKept d _) (.refl s)
  · exact (State.YoungKept.refl s).next

theorem execHaltComplete_youngKept (s : State) : s.YoungKeptBy (execHaltComplete s) := by
  unfold execHaltComplete; split
  · exact .nextIf (s.endHalt_youngKept _) (.refl s)
  · exact (State.YoungKept.refl s).next

theorem execArbitrate_youngKept (d : DieId) (s : State) : s.YoungKeptBy (execArbitrate d s) := by
  unfold execArbitrate
  exact .nextIf (s.arbitrateDie_only d _).youngKept (.refl s)

theorem execWindowGrant_youngKept (d : DieId) (s : State) : s.YoungKeptBy (execWindowGrant d s) := by
  unfold execWindowGrant
  exact .nextIf (s.grantWindows_only d).youngKept (.refl s)

theorem execDrainEnd_youngKept (st : StreamId) (s : State) : s.YoungKeptBy (execDrainEnd st s) := by
  unfold execDrainEnd
  exact .nextIf (s.endDrain_youngKept st) (.refl s)

theorem execStrayCompletion_youngKept (c : Completion) (s : State) : s.YoungKeptBy (execStrayCompletion c s) := by
  unfold execStrayCompletion; split
  · exact (State.YoungKept.refl s).next
  · exact (s.flagStray_only.youngKept.trans (State.offerManagement_only _ _ _).youngKept).next

/-! ### Every command -/

theorem State.onManagement_youngKept (s : State) (kind : Nat) (act : Request → State → State)
    (h : ∀ r (u : State), u.YoungKept (act r u)) : s.YoungKeptBy (s.onManagement kind act) := s.onRequest_youngKept _ _ act h

/-- Every command keeps the young lists. -/
theorem exec_youngKept (c : Instr) (s : State) : s.YoungKeptBy (exec c s) := by
  cases c <;> dsimp only [exec]
  case deviceReset => exact execDeviceReset_youngKept s
  case plwNAsserted => exact execPlwNAsserted_youngKept s
  case plwNDeasserted => exact execPlwNDeasserted_youngKept s
  case tick => exact execTick_youngKept s
  case epochAdvance => exact execEpochAdvance_youngKept s
  case creditAdmission t => exact (s.examineCredit_only t).youngKept.next
  case idleSeal st q => exact (s.dueSeal_youngKept st q).next
  case orderExpiry g k => exact execOrderExpiry_youngKept g k s
  case windowExpiry d p => exact execWindowExpiry_youngKept d p s
  case dieFault d => exact execDieFault_youngKept d s
  case inactivityFence p => exact (s.dueFence_youngKept p).next
  case requestTailWrite p w => exact execRequestTailWrite_youngKept p w s
  case replyHeadWrite p w => exact execReplyHeadWrite_youngKept p w s
  case otherMemoryWrite p offset bytes => exact execOtherMemoryWrite_youngKept p offset bytes s
  case noticeWrite p => exact (s.writeOldest_only p).youngKept.next
  case openStream p => exact s.onRequest_youngKept _ _ _ (openStreamRequest_youngKept p)
  case closeStream p => exact s.onRequest_youngKept _ _ _ (closeStreamRequest_youngKept p)
  case drainStream p => exact s.onRequest_youngKept _ _ _ (drainStreamRequest_youngKept p)
  case drainEnd st => exact execDrainEnd_youngKept st s
  case resumeStream p => exact s.onRequest_youngKept _ _ _ (resumeStreamRequest_youngKept p)
  case setProfile p => exact s.onRequest_youngKept _ _ _ (setProfileRequest_youngKept p)
  case write p => exact s.onRequest_youngKept _ _ _ (writeRequest_youngKept p)
  case placePage st cls => exact execPlacePage_youngKept st cls s
  case replacePage st => exact execReplacePage_youngKept st s
  case invalidate p => exact s.onRequest_youngKept _ _ _ invalidateRequest_youngKept
  case unitDrained p => exact s.onRequest_youngKept _ _ _ (unitDrainedRequest_youngKept p)
  case hold p => exact s.onRequest_youngKept _ _ _ (holdRequest_youngKept _)
  case fix p => exact s.onRequest_youngKept _ _ _ (holdRequest_youngKept _)
  case release p level => exact s.onRequest_youngKept _ _ _ (releaseRequest_youngKept level)
  case readWindow p => exact s.onRequest_youngKept _ _ _ (readWindowRequest_youngKept p)
  case windowGrant d => exact execWindowGrant_youngKept d s
  case endWindow p => exact s.onRequest_youngKept _ _ _ (endWindowRequest_youngKept p)
  case ping p => exact s.onRequest_youngKept _ _ _ (fun r u => u.answer_youngKept u r _ _ _)
  case queryUnit p => exact s.onRequest_youngKept _ _ _ queryUnitRequest_youngKept
  case unknownMasterRequest p => exact s.onRequest_youngKept _ _ _ (fun r u => u.answer_youngKept u r _ _ _)
  case setGeometry => exact s.onManagement_youngKept _ _ setGeometryRequest_youngKept
  case setGroup => exact s.onManagement_youngKept _ _ setGroupRequest_youngKept
  case setTimebase => exact s.onManagement_youngKept _ _ setTimebaseRequest_youngKept
  case setTimers => exact s.onManagement_youngKept _ _ setTimersRequest_youngKept
  case setTenant => exact s.onManagement_youngKept _ _ setTenantRequest_youngKept
  case setStream => exact s.onManagement_youngKept _ _ setStreamRequest_youngKept
  case setFilter => exact s.onManagement_youngKept _ _ setFilterRequest_youngKept
  case seekUnits => exact s.onManagement_youngKept _ _ seekUnitsRequest_youngKept
  case loadUnits => exact s.onManagement_youngKept _ _ loadUnitsRequest_youngKept
  case readUnit => exact s.onManagement_youngKept _ _ readUnitRequest_youngKept
  case readStream => exact s.onManagement_youngKept _ _ readStreamRequest_youngKept
  case readTenant => exact s.onManagement_youngKept _ _ readTenantRequest_youngKept
  case getStatus level => exact s.onManagement_youngKept _ _ (getStatusRequest_youngKept level)
  case clearStatus => exact s.onManagement_youngKept _ _ clearStatusRequest_youngKept
  case run => exact s.onManagement_youngKept _ _ runRequest_youngKept
  case halt => exact s.onManagement_youngKept _ _ haltRequest_youngKept
  case haltComplete => exact execHaltComplete_youngKept s
  case fencePort => exact s.onManagement_youngKept _ _ fencePortRequest_youngKept
  case revivePort => exact s.onManagement_youngKept _ _ revivePortRequest_youngKept
  case clearDieFault => exact s.onManagement_youngKept _ _ clearDieFaultRequest_youngKept
  case cancelOrders => exact s.onManagement_youngKept _ _ cancelOrdersRequest_youngKept
  case unknownMgmtRequest => exact s.onRequest_youngKept _ _ _ (fun r u => u.answer_youngKept u r _ _ _)
  case searchExamine g => exact execSearchExamine_youngKept g s
  case orderIssue g => exact execOrderIssue_youngKept g s
  case arbitrate d => exact execArbitrate_youngKept d s
  case queueFill d => exact (s.fillQueue_only d).youngKept.next
  case waitingDieOffer => exact execWaitingDieOffer_youngKept s
  case descriptorSend => exact execDescriptorSend_youngKept s
  case programDone c => exact s.onCompletion_youngKept c _ _ _ (fun e u => u.endProgram_youngKept e _ (fun k v => v.pageDone_youngKept k))
  case programFail c => exact s.onCompletion_youngKept c _ _ _ (fun e u => u.endProgram_youngKept e _ (fun k v => v.programFailed_youngKept k))
  case writeEnd p slot => exact execWriteEnd_youngKept p slot s
  case eraseCompletion c => exact s.onCompletion_youngKept c _ _ _ (fun e u => u.endErase_youngKept _ _ _ _)
  case checkCompletion c => exact s.onCompletion_youngKept c _ _ _ (fun e u => u.endCheck_youngKept _ _ _)
  case suspendAnswer c => exact s.onCompletion_youngKept c _ _ _ (fun e u => by split; exacts [.refl u, u.takeSuspend_youngKept _ _])
  case resumeAnswer c => exact s.onCompletion_youngKept c _ _ _ (fun e u => .thenIf (.refl u) (u.endErase_youngKept _ _ _ _))
  case strayCompletion c => exact execStrayCompletion_youngKept c s

theorem clockPeriod_youngKept (s : State) : s.YoungKeptBy s.clockPeriod := by
  unfold State.clockPeriod; split
  · exact State.YoungKept.next (.of_streams rfl)
  · exact execTick_youngKept s

/-- Settles O3: a step is the command in front of the queue, or a REFCLK period. -/
theorem stepKeepsYoungLists : Obligations.StepKeepsYoungLists := by
  unfold Obligations.StepKeepsYoungLists
  intro s t hs ht
  unfold step at ht; split at ht
  · exact (clockPeriod_youngKept s t ht).legal hs
  · next c rest _ => exact (exec_youngKept c { s with pending := rest } t ht).legal hs

end Sys2Proof.Machine
end

section
/-!
PROOFS. Stream requests of a master (chapter 2): the checks of R24, OPEN_STREAM (R26), RESUME_STREAM (R30) and what both report to every
group (R92).
-/

namespace Sys2Proof.Machine

/-! ## The checks of R24 -/

/-- A request whose stream number is above 255, or whose stream is bound to another port or to none, is answered with the status of the
check that fails. -/
theorem State.onBoundStream_refused (s : State) (p : MasterId) (r : Request) (act : StreamId → State → State) :
    (r.stream = none → s.onBoundStream p r act = r.answer s .badStream) ∧
    (∀ st, r.stream = some st → (s.streams.get st).port ≠ some p → s.onBoundStream p r act = r.answer s .notBound) := by
  refine ⟨fun h => ?_, fun st h hp => ?_⟩
  · simp only [State.onBoundStream, State.boundStream, h]
  · simp only [State.onBoundStream, State.boundStream, h, if_neg hp]

/-- What CLOSE-STREAM does once the checks of R24 are passed (R27). -/
def closeStreamAct (r : Request) (st : StreamId) (s : State) : State :=
  if (s.streams.get st).closable then r.answer (s.closeStream st) .ok else r.answer s .streamState

/-- What DRAIN-STREAM does once the checks of R24 are passed (R28). -/
def drainStreamAct (r : Request) (st : StreamId) (s : State) : State :=
  if (s.streams.get st).state = .opened then
    let s := s.startDrain st ⟨r.slot, r.tag⟩
    if (s.streams.get st).outstanding = 0 then s.endDrain st else s
  else r.answer s .streamState

/-- What RESUME-STREAM does once the checks of R24 are passed (R30). -/
def resumeStreamAct (r : Request) (st : StreamId) (s : State) : State :=
  if (s.streams.get st).state = .quiesced then
    r.answer (s.modStream st (fun x => { x with state := .opened })).wakeAll .ok
  else r.answer s .streamState

/-- What SET-PROFILE does once the checks of R24 are passed (R34, R55). -/
def setProfileAct (r : Request) (st : StreamId) (s : State) : State :=
  match r.profile with
  | none => r.answer s .badRequest
  | some pr =>
    let s := s.setProfile st pr r.sealNow
    let s := if (s.streams.get st).pendingProfile.isNone then s.examineStream st else s
    r.answer s.serveSuspended .ok

/-- A command takes the requests of a kind and makes the checks of R24 before an act. -/
def ChecksStream (c : Instr) (p : MasterId) (k : Nat) (act : Request → StreamId → State → State) : Prop :=
  ∀ s, exec c s = s.onRequest (.master p) (fun x => decide (x = k)) (fun r u => u.onBoundStream p r (act r))

theorem closeStream_checks (p : MasterId) : ChecksStream (.closeStream p) p kindCloseStream closeStreamAct := fun _ => rfl
theorem drainStream_checks (p : MasterId) : ChecksStream (.drainStream p) p kindDrainStream drainStreamAct := fun _ => rfl
theorem resumeStream_checks (p : MasterId) : ChecksStream (.resumeStream p) p kindResumeStream resumeStreamAct := fun _ => rfl
theorem setProfile_checks (p : MasterId) : ChecksStream (.setProfile p) p kindSetProfile setProfileAct := fun _ => rfl

/-- A command that makes the checks of R24 refuses as they say, and changes nothing but the port's rings. -/
theorem ChecksStream.refused {c : Instr} {p : MasterId} {k : Nat} {act : Request → StreamId → State → State}
    (hc : ChecksStream c p k act) (s : State) (hr : s.Ready (.master p) k) :
    ((s.headRequest (.master p)).stream = none →
      ∃ t, exec c s = .next t ∧ s.OnlyAnswered (.master p) .badStream [] [] t) ∧
    (∀ st, (s.headRequest (.master p)).stream = some st → (s.streams.get st).port ≠ some p →
      ∃ t, exec c s = .next t ∧ s.OnlyAnswered (.master p) .notBound [] [] t) := by
  have taken := exec_of_kind s (.master p) k _ c (hc s) hr
  obtain ⟨bad, notBound⟩ := (s.taken (.master p)).onBoundStream_refused p (s.headRequest (.master p)) (act (s.headRequest (.master p)))
  refine ⟨fun h => ?_, fun st h hp => ?_⟩
  · exact onlyAnswered_of_exec (taken.trans (congrArg _ (bad h)))
  · exact onlyAnswered_of_exec (taken.trans (congrArg _ (notBound st h (by rw [State.taken_streams]; exact hp))))

/-- Settles O26: each of the four commands makes the checks of `State.onBoundStream`. -/
theorem streamChecksRefuse : Obligations.StreamChecksRefuse := by
  unfold Obligations.StreamChecksRefuse
  intro p s k c hc hr
  simp only [List.mem_cons, Prod.mk.injEq, List.not_mem_nil, or_false] at hc
  rcases hc with ⟨rfl, rfl⟩ | ⟨rfl, rfl⟩ | ⟨rfl, rfl⟩ | ⟨rfl, rfl⟩
  · exact (closeStream_checks p).refused s hr
  · exact (drainStream_checks p).refused s hr
  · exact (resumeStream_checks p).refused s hr
  · exact (setProfile_checks p).refused s hr

/-! ## What an opening reports -/

/-- A wake event for every group wakes each one's reclaim record and leaves its configuration (R92). -/
theorem State.wakeAll_groups (s : State) (g : GroupId) :
    s.wakeAll.reclaimOf g = (s.reclaimOf g).map ReclaimRecord.wake ∧ s.wakeAll.config g = s.config g := by
  simp only [State.reclaimOf, State.config, State.wakeAll, Table.get_map]
  cases s.groups.get g <;> exact ⟨rfl, rfl⟩

/-- A request that is answered on a state whose groups are as before, less a wake event for each. -/
theorem Request.answer_wakeAll_groups (r : Request) (s u : State) (h : u.groups = s.groups) (status : Status) (g : GroupId) :
    (r.answer u.wakeAll status).reclaimOf g = (s.reclaimOf g).map ReclaimRecord.wake ∧
    (r.answer u.wakeAll status).config g = s.config g := by
  have answered := r.answer_groups u.wakeAll status [] []
  obtain ⟨woken, kept⟩ := u.wakeAll_groups g
  simp only [State.reclaimOf, State.config] at woken kept ⊢
  rw [answered, ← h]
  exact ⟨woken, kept⟩

/-- A stream request of the port that its stream is bound to, on its way to its own rule: the request is taken and the last activity tick
set (R24, R25). -/
def State.touched (s : State) (p : MasterId) (st : StreamId) : State := (s.taken (.master p)).touchStream st

theorem State.touched_only (s : State) (p : MasterId) (st : StreamId) : s.Only [.streams, .masters] (s.touched p st) :=
  ((s.taken_only_master p).mono (by decide)).andThen (State.touchStream_only _ st)

theorem State.touched_stream (s : State) (p : MasterId) (st : StreamId) :
    (s.touched p st).streams.get st = { s.streams.get st with lastActivity := s.time.tick } := by
  rw [State.touched, State.touchStream_stream, State.taken_streams, State.taken_time]

theorem State.touched_others (s : State) (p : MasterId) (st : StreamId) : s.OtherStreams st (s.touched p st) := fun x hx => by
  simp [State.touched, State.touchStream, hx]

/-- The act of a stream request whose stream is bound to the port. -/
theorem ChecksStream.bound {c : Instr} {p : MasterId} {k : Nat} {act : Request → StreamId → State → State}
    (hc : ChecksStream c p k act) (s : State) (st : StreamId) (hr : s.Ready (.master p) k)
    (hst : (s.headRequest (.master p)).stream = some st) (hp : (s.streams.get st).port = some p) :
    exec c s = .next (act (s.headRequest (.master p)) st (s.touched p st)) :=
  (exec_of_kind s (.master p) k _ c (hc s) hr).trans
    (congrArg _ (State.onBoundStream_bound _ p _ _ st hst (by rw [State.taken_streams]; exact hp)))

/-- A stream request that its own rule refuses sets the last activity tick and nothing more (R25). -/
theorem State.touched_refused (s : State) (p : MasterId) (st : StreamId) (status : Status) :
    let t := (s.headRequest (.master p)).answer (s.touched p st) status
    s.Answered (.master p) status [] [] t ∧ t.streams.get st = { s.streams.get st with lastActivity := s.time.tick } ∧
    s.OtherStreams st t ∧ s.Only [.streams, .masters] t := by
  have answered := Request.answer_only_master (s.headRequest (.master p)) p rfl (s.touched p st) status [] []
  have streams := answered .streams (by decide)
  refine ⟨s.answered _ _ rfl rfl status [] [], ?_, fun x hx => ?_, (s.touched_only p st).andThen answered⟩
  · rw [streams, s.touched_stream]
  · rw [streams, s.touched_others p st x hx]

/-! ## OPEN-STREAM and RESUME-STREAM -/

/-- The opened stream (R26). -/
theorem openStream_opens (p : MasterId) (s : State) (st : StreamId) (hr : s.Ready (.master p) kindOpenStream)
    (hst : (s.headRequest (.master p)).stream = some st) (hb : (s.streams.get st).state.bound = false) (hp : s.placeable st = true) :
    ∃ t, exec (.openStream p) s = .next t ∧ s.Answered (.master p) .ok [] [] t ∧
      t.streams.get st = { s.streams.get st with state := .opened, port := some p, lastActivity := s.time.tick } ∧
      s.OtherStreams st t ∧
      (∀ g, t.reclaimOf g = (s.reclaimOf g).map ReclaimRecord.wake ∧ t.config g = s.config g) ∧
      s.Only [.streams, .groups, .masters] t := by
  let q := s.headRequest (.master p)
  let b := (s.touched p st).modStream st (fun r => { r with state := .opened, port := some p })
  have placeable : (s.taken (.master p)).placeable st = true := hp
  have bound : ((s.taken (.master p)).streams.get st).state.bound = false := hb
  have he : exec (.openStream p) s = .next (q.answer b.wakeAll .ok) := by
    refine (exec_of_kind s (.master p) kindOpenStream (openStreamRequest p) (.openStream p) rfl hr).trans (congrArg _ ?_)
    simp only [openStreamRequest, hst, bound, placeable, if_true, Bool.false_eq_true, if_false]
    rfl
  have bo : s.Only [.streams, .masters] b := (s.touched_only p st).andThen (State.modStream_only _ _ _)
  have answered := Request.answer_only_master q p rfl b.wakeAll .ok [] []
  have streams : (q.answer b.wakeAll .ok).streams = b.streams := answered .streams (by decide)
  refine ⟨_, he, s.answered _ _ rfl rfl .ok [] [], ?_, fun x hx => ?_,
    q.answer_wakeAll_groups s b (bo .groups (by decide)) .ok, ((bo.mono (by decide)).andThen b.wakeAll_only).andThen answered⟩
  · rw [streams, State.modStream_streams, Table.get_modify_self, s.touched_stream]
  · rw [streams, State.modStream_streams, Table.get_modify_ne _ _ _ _ hx, s.touched_others p st x hx]

/-- The stream that is open again (R30). -/
theorem resumeStream_reopens (p : MasterId) (s : State) (st : StreamId) (hr : s.Ready (.master p) kindResumeStream)
    (hst : (s.headRequest (.master p)).stream = some st) (hp : (s.streams.get st).port = some p)
    (hq : (s.streams.get st).state = .quiesced) :
    ∃ t, exec (.resumeStream p) s = .next t ∧ s.Answered (.master p) .ok [] [] t ∧
      t.streams.get st = { s.streams.get st with state := .opened, lastActivity := s.time.tick } ∧ s.OtherStreams st t ∧
      (∀ g, t.reclaimOf g = (s.reclaimOf g).map ReclaimRecord.wake ∧ t.config g = s.config g) ∧
      s.Only [.streams, .groups, .masters] t := by
  let q := s.headRequest (.master p)
  let b := (s.touched p st).modStream st (fun r => { r with state := .opened })
  have quiesced : ((s.touched p st).streams.get st).state = .quiesced := by rw [s.touched_stream]; exact hq
  have he : exec (.resumeStream p) s = .next (q.answer b.wakeAll .ok) :=
    ((resumeStream_checks p).bound s st hr hst hp).trans (congrArg _ (if_pos quiesced))
  have bo : s.Only [.streams, .masters] b := (s.touched_only p st).andThen (State.modStream_only _ _ _)
  have answered := Request.answer_only_master q p rfl b.wakeAll .ok [] []
  have streams : (q.answer b.wakeAll .ok).streams = b.streams := answered .streams (by decide)
  refine ⟨_, he, s.answered _ _ rfl rfl .ok [] [], ?_, fun x hx => ?_,
    q.answer_wakeAll_groups s b (bo .groups (by decide)) .ok, ((bo.mono (by decide)).andThen b.wakeAll_only).andThen answered⟩
  · rw [streams, State.modStream_streams, Table.get_modify_self, s.touched_stream]
  · rw [streams, State.modStream_streams, Table.get_modify_ne _ _ _ _ hx, s.touched_others p st x hx]

/-- Settles O22: the openings are the two lemmas above; the refusals follow the branches of the requests. -/
theorem openStreamBinds : Obligations.OpenStreamBinds := by
  unfold Obligations.OpenStreamBinds
  refine ⟨fun p s hr => ?_, fun p s st hr hst hp => ⟨fun hq => resumeStream_reopens p s st hr hst hp hq, fun hq => ?_⟩⟩
  · have he := exec_of_kind s (.master p) kindOpenStream (openStreamRequest p) (.openStream p) rfl hr
    refine ⟨fun st hst hb hpl => openStream_opens p s st hr hst hb hpl, fun st hst hb => ?_, fun h => ?_⟩
    · refine onlyAnswered_of_exec (he.trans (congrArg _ ?_))
      simp only [openStreamRequest, hst, State.taken_streams, hb, if_true]
      split <;> rfl
    · refine onlyAnswered_of_exec (he.trans (congrArg _ ?_))
      rcases h with hst | ⟨st, hst, hb, hpl⟩
      · simp only [openStreamRequest, hst]
      · have placeable : (s.taken (.master p)).placeable st = false := hpl
        simp only [openStreamRequest, hst, State.taken_streams, hb, placeable, Bool.false_eq_true, if_false]
  · have notQuiesced : ((s.touched p st).streams.get st).state ≠ .quiesced := by rw [s.touched_stream]; exact hq
    exact ⟨_, ((resumeStream_checks p).bound s st hr hst hp).trans (congrArg _ (if_neg notQuiesced)),
      s.touched_refused p st .streamState⟩

end Sys2Proof.Machine
end

section
/-!
PROOFS. SET_STREAM (R33, R37, R178): the checks in their order, and what a CLOSED stream takes.
-/

namespace Sys2Proof.Machine

/-- A number is read as the `Fin` of that value. -/
theorem asFin_val {n : Nat} (v : Nat) (x : Fin n) (h : v = x.val) : asFin n v = some x := by
  subst h; exact dif_pos x.isLt

theorem asFin_none {n v : Nat} (h : n ≤ v) : asFin n v = none := dif_neg (Nat.not_lt.mpr h)

/-- SET-STREAM's die group byte names a group, or none by 0xFF (R178). -/
theorem Request.streamGroup_some (r : Request) (h : r.byte 6 ≤ 7 ∨ r.byte 6 = 255) : r.streamGroup = some (asFin 8 (r.byte 6)) := by
  unfold Request.streamGroup
  rcases h with h | h
  · rw [if_neg (by omega), show asFin 8 (r.byte 6) = some ⟨r.byte 6, by omega⟩ from asFin_val _ _ rfl, Option.map_some]
  · rw [if_pos h, h]; rfl

theorem Request.streamGroup_none (r : Request) (h : 7 < r.byte 6) (hn : r.byte 6 ≠ 255) : r.streamGroup = none := by
  rw [Request.streamGroup, if_neg hn, asFin_none h, Option.map_none]

/-- Check 3 of R178 fails on a tenant above 63, on a die group above 7 that is not 0xFF, and on a profile that is none. -/
theorem Request.streamRequest_none (r : Request)
    (h : 63 < r.byte 5 ∨ (7 < r.byte 6 ∧ r.byte 6 ≠ 255) ∨ r.streamProfile = none) : r.streamRequest = none := by
  unfold Request.streamRequest
  rcases h with h | ⟨h, hn⟩ | h
  · rw [asFin_none h]
  · rw [r.streamGroup_none h hn]; split <;> simp_all
  · rw [h]; split <;> simp_all

/-- Check 3 of R178 passes with the fields of the record. -/
theorem Request.streamRequest_some (r : Request) (n : Tenant) (x : StreamId) (pr : Profile) (hn : r.byte 5 = n.val)
    (hg : r.byte 6 ≤ 7 ∨ r.byte 6 = 255) (hx : r.byte 7 = x.val) (hp : r.streamProfile = some pr) :
    r.streamRequest = some ⟨n, asFin 8 (r.byte 6), x, pr⟩ := by
  rw [Request.streamRequest, asFin_val _ n hn, r.streamGroup_some hg, asFin_val _ x hx, hp]

/-- The tenant rules of R37. -/
theorem State.tenantMismatch_iff (s : State) (st : StreamId) (q : StreamRequest) : s.tenantMismatch st q = true ↔
    (q.target ≠ st ∧ (s.streams.get q.target).tenant ≠ q.tenant) ∨
    (q.tenant ≠ (s.streams.get st).tenant ∧ ∃ y, y ≠ st ∧ (s.streams.get y).target = st) := by
  simp [State.tenantMismatch]

theorem State.takeProfile_streams (s : State) (st : StreamId) (p : Profile) :
    (s.takeProfile st p).streams = s.streams.modify st (fun r => { r with
      profile := p
      pendingProfile := none
      packCursor := lowestPosition p.mask
      spreadCursor := lowestPosition p.mask }) := rfl

/-- What a CLOSED stream takes (R33, R178). -/
theorem State.setStream_cases (s : State) (st : StreamId) (q : StreamRequest) :
    let t := s.setStream st q
    t.streams.get st = { s.streams.get st with
      tenant := q.tenant
      group := q.group
      target := q.target
      profile := q.profile
      pendingProfile := none
      packCursor := lowestPosition q.profile.mask
      spreadCursor := lowestPosition q.profile.mask } ∧
    s.OtherStreams st t ∧
    (∀ g, t.config g = s.config g ∧ t.reclaimOf g =
      if q.target = (s.streams.get st).target then s.reclaimOf g else (s.reclaimOf g).map ReclaimRecord.wake) ∧
    t.credit.balances = s.credit.balances ∧ s.Only [.streams, .waiters, .credit, .groups] t := by
  intro t
  let b := (s.modStream st (fun x => { x with tenant := q.tenant, group := q.group, target := q.target })).takeProfile st q.profile
  have bo : s.Only [.streams, .waiters, .credit] b := (s.modStream_only st _).mono (by decide) |>.andThen (State.takeProfile_only _ st _)
  have bst : b.streams.get st = { s.streams.get st with
      tenant := q.tenant, group := q.group, target := q.target, profile := q.profile, pendingProfile := none,
      packCursor := lowestPosition q.profile.mask, spreadCursor := lowestPosition q.profile.mask } := by
    rw [State.takeProfile_streams, Table.get_modify_self, State.modStream_streams, Table.get_modify_self]
  have bother : ∀ x, x ≠ st → b.streams.get x = s.streams.get x := fun x hx => by
    rw [State.takeProfile_streams, Table.get_modify_ne _ _ _ _ hx, State.modStream_streams, Table.get_modify_ne _ _ _ _ hx]
  have bgroups : ∀ g, b.config g = s.config g ∧ b.reclaimOf g = s.reclaimOf g := fun g => ⟨rfl, rfl⟩
  have tdef : t = if q.target = (s.streams.get st).target then b else b.wakeAll :=
    if_congr eq_comm rfl rfl
  by_cases ht : q.target = (s.streams.get st).target
  · rw [tdef, if_pos ht]
    exact ⟨bst, bother, fun g => ⟨(bgroups g).1, by rw [if_pos ht]; exact (bgroups g).2⟩, rfl, bo.mono (by decide)⟩
  · rw [tdef, if_neg ht]
    refine ⟨bst, bother, fun g => ?_, rfl, (bo.mono (by decide)).andThen b.wakeAll_only⟩
    obtain ⟨woken, kept⟩ := b.wakeAll_groups g
    exact ⟨kept, by rw [if_neg ht]; exact woken⟩

/-- SET-STREAM's answers by the checks of R178, in their order. -/
theorem setStreamRequest_cases (r : Request) (s : State) (st : StreamId) (h : r.byte 4 = st.val) :
    ((s.streams.get st).state ≠ .closed → setStreamRequest r s = r.answer s .wrongState) ∧
    ((s.streams.get st).state = .closed → r.streamRequest = none → setStreamRequest r s = r.answer s .badConfig) ∧
    ∀ q, (s.streams.get st).state = .closed → r.streamRequest = some q →
      (s.tenantMismatch st q = true → setStreamRequest r s = r.answer s .tenantMismatch) ∧
      (s.tenantMismatch st q = false → setStreamRequest r s = r.answer (s.setStream st q) .ok) := by
  have first : asFin 256 r.first = some st := asFin_val _ st h
  refine ⟨fun hc => ?_, fun hc hq => ?_, fun q hc hq => ⟨fun hm => ?_, fun hm => ?_⟩⟩
  · simp only [setStreamRequest, first, if_pos hc]
  · simp only [setStreamRequest, first, if_neg (not_not.mpr hc), hq]
  · simp only [setStreamRequest, first, if_neg (not_not.mpr hc), hq, hm, if_true]
  · simp only [setStreamRequest, first, if_neg (not_not.mpr hc), hq, hm, Bool.false_eq_true, if_false]

/-- Settles O43: the answers are those of `setStreamRequest_cases`, and the stream takes what `State.setStream_cases` says. -/
theorem setStreamConfigures : Obligations.SetStreamConfigures := by
  unfold Obligations.SetStreamConfigures
  intro s hr q refused st hst r
  let a := s.taken .management
  have he : exec .setStream s = .next (setStreamRequest q a) :=
    exec_of_kind s .management kindSetStream setStreamRequest .setStream rfl hr
  have ast : a.streams.get st = r := by rw [State.taken_streams]
  obtain ⟨wrongState, badConfig, checked⟩ := setStreamRequest_cases q a st hst
  rw [ast] at wrongState badConfig checked
  refine ⟨fun hc => ?_, fun hc hbad => ?_, ?_⟩
  · exact onlyAnswered_of_exec (he.trans (congrArg _ (wrongState hc)))
  · exact onlyAnswered_of_exec (he.trans (congrArg _ (badConfig hc (q.streamRequest_none hbad))))
  · intro n x pr hc hn hg hx hp mismatch
    let y : StreamRequest := ⟨n, asFin 8 (q.byte 6), x, pr⟩
    have hm : a.tenantMismatch st y = true ↔ mismatch := by
      rw [State.tenantMismatch_iff, State.taken_streams]
    obtain ⟨differs, agrees⟩ := checked y hc (q.streamRequest_some n x pr hn hg hx hp)
    refine ⟨fun h => onlyAnswered_of_exec (he.trans (congrArg _ (differs (hm.mpr h)))), fun h => ?_⟩
    have he' := he.trans (congrArg _ (agrees (Bool.eq_false_iff.mpr (fun e => h (hm.mp e)))))
    obtain ⟨tst, tother, tgroups, tbalances, tonly⟩ := a.setStream_cases st y
    have answered := Request.answer_only_management q rfl (a.setStream st y) .ok [] []
    have streams := answered .streams (by decide)
    have credit := answered .credit (by decide)
    refine ⟨_, he', s.answered _ _ (tonly .masters (by decide)) (tonly .mport (by decide)) .ok [] [], ?_, fun z hz => ?_, fun g => ?_, ?_,
      ((s.taken_only_management.mono (by decide)).andThen tonly (gs := [.streams, .waiters, .credit, .groups, .mport])).andThen answered⟩
    · rw [streams, tst, ast]
    · rw [streams, tother z hz, State.taken_streams]
    · rw [ast] at tgroups
      simp only [State.config, State.reclaimOf] at tgroups ⊢
      exact tgroups g
    · rw [credit, tbalances, State.taken_credit]

end Sys2Proof.Machine
end

section
/-!
PROOFS. Requests that wait for credit and are admitted (R70, R73, R79), and drains: what admissions do to the wait list, the lines, the balances
and the page counters; DRAIN_STREAM (R28, R79) and DRAIN_END (R29).
-/

namespace Sys2Proof.Machine

set_option Elab.async false

/-! ## One entry that is admitted -/

/-- A request stands in one of the two lines of a stream (R47). -/
def StreamLines.holds (l : StreamLines) (c : ContextId) : Prop := c ∈ l.host ∨ c ∈ l.reloc

theorem State.charge_credit (s : State) (t : Tenant) (n : Nat) :
    (s.charge t n).credit.waitList = s.credit.waitList ∧ (s.charge t n).credit.shares = s.credit.shares := by
  unfold State.charge; split <;> exact ⟨rfl, rfl⟩

/-- The admitted request leaves the wait list (R73). -/
theorem State.admitEntry_waitList (s : State) (e : WaitEntry) :
    (s.admitEntry e).credit.waitList = s.credit.waitList.filter (fun x => decide (x.ctx ≠ e.ctx)) :=
  (State.charge_credit _ e.tenant e.remaining).1

theorem State.admitEntry_shares (s : State) (e : WaitEntry) : (s.admitEntry e).credit.shares = s.credit.shares :=
  (State.charge_credit _ e.tenant e.remaining).2

/-- A charge reaches the tenant's own balance, where it is metered (R70). -/
theorem State.charge_balances (s : State) (t : Tenant) (m : Nat) (n : Tenant) :
    (s.charge t m).credit.balances.get n = if n = t ∧ (s.tenants.get n).metered = true
      then chargedBalance (s.credit.balances.get n) m else s.credit.balances.get n := by
  unfold State.charge; split
  · next hm =>
    show (s.credit.balances.modify t (fun b => chargedBalance b m)).get n = _
    by_cases hn : n = t
    · subst hn; rw [Table.get_modify_self, if_pos ⟨rfl, hm⟩]
    · rw [Table.get_modify_ne _ _ _ _ hn, if_neg (fun h => hn h.1)]
  · next hm => rw [if_neg]; rintro ⟨rfl, h⟩; exact hm h

theorem State.admitEntry_balances (s : State) (e : WaitEntry) (n : Tenant) :
    (s.admitEntry e).credit.balances.get n = if n = e.tenant ∧ (s.tenants.get n).metered = true
      then chargedBalance (s.credit.balances.get n) e.remaining else s.credit.balances.get n :=
  State.charge_balances (s.modWaitList (fun l => l.filter (fun x => decide (x.ctx ≠ e.ctx)))) e.tenant e.remaining n

/-- What an entry is charged as once it has left the wait list. -/
theorem State.admitEntry_charged (s : State) (e : WaitEntry) :
    ∃ u : State, s.Only [.credit] u ∧ s.admitEntry e = (u.countPages e.tenant e.cls e.remaining).joinLine e.stream e.cls e.ctx :=
  ⟨_, (s.modWaitList_only _).andThen (State.charge_only _ e.tenant e.remaining), rfl⟩

/-- The pages of one entry are counted for its tenant and class (R41). -/
theorem State.admitEntry_tenants (s : State) (e : WaitEntry) :
    (s.admitEntry e).tenants = (s.countPages e.tenant e.cls e.remaining).tenants := by
  obtain ⟨u, hu, he⟩ := s.admitEntry_charged e
  have hf : u.tenants = s.tenants := hu .tenants (by decide)
  rw [he]
  simp only [State.joinLine, State.countPages, State.modLines_tenants, State.modTenant_tenants, hf]

/-- The admitted request joins the line of its class (R47). -/
theorem State.admitEntry_lines (s : State) (e : WaitEntry) :
    (s.admitEntry e).lines = (s.joinLine e.stream e.cls e.ctx).lines := by
  obtain ⟨u, hu, he⟩ := s.admitEntry_charged e
  have hf : u.lines = s.lines := hu .lines (by decide)
  rw [he]
  simp only [State.joinLine, State.countPages, State.modLines_lines, State.modTenant_lines, hf]

/-- Counting HOST pages raises the tenant's HOST page count, and no count changes whether a tenant is metered (R41). -/
theorem State.countPages_tenants (s : State) (t : Tenant) (cls : WriteClass) (n : Nat) :
    (cls = .host → ((s.countPages t cls n).tenants.get t).hostPages = (s.tenants.get t).hostPages + BitVec.ofNat 32 n) ∧
    ∀ k, ((s.countPages t cls n).tenants.get k).metered = (s.tenants.get k).metered := by
  refine ⟨fun h => ?_, fun k => ?_⟩
  · subst h; simp [State.countPages]
  · by_cases hk : k = t
    · subst hk; cases cls <;> simp [State.countPages]
    · simp [State.countPages, hk]

/-- The request that joins a line of its stream stands there, as does every request that stood in a line before; the lines of the other
streams stay. -/
theorem State.joinLine_holds (s : State) (st : StreamId) (cls : WriteClass) (c : ContextId) :
    ((s.joinLine st cls c).lines.get st).holds c ∧
    (∀ x d, (s.lines.get x).holds d → ((s.joinLine st cls c).lines.get x).holds d) ∧
    ∀ x, x ≠ st → (s.joinLine st cls c).lines.get x = s.lines.get x := by
  have others : ∀ x, x ≠ st → (s.joinLine st cls c).lines.get x = s.lines.get x := fun x hx => by simp [State.joinLine, hx]
  refine ⟨?_, fun x d h => ?_, others⟩
  · cases cls <;> simp [State.joinLine, StreamLines.holds]
  · by_cases hx : x = st
    · subst hx
      rcases h with h | h <;> cases cls <;> simp [State.joinLine, StreamLines.holds, h]
    · rw [others x hx]; exact h

/-! ## Entries that are admitted one after another -/

/-- What admissions keep, whichever entries they are: no entry comes to wait, no request leaves a line, and no balance goes below the
floor (R70, R73, R74). -/
structure State.Admitted (s t : State) : Prop where
  waitList : t.credit.waitList ⊆ s.credit.waitList
  shares : t.credit.shares = s.credit.shares
  lines : ∀ x c, (s.lines.get x).holds c → (t.lines.get x).holds c
  metered : ∀ n, (t.tenants.get n).metered = (s.tenants.get n).metered
  floor : ∀ n, Config.balanceFloor ≤ s.credit.balances.get n → Config.balanceFloor ≤ t.credit.balances.get n
  only : s.Only [.tenants, .lines, .credit] t

theorem State.Admitted.refl (s : State) : s.Admitted s :=
  ⟨fun _ h => h, rfl, fun _ _ h => h, fun _ => rfl, fun _ h => h, .refl s _⟩

theorem State.Admitted.trans {s t u : State} (h : s.Admitted t) (k : t.Admitted u) : s.Admitted u where
  waitList := fun _ hx => h.waitList (k.waitList hx)
  shares := k.shares.trans h.shares
  lines x c hc := k.lines x c (h.lines x c hc)
  metered n := (k.metered n).trans (h.metered n)
  floor n hn := k.floor n (h.floor n hn)
  only := h.only.andThen k.only (fun _ hm => hm)

theorem State.Admitted.foldl {f : State → WaitEntry → State} (hf : ∀ (s : State) (e : WaitEntry), s.Admitted (f s e))
    (l : List WaitEntry) (s : State) : s.Admitted (l.foldl f s) := by
  induction l generalizing s with
  | nil => exact .refl s
  | cons e l ih => exact (hf s e).trans (ih (f s e))

theorem State.admitEntry_admitted (s : State) (e : WaitEntry) : s.Admitted (s.admitEntry e) where
  waitList := by rw [State.admitEntry_waitList]; exact List.filter_subset_self _
  shares := s.admitEntry_shares e
  lines := by rw [State.admitEntry_lines]; exact (s.joinLine_holds _ _ _).2.1
  metered n := by rw [State.admitEntry_tenants]; exact (s.countPages_tenants _ _ _).2 n
  floor n h := by
    rw [State.admitEntry_balances]
    split
    · exact le_max_left _ _
    · exact h
  only := s.admitEntry_only e

/-- No request of the entries waits any more, and each stands in a line of its stream. -/
theorem State.admitEntries_served (l : List WaitEntry) (s : State) :
    ∀ e ∈ l, (∀ x ∈ (l.foldl State.admitEntry s).credit.waitList, x.ctx ≠ e.ctx) ∧
      ((l.foldl State.admitEntry s).lines.get e.stream).holds e.ctx := by
  induction l generalizing s with
  | nil => exact fun e he => by cases he
  | cons a l ih =>
    intro e he
    rcases List.mem_cons.mp he with rfl | he
    · have later := State.Admitted.foldl State.admitEntry_admitted l (s.admitEntry e)
      refine ⟨fun x hx => ?_, later.lines _ _ ?_⟩
      · have := later.waitList hx
        rw [State.admitEntry_waitList] at this
        exact of_decide_eq_true (List.mem_filter.mp this).2
      · rw [State.admitEntry_lines]; exact (s.joinLine_holds _ _ _).1
    · exact ih (s.admitEntry a) e he

/-- Admissions of the entries of one stream leave the lines of the others. -/
theorem State.admitEntries_lines_ne (l : List WaitEntry) (s : State) (st : StreamId) (hl : ∀ e ∈ l, e.stream = st) (x : StreamId) (hx : x ≠ st) :
    (l.foldl State.admitEntry s).lines.get x = s.lines.get x := by
  induction l generalizing s with
  | nil => rfl
  | cons e l ih =>
    have he := hl e (.head _)
    rw [List.foldl_cons, ih _ (fun y hy => hl y (.tail _ hy)), State.admitEntry_lines]
    exact (s.joinLine_holds _ _ _).2.2 x (he ▸ hx)

/-- A charge for some pages and then for more is a charge for all of them (R70, R74). -/
theorem chargedBalance_add (b : Int) (m n : Nat) : chargedBalance (chargedBalance b m) n = chargedBalance b (m + n) := by
  simp only [chargedBalance, Config.balanceFloor, Config.pageCost, Nat.cast_add]
  omega

theorem chargedBalance_zero (b : Int) (h : Config.balanceFloor ≤ b) : chargedBalance b 0 = b := by
  simp only [chargedBalance, Config.balanceFloor, Config.pageCost] at *
  omega

/-- Admissions of HOST entries of one tenant charge and count their remaining pages (R41, R70), and leave the other tenants' balances. -/
theorem State.admitEntries_charged (l : List WaitEntry) (s : State) (n : Tenant) (hl : ∀ e ∈ l, e.tenant = n ∧ e.cls = .host)
    (hf : Config.balanceFloor ≤ s.credit.balances.get n) :
    let t := l.foldl State.admitEntry s
    let total := (l.map (·.remaining)).sum
    t.credit.balances.get n = (if (s.tenants.get n).metered = true
      then chargedBalance (s.credit.balances.get n) total else s.credit.balances.get n) ∧
    (t.tenants.get n).hostPages = (s.tenants.get n).hostPages + BitVec.ofNat 32 total ∧
    ∀ k, k ≠ n → t.credit.balances.get k = s.credit.balances.get k := by
  induction l generalizing s with
  | nil =>
    refine ⟨?_, by simp, fun _ _ => rfl⟩
    split
    · exact (chargedBalance_zero _ hf).symm
    · rfl
  | cons e l ih =>
    obtain ⟨ht, hc⟩ := hl e (.head _)
    have one := s.admitEntry_admitted e
    obtain ⟨balance, pages, others⟩ := ih (s.admitEntry e) (fun y hy => hl y (.tail _ hy)) (one.floor n hf)
    have host : ((s.admitEntry e).tenants.get n).hostPages = (s.tenants.get n).hostPages + BitVec.ofNat 32 e.remaining := by
      rw [State.admitEntry_tenants, ht]; exact (s.countPages_tenants n e.cls _).1 hc
    refine ⟨?_, ?_, fun k hk => ?_⟩
    · rw [List.foldl_cons, balance, one.metered, State.admitEntry_balances, List.map_cons, List.sum_cons]
      by_cases hm : (s.tenants.get n).metered = true
      · rw [if_pos hm, if_pos ⟨ht.symm, hm⟩, if_pos hm, chargedBalance_add]
      · rw [if_neg hm, if_neg (fun h => hm h.2), if_neg hm]
    · rw [List.foldl_cons, pages, host, List.map_cons, List.sum_cons, BitVec.ofNat_add, BitVec.add_assoc]
    · rw [List.foldl_cons, others k hk, State.admitEntry_balances, if_neg (fun h => hk (h.1.trans ht))]

/-! ## The examination of a tenant (R73) -/

theorem State.examineEntry_admitted (s : State) (e : WaitEntry) : s.Admitted (s.examineEntry e) := by
  unfold State.examineEntry; split
  · exact s.admitEntry_admitted e
  · exact .refl s

theorem State.examineCredit_admitted (s : State) (n : Tenant) : s.Admitted (s.examineCredit n) :=
  .foldl State.examineEntry_admitted _ s

theorem State.mem_creditEntries (s : State) (n : Tenant) (e : WaitEntry) :
    e ∈ s.creditEntries n ↔ e ∈ s.credit.waitList ∧ e.reason = .credit ∧ e.tenant = n := by
  simp [State.creditEntries]

/-- The examination of one tenant leaves the balances of the others. -/
theorem State.examineCredit_balances_ne (s : State) (n k : Tenant) (hk : k ≠ n) :
    (s.examineCredit n).credit.balances.get k = s.credit.balances.get k := by
  have fold : ∀ (l : List WaitEntry) (u : State), (∀ e ∈ l, e.tenant = n) →
      (l.foldl State.examineEntry u).credit.balances.get k = u.credit.balances.get k := fun l => by
    induction l with
    | nil => exact fun _ _ => rfl
    | cons e l ih =>
      intro u hl
      rw [List.foldl_cons, ih _ (fun y hy => hl y (.tail _ hy))]
      unfold State.examineEntry; split
      · rw [State.admitEntry_balances, if_neg (fun h => hk (h.1.trans (hl e (.head _))))]
      · rfl
  exact fold _ s (fun e he => (s.mem_creditEntries n e |>.mp he).2.2)

/-- Where each request has one entry, a request that waits before an examination waits after it, or stands in a line of its stream. -/
theorem State.examineCredit_served (s : State) (n : Tenant) (hn : (s.credit.waitList.map (·.ctx)).Nodup) (x : WaitEntry)
    (hx : x ∈ s.credit.waitList) :
    x ∈ (s.examineCredit n).credit.waitList ∨ ((s.examineCredit n).lines.get x.stream).holds x.ctx := by
  have fold : ∀ (l : List WaitEntry) (u : State), l ⊆ s.credit.waitList →
      (x ∈ u.credit.waitList ∨ (u.lines.get x.stream).holds x.ctx) →
      x ∈ (l.foldl State.examineEntry u).credit.waitList ∨ ((l.foldl State.examineEntry u).lines.get x.stream).holds x.ctx := fun l => by
    induction l with
    | nil => exact fun _ _ h => h
    | cons e l ih =>
      intro u hl h
      obtain ⟨he, hl⟩ := List.cons_subset.mp hl
      refine ih (u.examineEntry e) hl ?_
      rcases h with h | h
      · unfold State.examineEntry; split
        · by_cases hc : x.ctx = e.ctx
          · have : x = e := List.inj_on_of_nodup_map hn hx he hc
            subst this; rw [State.admitEntry_lines]; exact .inr (u.joinLine_holds _ _ _).1
          · rw [State.admitEntry_waitList]
            exact .inl (List.mem_filter.mpr ⟨h, decide_eq_true hc⟩)
        · exact .inl h
      · exact .inr ((u.examineEntry_admitted e).lines _ _ h)
  exact fold _ s (fun e he => ((s.mem_creditEntries n e).mp he).1) (.inl hx)

/-! ## States that agree on what the Accountant reads -/

/-- Two states agree on the credit, the tenants and the lines. -/
def State.SameCredit (s a : State) : Prop := a.credit = s.credit ∧ a.tenants = s.tenants ∧ a.lines = s.lines

theorem State.admitEntry_same {s a : State} (h : s.SameCredit a) (e : WaitEntry) : (s.admitEntry e).SameCredit (a.admitEntry e) := by
  obtain ⟨hc, ht, hl⟩ := h
  refine ⟨?_, ?_, ?_⟩
  · have balances : (a.admitEntry e).credit.balances = (s.admitEntry e).credit.balances := Table.ext_get _ _ (fun n => by
      rw [State.admitEntry_balances, State.admitEntry_balances, hc, ht])
    have waitList : (a.admitEntry e).credit.waitList = (s.admitEntry e).credit.waitList := by
      rw [State.admitEntry_waitList, State.admitEntry_waitList, hc]
    have shares : (a.admitEntry e).credit.shares = (s.admitEntry e).credit.shares := by
      rw [State.admitEntry_shares, State.admitEntry_shares, hc]
    cases ha : (a.admitEntry e).credit; cases hs : (s.admitEntry e).credit
    simp_all
  · simp only [State.admitEntry_tenants, State.countPages, State.modTenant_tenants, ht]
  · simp only [State.admitEntry_lines, State.joinLine, State.modLines_lines, hl]

theorem State.examineCredit_same {s a : State} (h : s.SameCredit a) (n : Tenant) : (s.examineCredit n).SameCredit (a.examineCredit n) := by
  have fold : ∀ (l : List WaitEntry) (s a : State), s.SameCredit a →
      (l.foldl State.examineEntry s).SameCredit (l.foldl State.examineEntry a) := fun l => by
    induction l with
    | nil => exact fun _ _ h => h
    | cons e l ih =>
      intro s a h
      refine ih _ _ ?_
      unfold State.examineEntry
      rw [h.1]; split
      · exact State.admitEntry_same h e
      · exact h
  unfold State.examineCredit State.creditEntries
  rw [h.1]
  exact fold _ s a h

/-! ## The drain -/

theorem WaitEntry.creditOf_iff (e : WaitEntry) (st : StreamId) : e.creditOf st = true ↔ e.reason = .credit ∧ e.stream = st := by
  simp [WaitEntry.creditOf]

/-- The admission of a stream leaves none of its CREDIT entries: each stands in a line of the stream (R79). -/
theorem State.admitStream_cases (s : State) (st : StreamId) :
    s.Admitted (s.admitStream st) ∧ (∀ e ∈ (s.admitStream st).credit.waitList, e.creditOf st = false) ∧
    (∀ e ∈ s.credit.waitList, e.creditOf st = true → ((s.admitStream st).lines.get st).holds e.ctx) ∧
    ∀ x, x ≠ st → (s.admitStream st).lines.get x = s.lines.get x := by
  have kept : s.Admitted (s.admitStream st) := .foldl State.admitEntry_admitted _ s
  have served := State.admitEntries_served (s.credit.waitList.filter (·.creditOf st)) s
  refine ⟨kept, fun e he => ?_, fun e he hc => ?_, s.admitEntries_lines_ne _ st (fun e he => ?_)⟩
  · refine Bool.eq_false_iff.mpr (fun hc => ?_)
    exact (served e (List.mem_filter.mpr ⟨kept.waitList he, hc⟩)).1 e he rfl
  · have := (served e (List.mem_filter.mpr ⟨he, hc⟩)).2
    rwa [((e.creditOf_iff st).mp hc).2] at this
  · exact ((e.creditOf_iff st).mp (List.mem_filter.mp he).2).2

/-- A stream that becomes DRAINING, before its CREDIT entries are admitted: the examination that is due comes first (R28, R73). -/
def State.toDraining (s : State) (st : StreamId) (pl : Pledge) : State :=
  (s.examineCredit (s.streams.get st).tenant).modStream st (fun r => { r with state := .draining, drain := some pl })

theorem State.startDrain_eq (s : State) (st : StreamId) (pl : Pledge) : s.startDrain st pl = (s.toDraining st pl).admitStream st := rfl

theorem State.startDrain_only (s : State) (st : StreamId) (pl : Pledge) : s.Only [.streams, .tenants, .lines, .credit] (s.startDrain st pl) :=
  (((State.Only.refl s _).andThen (s.examineCredit_only _)).andThen (State.modStream_only _ _ _)).andThen (State.admitStream_only _ st)

/-- The stream that a drain starts on, and the others. -/
theorem State.startDrain_streams (s : State) (st : StreamId) (pl : Pledge) :
    (s.startDrain st pl).streams = s.streams.modify st (fun r => { r with state := .draining, drain := some pl }) := by
  have admitted := State.admitStream_only (s.toDraining st pl) st .streams (by decide)
  have examined : (s.examineCredit (s.streams.get st).tenant).streams = s.streams := s.examineCredit_only _ .streams (by decide)
  exact admitted.trans (by rw [State.toDraining, State.modStream_streams, examined])

/-- The end of a drain seals the stream's open units, makes the stream QUIESCED and then writes the DRAINED reply (R29). -/
theorem State.endDrain_cases (s : State) (st : StreamId) (p : MasterId) (pl : Pledge) (hp : (s.streams.get st).port = some p)
    (hd : (s.streams.get st).drain = some pl) :
    ∃ u : State, s.endDrain st = u.reply (.master p) pl.slot kindDrainStream pl.tag .drained [] [] ∧
      (u.streams.get st).state = .quiesced ∧ (u.streams.get st).port = some p ∧ (u.streams.get st).drain = none ∧
      (∀ k, (u.streams.get st).slots.get k = none) ∧ s.Only [.units, .streams, .waiters, .credit, .groups, .dies] u := by
  obtain ⟨change, slots, -⟩ := s.sealAllSlots_cases st
  unfold State.endDrain
  generalize s.sealAllSlots st = b at change slots ⊢
  have port : (b.streams.get st).port = some p := by rw [change.streams st]; exact hp
  have drain : (b.streams.get st).drain = some pl := by rw [change.streams st]; exact hd
  have stream : ((b.modStream st (fun r => { r with state := .quiesced, drain := none })).streams.get st) =
      { b.streams.get st with state := .quiesced, drain := none } := by rw [State.modStream_streams, Table.get_modify_self]
  refine ⟨b.modStream st (fun r => { r with state := .quiesced, drain := none }), ?_, ?_, ?_, ?_, fun k => ?_,
    change.only.andThen (State.modStream_only _ st _)⟩
  · simp only [port, drain]
  · rw [stream]
  · rw [stream]; exact port
  · rw [stream]
  · rw [stream]; exact slots k

/-- The end of a drain leaves its stream QUIESCED, bound, with no slot open. -/
theorem State.endDrain_stream (s : State) (st : StreamId) (p : MasterId) (pl : Pledge) (hp : (s.streams.get st).port = some p)
    (hd : (s.streams.get st).drain = some pl) :
    let x := (s.endDrain st).streams.get st
    x.state = .quiesced ∧ x.port = some p ∧ x.drain = none ∧ ∀ k, x.slots.get k = none := by
  obtain ⟨u, he, state, port, drain, slots, -⟩ := s.endDrain_cases st p pl hp hd
  have streams : (s.endDrain st).streams = u.streams := he ▸ u.replyMaster_only p _ _ _ _ _ _ .streams (by decide)
  rw [streams]
  exact ⟨state, port, drain, slots⟩

/-- DRAIN_END of a drain whose stream has no outstanding request (R29). -/
theorem drainEnd_ends (s : State) (st : StreamId) (p : MasterId) (pl : Pledge) (hs : (s.streams.get st).state = .draining)
    (ho : (s.streams.get st).outstanding = 0) (hp : (s.streams.get st).port = some p) (hd : (s.streams.get st).drain = some pl) :
    exec (.drainEnd st) s = .next (s.endDrain st) ∧
    (s.endDrain st).masters.get p = { s.masters.get p with
      ring := (s.masters.get p).ring.writeReply pl.slot (replyRecord kindDrainStream pl.tag .drained []) [] } ∧
    s.OtherPorts p (s.endDrain st) := by
  obtain ⟨u, he, -, -, -, -, hu⟩ := s.endDrain_cases st p pl hp hd
  have kept : u.masters = s.masters := hu .masters (by decide)
  have masters : (s.endDrain st).masters = s.masters.modify p (fun x => { x with
      ring := x.ring.writeReply pl.slot (replyRecord kindDrainStream pl.tag .drained []) [] }) := by
    rw [he, State.reply, State.modRing_master_masters, kept]
  refine ⟨if_pos ⟨hs, ho⟩, ?_, fun x hx => ?_⟩
  · rw [masters, Table.get_modify_self]
  · rw [masters, Table.get_modify_ne _ _ _ _ hx]

/-- DRAIN_STREAM on an OPEN stream of the port (R28): the drain starts, and ends at once where no request is outstanding. -/
theorem drainStream_opened (p : MasterId) (s : State) (st : StreamId) (hr : s.Ready (.master p) kindDrainStream)
    (hst : (s.headRequest (.master p)).stream = some st) (hp : (s.streams.get st).port = some p)
    (ho : (s.streams.get st).state = .opened) :
    let q := s.headRequest (.master p)
    let t := (s.touched p st).startDrain st ⟨q.slot, q.tag⟩
    exec (.drainStream p) s = .next (if (s.streams.get st).outstanding = 0 then t.endDrain st else t) ∧
    t.streams.get st = { s.streams.get st with state := .draining, drain := some ⟨q.slot, q.tag⟩, lastActivity := s.time.tick } ∧
    s.OtherStreams st t := by
  intro q t
  have streams : t.streams = _ := (s.touched p st).startDrain_streams st _
  have stream : t.streams.get st = { s.streams.get st with
      state := .draining, drain := some ⟨q.slot, q.tag⟩, lastActivity := s.time.tick } := by
    rw [streams, Table.get_modify_self, s.touched_stream]
  have opened : ((s.touched p st).streams.get st).state = .opened := by rw [s.touched_stream]; exact ho
  have outstanding : (t.streams.get st).outstanding = (s.streams.get st).outstanding := by rw [stream]
  refine ⟨((drainStream_checks p).bound s st hr hst hp).trans (congrArg _ ?_), stream, fun x hx => ?_⟩
  · rw [drainStreamAct, if_pos opened, ← outstanding]
  · rw [streams, Table.get_modify_ne _ _ _ _ hx, s.touched_others p st x hx]

/-- The stream that becomes DRAINING leaves the Accountant as the examination that is due leaves it. -/
theorem State.toDraining_same {s a : State} (h : s.SameCredit a) (st : StreamId) (pl : Pledge) :
    (s.examineCredit (a.streams.get st).tenant).SameCredit (a.toDraining st pl) := State.examineCredit_same h _

theorem State.touched_same (s : State) (p : MasterId) (st : StreamId) : s.SameCredit (s.touched p st) :=
  have only := s.touched_only p st
  ⟨only .credit (by decide), only .tenants (by decide), only .lines (by decide)⟩

/-- What a drain that starts leaves of the requests that wait for credit, between the state `s` before, the state `m` once the examination
that is due for the stream's tenant `n` is made, and the state `t` (R73, R79). -/
structure State.DrainAdmits (s m : State) (st : StreamId) (n : Tenant) (t : State) : Prop where
  waitList : ∀ e ∈ t.credit.waitList, e.creditOf st = false
  served : ∀ e ∈ m.credit.waitList, e.creditOf st = true → (t.lines.get st).holds e.ctx
  servedBefore : (s.credit.waitList.map (·.ctx)).Nodup → ∀ e ∈ s.credit.waitList, e.creditOf st = true → (t.lines.get st).holds e.ctx
  otherLines : ∀ x, x ≠ st → t.lines.get x = m.lines.get x
  shares : t.credit.shares = s.credit.shares
  charged :
    let waiting := m.credit.waitList.filter (·.creditOf st)
    let total := (waiting.map (·.remaining)).sum
    (∀ e ∈ waiting, e.tenant = n ∧ e.cls = .host) → s.BalancesLegal →
      t.credit.balances.get n = (if (s.tenants.get n).metered = true
        then chargedBalance (m.credit.balances.get n) total else m.credit.balances.get n) ∧
      (t.tenants.get n).hostPages = (m.tenants.get n).hostPages + BitVec.ofNat 32 total ∧
      ∀ k, k ≠ n → t.credit.balances.get k = s.credit.balances.get k

/-- The admission of a stream after the examination of its tenant, made on a state `b` that agrees with the examined one on what the
Accountant reads. -/
theorem State.admitStream_admits (s b : State) (st : StreamId) (n : Tenant) (same : (s.examineCredit n).SameCredit b) :
    s.DrainAdmits (s.examineCredit n) st n (b.admitStream st) := by
  obtain ⟨kept, waitList, served, otherLines⟩ := b.admitStream_cases st
  have examined := s.examineCredit_admitted n
  obtain ⟨hc, ht, hl⟩ := same
  rw [hc] at served
  rw [hl] at otherLines
  refine ⟨waitList, served, fun hn e he hcr => ?_, otherLines, ?_, fun hw legal => ?_⟩
  · rcases s.examineCredit_served n hn e he with h | h
    · exact served e h hcr
    · rw [((e.creditOf_iff st).mp hcr).2] at h
      exact kept.lines st _ (hl ▸ h)
  · rw [kept.shares, hc, examined.shares]
  · have floor : Config.balanceFloor ≤ b.credit.balances.get n := hc ▸ examined.floor n (legal n).1
    obtain ⟨balance, pages, others⟩ := State.admitEntries_charged (b.credit.waitList.filter (·.creditOf st)) b n (hc ▸ hw) floor
    change (b.admitStream st).credit.balances.get n = _ at balance
    change ((b.admitStream st).tenants.get n).hostPages = _ at pages
    rw [hc, ht, examined.metered] at balance
    rw [hc, ht] at pages
    exact ⟨balance, pages, fun k hk => by rw [← s.examineCredit_balances_ne n k hk, ← hc]; exact others k hk⟩

/-- Settles O24: a drain starts by the admission of its stream's waiting requests, and `State.endDrain` ends it. -/
theorem drainQuiesces : Obligations.DrainQuiesces := by
  unfold Obligations.DrainQuiesces
  refine ⟨fun p s st hr hst hp => ⟨fun ho => ?_, fun ho hn => ?_, fun ho hz => ?_⟩, fun s st p pl hs ho hp hd => ?_⟩
  · have notOpened : ((s.touched p st).streams.get st).state ≠ .opened := by rw [s.touched_stream]; exact ho
    exact ⟨_, ((drainStream_checks p).bound s st hr hst hp).trans (congrArg _ (if_neg notOpened)), s.touched_refused p st .streamState⟩
  · obtain ⟨he, stream, others⟩ := drainStream_opened p s st hr hst hp ho
    rw [if_neg hn] at he
    let pl : Pledge := ⟨(s.headRequest (.master p)).slot, (s.headRequest (.master p)).tag⟩
    have tenant : ((s.touched p st).streams.get st).tenant = (s.streams.get st).tenant := by rw [s.touched_stream]
    have only := (s.touched p st).startDrain_only st pl
    have admits := s.admitStream_admits _ st _ (tenant ▸ State.toDraining_same (s.touched_same p st) st pl)
    exact ⟨s.examineCredit (s.streams.get st).tenant, _, rfl, s.examineCredit_none _, he,
      pledged_of_ports s _ _ (only .masters (by decide)) (only .mport (by decide)), stream, others, admits.waitList, admits.served,
      admits.servedBefore, admits.otherLines, admits.shares, admits.charged, (s.touched_only p st).mono (by decide) |>.andThen only⟩
  · obtain ⟨he, stream, -⟩ := drainStream_opened p s st hr hst hp ho
    rw [if_pos hz] at he
    let pl : Pledge := ⟨(s.headRequest (.master p)).slot, (s.headRequest (.master p)).tag⟩
    let t := (s.touched p st).startDrain st pl
    have port : (t.streams.get st).port = some p := by rw [stream]; exact hp
    have drain : (t.streams.get st).drain = some pl := by rw [stream]
    obtain ⟨u, hu, -, -, -, -, uonly⟩ := t.endDrain_cases st p pl port drain
    obtain ⟨state, tport, tdrain, slots⟩ := t.endDrain_stream st p pl port drain
    have only : (s.touched p st).Only [.units, .streams, .tenants, .lines, .waiters, .credit, .groups, .dies] u :=
      (((s.touched p st).startDrain_only st pl).mono (by decide)).andThen uonly
    have answered := s.answered u (.master p) (only .masters (by decide)) (only .mport (by decide)) .drained [] []
    refine ⟨_, he, ?_, state, tport, tdrain, slots, ?_⟩
    · have kind : (s.headRequest (.master p)).kind = kindDrainStream := hr.2
      rwa [Request.answer, kind, show (s.headRequest (.master p)).port = .master p from rfl, ← hu] at answered
    · exact (((s.touched_only p st).mono (by decide)).andThen ((s.touched p st).startDrain_only st pl)
        (gs := [.units, .streams, .tenants, .lines, .waiters, .credit, .groups, .dies, .masters])).andThen (t.endDrain_only st)
  · obtain ⟨he, masters, others⟩ := drainEnd_ends s st p pl hs ho hp hd
    obtain ⟨state, port, drain, slots⟩ := s.endDrain_stream st p pl hp hd
    exact ⟨_, he, state, port, drain, slots, masters, others, s.endDrain_only st⟩

end Sys2Proof.Machine
end

section
/-!
PROOFS. SET_PROFILE (R33, R34, R55): the profile that takes effect, at once or after its seals, and the one that is stored as pending.
-/

namespace Sys2Proof.Machine

set_option Elab.async false

/-! ## Open slots and pending profiles -/

theorem StreamRecord.noOpenUnit_iff (r : StreamRecord) : r.noOpenUnit = true ↔ ∀ k, r.slots.get k = none := by
  simp [noOpenUnit, Table.mem_items]

/-- With no profile pending, none takes effect (R35). -/
theorem State.applyPending_none (s : State) (st : StreamId) (h : (s.streams.get st).pendingProfile = none) : s.applyPending st = s := by
  simp only [State.applyPending, h]

/-- No profile is pending for a stream in `t`, and what waits for a place is as in `s`. -/
structure State.KeepsWork (s : State) (st : StreamId) (t : State) : Prop where
  pending : (t.streams.get st).pendingProfile = none
  waiters : t.waiters = s.waiters
  credit : t.credit = s.credit

theorem State.KeepsWork.trans {s t u : State} {st : StreamId} (h : s.KeepsWork st t) (k : t.KeepsWork st u) : s.KeepsWork st u :=
  ⟨k.pending, k.waiters.trans h.waiters, k.credit.trans h.credit⟩

theorem State.emptySlot_pending (s : State) (st : StreamId) (q : Position) :
    ((s.emptySlot st q).streams.get st).pendingProfile = (s.streams.get st).pendingProfile := by
  simp [State.emptySlot]

/-- Where no profile is pending, a seal calls for no waiting work (R5, R35). -/
theorem State.sealSlot_keepsWork (s : State) (st : StreamId) (q : Position) (h : (s.streams.get st).pendingProfile = none) :
    s.KeepsWork st (s.sealSlot st q) := by
  unfold State.sealSlot; split
  · exact ⟨h, rfl, rfl⟩
  · next o _ =>
    have emptied := s.emptySlot_only st q
    have change := (s.emptySlot st q).sealUnit_change o.unit
    have pending : (((s.emptySlot st q).sealUnit o.unit).streams.get st).pendingProfile = none := by
      rw [change.streams st, s.emptySlot_pending, h]
    rw [State.applyPending_none _ st pending]
    exact ⟨pending, (change.only .waiters (by decide)).trans (emptied .waiters (by decide)),
      (change.only .credit (by decide)).trans (emptied .credit (by decide))⟩

/-- Where no profile is pending, the seals of a stream's slots call for no waiting work (R58). -/
theorem State.sealAllSlots_keepsWork (s : State) (st : StreamId) (h : (s.streams.get st).pendingProfile = none) :
    s.KeepsWork st (s.sealAllSlots st) := by
  have fold : ∀ (l : List Position) (u : State), s.KeepsWork st u → s.KeepsWork st (l.foldl (fun s q => s.sealSlot st q) u) := fun l => by
    induction l with
    | nil => exact fun _ hu => hu
    | cons q l ih => exact fun u hu => ih _ (hu.trans (u.sealSlot_keepsWork st q hu.pending))
  have sealed := fold (List.finRange 8) s ⟨h, rfl, rfl⟩
  rwa [State.sealAllSlots, State.applyPending_none _ st sealed.pending]

/-! ## The profile that takes effect -/

/-- A profile is in force in `t`, as given, on a stream with no slot open (R33). -/
structure State.InForce (st : StreamId) (pr : Profile) (t : State) : Prop where
  profile : (t.streams.get st).profile = pr
  pending : (t.streams.get st).pendingProfile = none
  packCursor : (t.streams.get st).packCursor = lowestPosition pr.mask
  spreadCursor : (t.streams.get st).spreadCursor = lowestPosition pr.mask
  slots : ∀ k, (t.streams.get st).slots.get k = none

theorem State.takeProfile_stream (s : State) (st : StreamId) (pr : Profile) :
    (s.takeProfile st pr).streams.get st = { s.streams.get st with
      profile := pr
      pendingProfile := none
      packCursor := lowestPosition pr.mask
      spreadCursor := lowestPosition pr.mask } := by
  rw [State.takeProfile_streams, Table.get_modify_self]

theorem State.setProfile_only (s : State) (st : StreamId) (pr : Profile) (sealNow : Bool) :
    s.Only [.units, .streams, .waiters, .credit, .groups, .dies] (s.setProfile st pr sealNow) := by
  unfold State.setProfile; split
  · exact (s.takeProfile_only st pr).mono (by decide)
  · split
    · exact (((s.modStream_only st _).mono (by decide)).andThen (State.sealAllSlots_only _ st)).andThen (State.takeProfile_only _ st pr)
    · exact (s.modStream_only st _).mono (by decide)

/-- A profile that takes effect comes on a state `u` with no slot of the stream open and the waiting work, the stream's state and its port as
before: at once, or after the seals of seal-now (R34). -/
theorem State.setProfile_takes (s : State) (st : StreamId) (pr : Profile) (sealNow : Bool)
    (ht : (∀ k, (s.streams.get st).slots.get k = none) ∨ sealNow = true) :
    ∃ u : State, s.setProfile st pr sealNow = u.takeProfile st pr ∧ (∀ k, (u.streams.get st).slots.get k = none) ∧
      u.waiters = s.waiters ∧ u.credit = s.credit ∧ (u.streams.get st).state = (s.streams.get st).state ∧
      (u.streams.get st).port = (s.streams.get st).port := by
  unfold State.setProfile
  by_cases hn : (s.streams.get st).noOpenUnit = true
  · exact ⟨s, if_pos hn, (StreamRecord.noOpenUnit_iff _).mp hn, rfl, rfl, rfl, rfl⟩
  · have sealNow := ht.resolve_left (fun h => hn ((StreamRecord.noOpenUnit_iff _).mpr h))
    let b := s.modStream st (fun r => { r with pendingProfile := none })
    have stream : b.streams.get st = { s.streams.get st with pendingProfile := none } := by
      rw [State.modStream_streams, Table.get_modify_self]
    obtain ⟨change, slots, -⟩ := b.sealAllSlots_cases st
    have kept := b.sealAllSlots_keepsWork st (by rw [stream])
    refine ⟨b.sealAllSlots st, by rw [if_neg hn, if_pos sealNow], slots, kept.waiters, kept.credit, ?_, ?_⟩
    · rw [change.streams st, stream]
    · rw [change.streams st, stream]

/-- A profile that does not take effect is stored as pending (R34). -/
theorem State.setProfile_stored (s : State) (st : StreamId) (pr : Profile) (sealNow : Bool)
    (ht : ¬ ((∀ k, (s.streams.get st).slots.get k = none) ∨ sealNow = true)) :
    s.setProfile st pr sealNow = s.modStream st (fun r => { r with pendingProfile := some pr }) := by
  obtain ⟨hn, hs⟩ := not_or.mp ht
  rw [State.setProfile, if_neg (fun h => hn ((StreamRecord.noOpenUnit_iff _).mp h)), if_neg hs]

/-- What SET-PROFILE leaves before the waiting work is examined: `m` is the state and `s` the one before, with `takes` where the profile takes
effect (R34). -/
structure State.ProfileSet (s : State) (st : StreamId) (pr : Profile) (takes : Prop) (m : State) : Prop where
  inForce : takes → State.InForce st pr m
  waiters : takes → m.waiters = s.waiters.map (fun w => if w.stream = st then { w with examine := true } else w)
  credit : takes → m.credit = { s.credit with waitList := s.credit.waitList.map (fun e =>
    if e.reason = .space ∧ e.stream = st then { e with examine := true } else e) }
  stored : ¬ takes → m.streams.get st = { s.streams.get st with pendingProfile := some pr, lastActivity := s.time.tick } ∧
    s.OtherStreams st m ∧ s.Only [.streams, .masters] m
  state : (m.streams.get st).state = (s.streams.get st).state
  port : (m.streams.get st).port = (s.streams.get st).port
  only : s.Only [.units, .streams, .waiters, .credit, .groups, .dies, .masters] m

theorem State.setProfile_set (s : State) (p : MasterId) (st : StreamId) (pr : Profile) (sealNow : Bool) :
    s.ProfileSet st pr ((∀ k, (s.streams.get st).slots.get k = none) ∨ sealNow = true) ((s.touched p st).setProfile st pr sealNow) := by
  have touched := s.touched_only p st
  have only : s.Only [.units, .streams, .waiters, .credit, .groups, .dies, .masters] ((s.touched p st).setProfile st pr sealNow) :=
    (touched.mono (by decide)).andThen (State.setProfile_only _ st pr sealNow)
  have stream := s.touched_stream p st
  have slots : ((s.touched p st).streams.get st).slots = (s.streams.get st).slots := by rw [stream]
  by_cases ht : (∀ k, (s.streams.get st).slots.get k = none) ∨ sealNow = true
  · obtain ⟨u, hm, empty, waiters, credit, state, port⟩ := (s.touched p st).setProfile_takes st pr sealNow (slots ▸ ht)
    have taken := u.takeProfile_stream st pr
    have waitersBefore : u.waiters = s.waiters := waiters.trans (touched .waiters (by decide))
    have creditBefore : u.credit = s.credit := credit.trans (touched .credit (by decide))
    rw [hm] at only ⊢
    refine ⟨fun _ => ?_, fun _ => ?_, fun _ => ?_, fun h => absurd ht h, ?_, ?_, only⟩
    · constructor <;> rw [taken]
      exact empty
    · simp [State.takeProfile, State.callWork, State.callSpace, State.callReplace, State.modStream, waitersBefore]
    · simp [State.takeProfile, State.callWork, State.callSpace, State.callReplace, State.modStream, creditBefore]
    · rw [taken]; exact state.trans (by rw [stream])
    · rw [taken]; exact port.trans (by rw [stream])
  · rw [(s.touched p st).setProfile_stored st pr sealNow (slots ▸ ht)] at only ⊢
    have pending : ((s.touched p st).modStream st (fun r => { r with pendingProfile := some pr })).streams.get st =
        { s.streams.get st with pendingProfile := some pr, lastActivity := s.time.tick } := by
      rw [State.modStream_streams, Table.get_modify_self, stream]
    refine ⟨fun h => absurd h ht, fun h => absurd h ht, fun h => absurd h ht,
      fun _ => ⟨pending, fun x hx => ?_, touched.andThen (State.modStream_only _ st _)⟩, ?_, ?_, only⟩
    · rw [State.modStream_streams, Table.get_modify_ne _ _ _ _ hx, s.touched_others p st x hx]
    · rw [pending]
    · rw [pending]

/-- SET_PROFILE with a mask and mode that are in order (R34): a profile that takes effect has the waiting work examined (R55), and one that is
stored has not; then suspended dies are served and the reply is written. -/
theorem setProfile_sets (p : MasterId) (s : State) (st : StreamId) (pr : Profile) (hr : s.Ready (.master p) kindSetProfile)
    (hst : (s.headRequest (.master p)).stream = some st) (hp : (s.streams.get st).port = some p)
    (hpr : (s.headRequest (.master p)).profile = some pr) :
    let q := s.headRequest (.master p)
    let takes := (∀ k, (s.streams.get st).slots.get k = none) ∨ q.sealNow = true
    ∃ m n, exec (.setProfile p) s = .next (q.answer n.serveSuspended .ok) ∧
      s.Answered (.master p) .ok [] [] (q.answer n.serveSuspended .ok) ∧ s.ProfileSet st pr takes m ∧
      (takes → n = m.examineStream st) ∧ (¬ takes → n = m) := by
  intro q takes
  let m := (s.touched p st).setProfile st pr q.sealNow
  let n := if (m.streams.get st).pendingProfile.isNone then m.examineStream st else m
  have set : s.ProfileSet st pr takes m := s.setProfile_set p st pr q.sealNow
  have he : exec (.setProfile p) s = .next (q.answer n.serveSuspended .ok) := by
    have bound := (setProfile_checks p).bound s st hr hst hp
    rwa [setProfileAct, hpr] at bound
  have examined : m.Only [.units, .freeLists, .streams, .contexts, .lines, .pool, .waiters, .credit, .groups, .dies, .link] n := by
    unfold n; split
    · exact m.examineWork_only _
    · exact .refl m _
  have only : (s.taken (.master p)).Only [.units, .freeLists, .streams, .contexts, .lines, .pool, .waiters, .credit, .groups, .dies, .link]
      n.serveSuspended :=
    ((((s.taken (.master p)).touchStream_only st).mono (by decide)).andThen (State.setProfile_only _ st pr q.sealNow)).andThen
      examined |>.andThen n.serveSuspended_only
  refine ⟨m, n, he, s.answered _ _ (only .masters (by decide)) (only .mport (by decide)) .ok [] [], set, fun h => if_pos ?_,
    fun h => if_neg ?_⟩
  · rw [(set.inForce h).pending]; rfl
  · rw [(set.stored h).1]; exact Bool.false_ne_true

/-- Where no page of a stream waits for a place, a profile that takes effect finds nothing to examine (R55). -/
theorem State.ProfileSet.nothingWaits {s m : State} {st : StreamId} {pr : Profile} {takes : Prop} (h : s.ProfileSet st pr takes m)
    (ht : takes) (hw : ∀ w ∈ s.waiters, w.stream ≠ st) (he : ∀ e ∈ s.credit.waitList, ¬ (e.reason = .space ∧ e.stream = st)) :
    m.examineStream st = m := by
  refine m.examineWork_none _ (fun w hm => ?_) (fun e hm hr => ?_)
  · rw [h.waiters ht] at hm
    obtain ⟨v, hv, rfl⟩ := List.mem_map.mp hm
    rw [if_neg (hw v hv)]; exact decide_eq_false (hw v hv)
  · rw [h.credit ht] at hm
    obtain ⟨v, hv, rfl⟩ := List.mem_map.mp hm
    rw [if_neg (he v hv)] at hr ⊢
    exact decide_eq_false (fun hst => he v hv ⟨hr, hst⟩)

/-- Settles O25: the profile is set as `State.ProfileSet` says, its waiting work examined where it takes effect. -/
theorem setProfileTakesEffect : Obligations.SetProfileTakesEffect := by
  unfold Obligations.SetProfileTakesEffect
  intro p s st hr q r hst hp takes
  have answer (n : State) : n.serveSuspended.Only [.masters] (q.answer n.serveSuspended .ok) :=
    Request.answer_only_master q p rfl n.serveSuspended .ok [] []
  refine ⟨fun pr hpr => ?_, fun hw hc pr hpr => ?_, fun hpr => ?_⟩
  · obtain ⟨m, n, he, answered, set, examined, stored⟩ := setProfile_sets p s st pr hr hst hp hpr
    refine ⟨m, n, _, he, answered, answer n, fun ht => ?_, fun ht => ⟨stored ht, set.stored ht⟩, set.state, set.port, set.only⟩
    obtain ⟨profile, pending, packCursor, spreadCursor, slots⟩ := set.inForce ht
    exact ⟨profile, pending, packCursor, spreadCursor, slots, set.waiters ht, set.credit ht,
      examined ht ▸ m.examineWork_examined _⟩
  · obtain ⟨m, n, he, answered, set, examined, stored⟩ := setProfile_sets p s st pr hr hst hp hpr
    have same : n = m := by
      by_cases ht : takes
      · exact (examined ht).trans (set.nothingWaits ht hw hc)
      · exact stored ht
    subst same
    have streams : (q.answer n.serveSuspended .ok).streams = n.streams :=
      ((answer n) .streams (by decide)).trans (n.serveSuspended_only .streams (by decide))
    refine ⟨_, he, answered, ?_⟩
    unfold State.OtherStreams
    rw [streams]
    refine ⟨fun ht => ?_, fun ht => ?_, set.state, set.port, ?_⟩
    · obtain ⟨profile, pending, packCursor, spreadCursor, slots⟩ := set.inForce ht
      exact ⟨profile, pending, packCursor, spreadCursor, slots⟩
    · obtain ⟨stream, others, -⟩ := set.stored ht
      exact ⟨stream, others⟩
    · exact ((set.only.mono (by decide)).andThen n.serveSuspended_only).andThen (answer n)
  · have he := (setProfile_checks p).bound s st hr hst hp
    rw [setProfileAct, hpr] at he
    exact ⟨_, he, s.touched_refused p st .badRequest⟩

end Sys2Proof.Machine
end

section
/-!
PROOFS. WRITE_END (R62, R67): the answer of a request that has ended, and the last request of a PARKED stream, whose open units are sealed and
join no young list (R32).
-/

namespace Sys2Proof.Machine

set_option Elab.async false

/-! ## Young lists of a stream that is not bound -/

/-- The empty-unit check may take its unit off a young list, and adds none to any (R9, R38). -/
theorem State.checkEmpty_young (s : State) (u : Nat) (st : StreamId) :
    ((s.checkEmpty u).streams.get st).young ⊆ (s.streams.get st).young := by
  have leave : ((s.leaveYoung u).streams.get st).young ⊆ (s.streams.get st).young := by
    unfold State.leaveYoung; split
    · next owner _ =>
      by_cases hx : st = owner
      · subst hx
        rw [State.modStream_streams, Table.get_modify_self]
        exact List.erase_subset
      · rw [State.modStream_streams, Table.get_modify_ne _ _ _ _ hx]
        exact fun _ h => h
    · exact fun _ h => h
  have erasing : (s.leaveYoung u).Only [.units, .groups, .dies] (s.enterErasing u) :=
    (((State.Only.refl _ _).andThen (State.modUnit_only _ u _)).andThen (State.handBackground_only _ u)).andThen
      (State.reportCounts_only _ u)
  have retired : (s.leaveYoung u).Only [.units, .groups] (s.enterRetired u) :=
    ((State.Only.refl _ _).andThen (State.modUnit_only _ u _)).andThen (State.reportCounts_only _ u)
  unfold State.checkEmpty State.leaveForErase
  split
  · exact fun _ h => h
  · split
    · split
      · exact fun _ h => h
      · split
        · rw [retired .streams (by decide)]; exact leave
        · rw [erasing .streams (by decide)]; exact leave
    · exact fun _ h => h

/-- A seal adds no unit to the young list of a stream that is not bound (R38). -/
theorem State.sealUnit_young (s : State) (u : Nat) (st : StreamId) (h : (s.streams.get st).state.bound = false) :
    ((s.sealUnit u).streams.get st).young ⊆ (s.streams.get st).young := by
  have pushed : ∀ (a : State) (owner : StreamId), a.streams = s.streams →
      ((a.pushYoung owner u).streams.get st).young = (s.streams.get st).young := fun a owner ha => by
    rw [State.pushYoung_streams, ha]
    by_cases hx : st = owner
    · subst hx; rw [Table.get_modify_self]; simp [h]
    · rw [Table.get_modify_ne _ _ _ _ hx]
  have checked : ∀ a : State, (a.streams.get st).young = (s.streams.get st).young →
      (((a.wakeUnit u).checkEmpty u).streams.get st).young ⊆ (s.streams.get st).young := fun a ha => by
    have := (a.wakeUnit u).checkEmpty_young u st
    rwa [a.wakeUnit_only u .streams (by decide), ha] at this
  unfold State.sealUnit
  split
  · exact fun _ h => h
  · refine checked _ ?_
    split
    · exact pushed _ _ rfl
    · rfl

/-- The seals of the slots of a stream that is not bound add no unit to its young list (R32, R38). -/
theorem State.sealAllSlots_young (s : State) (st : StreamId) (h : (s.streams.get st).state.bound = false) :
    ((s.sealAllSlots st).streams.get st).young ⊆ (s.streams.get st).young := by
  have pending : ∀ a : State, ((a.applyPending st).streams.get st).young = (a.streams.get st).young := fun a => by
    rw [(a.applyPending_stream st st).1]
  have one : ∀ (a : State) (q : Position), (a.streams.get st).state.bound = false →
      ((a.sealSlot st q).streams.get st).young ⊆ (a.streams.get st).young := fun a q ha => by
    unfold State.sealSlot; split
    · exact fun _ h => h
    · next o _ =>
      rw [pending]
      have emptied : (a.emptySlot st q).streams.get st = { a.streams.get st with slots := (a.streams.get st).slots.set q none } := by
        simp [State.emptySlot]
      have := (a.emptySlot st q).sealUnit_young o.unit st (by rw [emptied]; exact ha)
      rwa [emptied] at this
  have fold : ∀ (l : List Position) (a : State), (a.streams.get st).state.bound = false →
      ((l.foldl (fun s q => s.sealSlot st q) a).streams.get st).young ⊆ (a.streams.get st).young := fun l => by
    induction l with
    | nil => exact fun _ _ _ h => h
    | cons q l ih =>
      intro a ha
      refine List.Subset.trans (ih (a.sealSlot st q) ?_) (one a q ha)
      rw [(a.sealSlot_change st q).streams st]; exact ha
  rw [State.sealAllSlots, pending]
  exact fold _ s h

/-! ## The end of a request -/

/-- The reply, or the release of the reservation of an orphaned request, and the other ports as before (R62, R67). -/
theorem State.answerWrite_masters (s : State) (x : WriteContext) :
    (x.orphaned = false → (s.answerWrite x).masters.get x.id.port = { s.masters.get x.id.port with
      ring := (s.masters.get x.id.port).ring.writeReply x.id.slot (replyRecord kindWrite x.tag x.status x.replyBody) x.addressList }) ∧
    (x.orphaned = true → (s.answerWrite x).masters.get x.id.port =
      { s.masters.get x.id.port with ring := (s.masters.get x.id.port).ring.release x.id.slot }) ∧
    s.OtherPorts x.id.port (s.answerWrite x) := by
  unfold State.answerWrite
  refine ⟨fun h => ?_, fun h => ?_, fun q hq => ?_⟩
  · rw [h, if_neg Bool.false_ne_true, State.reply, State.modRing_master_masters, Table.get_modify_self]
  · rw [h, if_pos rfl, State.releaseSlot, State.modRing_master_masters, Table.get_modify_self]
  · split
    · rw [State.releaseSlot, State.modRing_master_masters, Table.get_modify_ne _ _ _ _ hq]
    · rw [State.reply, State.modRing_master_masters, Table.get_modify_ne _ _ _ _ hq]

/-- A request that ends, before its stream counts it no more: it is answered, leaves the share and has no context (R53, R62). -/
def State.closeRequest (s : State) (x : WriteContext) : State := ((s.answerWrite x).leaveShare x).dropContext x.id

/-- A context is found by its own name. -/
theorem State.context_id (s : State) (c : ContextId) (x : WriteContext) (h : s.context c = some x) : x.id = c := by
  simpa using List.find?_some h

/-- What closing the request `x` of a port's reply slot leaves: its context is gone, and it is answered, or its reservation released (R62,
R67). -/
structure State.RequestClosed (s : State) (p : MasterId) (slot : ReplySlot) (x : WriteContext) (t : State) : Prop where
  contexts : t.contexts = s.contexts.filter (fun y => decide (y.id ≠ ⟨p, slot⟩))
  replied : x.orphaned = false → t.masters.get p = { s.masters.get p with
    ring := (s.masters.get p).ring.writeReply slot (replyRecord kindWrite x.tag x.status x.replyBody) x.addressList }
  released : x.orphaned = true → t.masters.get p = { s.masters.get p with ring := (s.masters.get p).ring.release slot }
  otherPorts : s.OtherPorts p t
  credit : x.orphaned = true ∨ x.pages.length ≤ x.nextFresh → t.credit = s.credit
  only : s.Only [.contexts, .credit, .masters] t

theorem State.closeRequest_closed (s : State) (p : MasterId) (slot : ReplySlot) (x : WriteContext) (h : s.context ⟨p, slot⟩ = some x) :
    s.RequestClosed p slot x (s.closeRequest x) := by
  have hid := s.context_id _ x h
  have answered := s.answerWrite_only x
  have shared := (s.answerWrite x).leaveShare_only x
  have masters : (s.closeRequest x).masters = (s.answerWrite x).masters :=
    ((shared.mono (by decide)).andThen (State.dropContext_only _ x.id) (gs := [.credit, .contexts])) .masters (by decide)
  obtain ⟨replied, released, others⟩ := s.answerWrite_masters x
  rw [hid] at replied released others
  refine ⟨?_, by rw [masters]; exact replied, by rw [masters]; exact released, by rw [State.OtherPorts, masters]; exact others, fun hn => ?_,
    ((answered.mono (by decide)).andThen shared).andThen (State.dropContext_only _ x.id)⟩
  · have kept : ((s.answerWrite x).leaveShare x).contexts = s.contexts :=
      (shared .contexts (by decide)).trans (answered .contexts (by decide))
    rw [← kept, ← hid]; rfl
  · have kept : (s.answerWrite x).leaveShare x = s.answerWrite x := by
      rw [State.leaveShare, if_neg]
      rcases hn with hn | hn <;> simp [hn]
    rw [State.closeRequest, kept]
    exact answered .credit (by decide)

/-- WRITE_END of a request that nothing holds open (R62). -/
theorem exec_writeEnd_ended (p : MasterId) (slot : ReplySlot) (s : State) (x : WriteContext) (hx : s.context ⟨p, slot⟩ = some x)
    (he : s.requestEnded x = true) : exec (.writeEnd p slot) s = .next ((s.closeRequest x).requestGone x.stream) := by
  show execWriteEnd p slot s = _
  simp only [execWriteEnd, hx, he, if_true]; rfl

/-- The last request of a PARKED stream seals the stream's slots (R32); any other lowers the count alone (R25). -/
theorem State.requestGone_cases (s : State) (st : StreamId) :
    let b := s.modStream st (fun r => { r with outstanding := r.outstanding - 1 })
    let r := s.streams.get st
    (r.state = .parked → r.outstanding = 1 → s.requestGone st = b.sealAllSlots st) ∧
    (r.state ≠ .parked ∨ 1 < r.outstanding → s.requestGone st = b) := by
  intro b r
  have stream : b.streams.get st = { r with outstanding := r.outstanding - 1 } := by
    rw [State.modStream_streams, Table.get_modify_self]
  have gone : s.requestGone st =
      if (b.streams.get st).state = .parked ∧ (b.streams.get st).outstanding = 0 then b.sealAllSlots st else b := rfl
  rw [gone, stream]
  exact ⟨fun hp ho => if_pos ⟨hp, by rw [ho]⟩, fun h =>
    if_neg (fun hn => h.elim (· hn.1) (fun ho => by have zero : r.outstanding - 1 = 0 := hn.2; omega))⟩

/-- Settles O31: the request is closed, and the stream left with none and PARKED is sealed by `State.sealAllSlots`. -/
theorem writeEndReplies : Obligations.WriteEndReplies := by
  unfold Obligations.WriteEndReplies
  constructor
  · intro p slot s x hx hended r hparked hone
    have he := exec_writeEnd_ended p slot s x hx hended
    have closed := s.closeRequest_closed p slot x hx
    generalize s.closeRequest x = a at he closed
    have streams : a.streams = s.streams := closed.only .streams (by decide)
    let b := a.modStream x.stream (fun r => { r with outstanding := r.outstanding - 1 })
    have bst : b.streams.get x.stream = { r with outstanding := r.outstanding - 1 } := by
      rw [State.modStream_streams, Table.get_modify_self, streams]
    rw [(a.requestGone_cases x.stream).1 (by rw [streams]; exact hparked) (by rw [streams]; exact hone)] at he
    have sb : s.Only [.contexts, .credit, .masters, .streams] b := (closed.only.mono (by decide)).andThen (a.modStream_only _ _)
    obtain ⟨change, slots, sealedUnits⟩ := b.sealAllSlots_cases x.stream
    have young := b.sealAllSlots_young x.stream (by rw [bst, hparked]; rfl)
    have masters : (b.sealAllSlots x.stream).masters = a.masters := change.only .masters (by decide)
    refine ⟨_, he, (change.only .contexts (by decide)).trans closed.contexts, ?_, ?_, slots, fun u hu => ?_, fun k o y hk hy hyo hyv => ?_,
      by rw [masters]; exact closed.replied, by rw [masters]; exact closed.released,
      by rw [State.OtherPorts, masters]; exact closed.otherPorts, (sb.mono (by decide)).andThen change.only⟩
    · rw [change.streams, bst]; exact hparked
    · rw [change.streams, bst, hone]
    · have := young hu
      rwa [bst] at this
    · have htime : b.time = s.time := sb .time (by decide)
      rw [sealedUnits k o y (by rw [bst]; exact hk) ((sb.unit? _).trans hy), UnitRecord.sealResult, UnitRecord.checked, if_neg]
      · rw [UnitRecord.sealedAt, sb.pages, htime]
      · rw [UnitRecord.leavesSealed_iff]
        exact fun h => hyv h.2.1
  · intro p slot s x hx hended hkeep
    have he := exec_writeEnd_ended p slot s x hx hended
    have closed := s.closeRequest_closed p slot x hx
    generalize s.closeRequest x = a at he closed
    have streams : a.streams = s.streams := closed.only .streams (by decide)
    rw [(a.requestGone_cases x.stream).2 (by rw [streams]; exact hkeep)] at he
    refine ⟨_, he, closed.contexts, ?_, fun y hy => ?_, closed.otherPorts, closed.replied, closed.released, closed.credit,
      (closed.only.mono (by decide)).andThen (a.modStream_only _ _)⟩
    · rw [State.modStream_streams, Table.get_modify_self, streams]
    · rw [State.modStream_streams, Table.get_modify_ne _ _ _ _ hy, streams]

end Sys2Proof.Machine
end

section
/-!
PROOFS. PROGRAM_DONE (R60, R61, R118, R124, R144): the page that is counted, the source of a RELOC page, and the die that goes on, which resumes
its erase where the program was a suspended one.
-/

namespace Sys2Proof.Machine

set_option Elab.async false

/-! ## The page that is counted -/

/-- The record of a unit of which one page more is programmed and valid (R60). -/
def UnitRecord.counted (x : UnitRecord) : UnitRecord := { x with programmed := x.programmed + 1, valid := x.valid + 1 }

/-- A page's end DONE, before its source and the settling of its unit are looked at (R60). -/
def State.countPage (s : State) (k : PageKey) (e : PoolEntry) : State :=
  (((s.freeEntry e).modPage e.ref (fun p => { p with outcome := .done })).modUnit k.unit UnitRecord.counted).slotLower k.unit

/-- What a page's end DONE leaves of the unit, the pool and the dies: `x` is the unit's record before (R60). -/
structure State.PageEnded (s : State) (k : PageKey) (x : UnitRecord) (t : State) : Prop where
  unit : t.unit? k.unit = some x.counted
  pool : t.pool = s.pool.filter (fun y => decide (y.key ≠ k))
  dies : ∀ d, t.dies.get d = { s.dies.get d with
    queue := (t.dies.get d).queue, waiting := (t.dies.get d).waiting, backlogs := (t.dies.get d).backlogs }
  backlogs : ∀ d v, (t.dies.get d).backlogs.get v ⊆ (s.dies.get d).backlogs.get v
  only : s.Only [.units, .streams, .contexts, .pool, .groups, .dies] t

/-- A request with one page DONE (R60). -/
def WriteContext.withDone (x : WriteContext) (page : Nat) : WriteContext :=
  { x with pages := x.pages.modify page (fun g => { g with outcome := .done }) }

theorem State.context_modContext_self (s : State) (c : ContextId) (f : WriteContext → WriteContext) (x : WriteContext)
    (hf : ∀ y, (f y).id = y.id) (h : s.context c = some x) : (s.modContext c f).context c = some (f x) := by
  rw [State.context_modContext _ _ _ _ hf, if_pos rfl, h]; rfl

/-- A change of one page of a request is seen in its context. -/
theorem State.context_modPage_self (s : State) (r : PageRef) (f : PageRecord → PageRecord) (x : WriteContext) (h : s.context r.ctx = some x) :
    (s.modPage r f).context r.ctx = some { x with pages := x.pages.modify r.page f } :=
  s.context_modContext_self r.ctx _ x (fun _ => rfl) h

theorem State.freeEntry_backlogs (s : State) (e : PoolEntry) (d : DieId) (v : Level) :
    ((s.freeEntry e).dies.get d).backlogs.get v ⊆ (s.dies.get d).backlogs.get v := by
  have dies : (s.freeEntry e).dies = s.dies.modify e.die (fun r => { r with backlogs := r.backlogs.modify e.level (·.erase e.key) }) := rfl
  rw [dies, Table.get_modify]
  split
  · dsimp only
    rw [Table.get_modify]
    split
    · exact List.erase_subset
    · exact fun _ h => h
  · exact fun _ h => h

/-- The page is counted in its unit alone, and its record is DONE (R60). -/
theorem State.countPage_cases (s : State) (k : PageKey) (e : PoolEntry) (ctx : WriteContext) (x : UnitRecord)
    (he : s.poolEntry k = some e) (hctx : s.context e.ref.ctx = some ctx) (hx : s.unit? k.unit = some x) :
    let t := s.countPage k e
    s.PageEnded k x t ∧ s.OtherUnits k.unit t ∧
    t.context e.ref.ctx = some (ctx.withDone e.ref.page) := by
  intro t
  let a := s.freeEntry e
  let b := a.modPage e.ref (fun p => { p with outcome := .done })
  let c := b.modUnit k.unit UnitRecord.counted
  have hk : e.key = k := by simpa using List.find?_some he
  have sa := s.freeEntry_only e
  have ab : a.Only [.contexts] b := a.modPage_only _ _
  have sb : s.Only [.pool, .dies, .contexts] b := (sa.mono (by decide)).andThen ab
  have bc : b.Only [.units] c := b.modUnit_only _ _
  have ct : c.Only [.streams] t := c.slotLower_only k.unit
  have bt : b.Only [.units, .streams] t := (bc.mono (by decide)).andThen ct
  have dies : t.dies = a.dies := (bt .dies (by decide)).trans (ab .dies (by decide))
  refine ⟨⟨?_, ?_, fun d => ?_, fun d v => ?_, (sb.mono (by decide)).andThen bt⟩, fun v hv => ?_, ?_⟩
  · rw [ct.unit?, State.unit?_modUnit_self, sb.unit?, hx]; rfl
  · rw [bt .pool (by decide), ab .pool (by decide), ← hk]; rfl
  · rw [dies, s.freeEntry_dies e d]
  · rw [dies]; exact s.freeEntry_backlogs e d v
  · rw [ct.unit?, State.unit?_modUnit_ne _ _ _ _ hv, sb.unit?]
  · rw [bt.context]
    exact a.context_modPage_self e.ref _ ctx ((sa.context _).trans hctx)

/-- A change of another unit keeps what the page's end has left. -/
theorem State.PageEnded.unitChange {s a t : State} {k : PageKey} {x : UnitRecord} {u : Nat} (h : s.PageEnded k x a) (hc : a.UnitChange u t)
    (hu : u ≠ k.unit) : s.PageEnded k x t where
  unit := (hc.others k.unit (Ne.symm hu)).trans h.unit
  pool := (hc.only .pool (by decide)).trans h.pool
  dies d := by rw [hc.dies d, h.dies d]
  backlogs d v := by rw [hc.dies d]; exact h.backlogs d v
  only := h.only.andThen hc.only

/-- So does a change that leaves the unit, the pool and the dies alone. -/
theorem State.PageEnded.andThen {s a t : State} {k : PageKey} {x : UnitRecord} (h : s.PageEnded k x a) (ho : a.Only [.contexts, .groups] t) :
    s.PageEnded k x t where
  unit := (ho.unit? _).trans h.unit
  pool := (ho .pool (by decide)).trans h.pool
  dies d := by rw [ho .dies (by decide)]; exact h.dies d
  backlogs d v := by rw [ho .dies (by decide)]; exact h.backlogs d v
  only := h.only.andThen ho

/-- A unit with a valid page does not leave SEALED when its last program is DONE: its group alone hears of it (R9, R92). -/
theorem State.settleCheck_valid (s : State) (u : Nat) (x : UnitRecord) (h : s.unit? u = some x) (hv : x.valid ≠ 0) :
    s.Only [.groups] (s.settleCheck u) := by
  have woken := s.wakeUnit_only u
  simp only [State.settleCheck, h]
  split
  · rw [State.checkEmpty_stays _ u x ((woken.unit? u).trans h) (by simp [UnitRecord.leavesSealed, hv])]
    exact woken
  · exact .refl s _

/-- A page's end DONE step by step (R60, R61). -/
theorem State.pageDone_eq (s : State) (k : PageKey) (e : PoolEntry) (y : WriteContext) (he : s.poolEntry k = some e)
    (hy : (s.countPage k e).context e.ref.ctx = some y) : s.pageDone k = ((s.countPage k e).relocDone y).settleCheck k.unit := by
  have unfolded : s.pageDone k = (match (s.countPage k e).context e.ref.ctx with
      | some x => (s.countPage k e).relocDone x
      | none => s.countPage k e).settleCheck k.unit := by
    simp only [State.pageDone, he]; rfl
  rw [unfolded, hy]

/-! ## The source of a RELOC page -/

theorem UnitRecord.takesSource_iff (y : UnitRecord) (src : SourceUnit) : y.takesSource src = true ↔
    ((y.state = .sealed ∨ y.state = .reclaim) ∧ y.sealEpoch = src.sealEpoch ∧ y.eraseCount = src.eraseCount) ∧ y.valid ≠ 0 := by
  simp [takesSource, and_assoc, Nat.pos_iff_ne_zero]

/-- A source in its old sealing and erase gives up a valid page, and leaves SEALED for the erase only where it was the last (R61). -/
theorem State.relocDone_takes (s : State) (x : WriteContext) (src : SourceUnit) (y : UnitRecord) (hs : x.source = some src)
    (hy : s.unit? src.unit = some y) (ht : y.takesSource src = true) :
    s.UnitChange src.unit (s.relocDone x) ∧
    (1 < y.valid → (s.relocDone x).unit? src.unit = some { y with valid := y.valid - 1 }) := by
  let a := s.lowerValid src.unit 1
  have sa : s.UnitChange src.unit a := s.modUnit_change src.unit _
  have ay : a.unit? src.unit = some { y with valid := y.valid - 1 } := by
    show (s.modUnit src.unit _).unit? src.unit = _
    rw [State.unit?_modUnit_self, hy]; rfl
  have woken := a.wakeUnit_only src.unit
  have eq : s.relocDone x = if y.state = .sealed then (a.wakeUnit src.unit).checkEmpty src.unit else a := by
    simp only [State.relocDone, hs, hy, ht, if_true]; rfl
  rw [eq]
  split
  · refine ⟨(sa.trans (a.wakeUnit_change _ _)).trans (State.checkEmpty_change _ _), fun hv => ?_⟩
    have stays : ({ y with valid := y.valid - 1 } : UnitRecord).leavesSealed = false := by
      simp [UnitRecord.leavesSealed, Nat.sub_ne_zero_of_lt hv]
    rw [State.checkEmpty_stays _ _ _ ((woken.unit? _).trans ay) stays, woken.unit?, ay]
  · exact ⟨sa, fun _ => ay⟩

/-- A source that has changed since, or has no valid page left, is left alone, and the request counts a skew (R61). -/
theorem State.relocDone_skews (s : State) (x : WriteContext) (src : SourceUnit) (y : UnitRecord) (hs : x.source = some src)
    (hy : s.unit? src.unit = some y) (ht : y.takesSource src = false) :
    s.relocDone x = s.modContext x.id (fun z => { z with skew := z.skew + 1 }) := by
  simp only [State.relocDone, hs, hy, ht, Bool.false_eq_true, if_false]

/-! ## A page's end DONE -/

/-- A HOST page's end (R60). -/
theorem State.pageDone_host (s : State) (k : PageKey) (e : PoolEntry) (ctx : WriteContext) (x : UnitRecord)
    (he : s.poolEntry k = some e) (hctx : s.context e.ref.ctx = some ctx) (hsrc : ctx.source = none) (hx : s.unit? k.unit = some x) :
    s.PageEnded k x (s.pageDone k) ∧ s.OtherUnits k.unit (s.pageDone k) ∧
    (s.pageDone k).context e.ref.ctx =
      some (ctx.withDone e.ref.page) := by
  obtain ⟨counted, others, context⟩ := s.countPage_cases k e ctx x he hctx hx
  have settled := (s.countPage k e).settleCheck_valid k.unit _ counted.unit (by simp [UnitRecord.counted])
  have eq := s.pageDone_eq k e _ he context
  have noSource : (s.countPage k e).relocDone (ctx.withDone e.ref.page) =
      s.countPage k e := by simp only [State.relocDone, WriteContext.withDone, hsrc]
  rw [eq, noSource]
  exact ⟨counted.andThen (settled.mono (by decide)), fun v hv => (settled.unit? v).trans (others v hv), (settled.context _).trans context⟩

/-- A RELOC page's end (R60, R61). -/
theorem State.pageDone_reloc (s : State) (k : PageKey) (e : PoolEntry) (ctx : WriteContext) (src : SourceUnit) (x y : UnitRecord)
    (he : s.poolEntry k = some e) (hctx : s.context e.ref.ctx = some ctx) (hsrc : ctx.source = some src) (hne : src.unit ≠ k.unit)
    (hx : s.unit? k.unit = some x) (hy : s.unit? src.unit = some y) :
    let t := s.pageDone k
    s.PageEnded k x t ∧
    (y.takesSource src = true → 1 < y.valid → t.unit? src.unit = some { y with valid := y.valid - 1 } ∧
      (t.context e.ref.ctx).map (·.skew) = some ctx.skew) ∧
    (y.takesSource src = false → t.unit? src.unit = some y ∧ (t.context e.ref.ctx).map (·.skew) = some (ctx.skew + 1)) ∧
    ∀ u, u ≠ k.unit → u ≠ src.unit → t.unit? u = s.unit? u := by
  intro t
  obtain ⟨counted, others, context⟩ := s.countPage_cases k e ctx x he hctx hx
  have eq : t = _ := s.pageDone_eq k e _ he context
  generalize s.countPage k e = a at counted others context eq
  have ay : a.unit? src.unit = some y := (others _ hne).trans hy
  have hid : (ctx.withDone e.ref.page).id = e.ref.ctx := s.context_id _ ctx hctx
  cases ht : y.takesSource src with
  | true =>
    obtain ⟨change, gives⟩ := a.relocDone_takes (ctx.withDone e.ref.page) src y hsrc ay ht
    generalize a.relocDone (ctx.withDone e.ref.page) = b at change gives eq
    have bended := counted.unitChange change hne
    have settled := b.settleCheck_valid k.unit _ bended.unit (by simp [UnitRecord.counted])
    rw [eq]
    refine ⟨bended.andThen (settled.mono (by decide)), fun _ hv => ⟨(settled.unit? _).trans (gives hv), ?_⟩, fun h => (nomatch h),
      fun u hk hs => ?_⟩
    · rw [settled.context, change.only.context, context]; rfl
    · rw [settled.unit?, change.others u hs, others u hk]
  | false =>
    rw [a.relocDone_skews (ctx.withDone e.ref.page) src y hsrc ay ht] at eq
    let b := a.modContext (ctx.withDone e.ref.page).id (fun z => { z with skew := z.skew + 1 })
    have ab : a.Only [.contexts] b := a.modContext_only _ _
    have bended : s.PageEnded k x b := counted.andThen (ab.mono (by decide))
    have settled := b.settleCheck_valid k.unit _ bended.unit (by simp [UnitRecord.counted])
    rw [eq]
    refine ⟨bended.andThen (settled.mono (by decide)), fun h => (nomatch h), fun _ => ⟨?_, ?_⟩, fun u hk _ => ?_⟩
    · rw [settled.unit?, ab.unit?, ay]
    · have skewed := a.context_modContext_self e.ref.ctx (fun z => { z with skew := z.skew + 1 }) _ (fun _ => rfl) context
      rw [← hid] at skewed
      rw [settled.context, ← hid, skewed]; rfl
    · rw [settled.unit?, ab.unit?, others u hk]

/-! ## A SUSPENDED die that decides again -/

theorem DieRecord.windowOpen_iff (r : DieRecord) : r.windowOpen = true ↔ ∃ p n, r.windows.get p = .opened n := by
  rw [windowOpen, List.any_eq_true]
  constructor
  · rintro ⟨w, hw, ho⟩
    obtain ⟨p, rfl⟩ := (r.windows.mem_items w).mp hw
    cases h : r.windows.get p with
    | opened n => exact ⟨p, n, h⟩
    | closed => rw [h] at ho; cases ho
    | waiting pl => rw [h] at ho; cases ho
  · rintro ⟨p, n, h⟩
    exact ⟨_, (r.windows.mem_items _).mpr ⟨p, h⟩, rfl⟩

/-- Where one die alone is SUSPENDED, it alone decides again (R123, R124). -/
theorem State.serveSuspended_one (s : State) (d : DieId) (h : (s.dies.get d).state = .suspended)
    (ho : ∀ x, (s.dies.get x).state = .suspended → x = d) : s.serveSuspended = s.serveDie d false := by
  have one : s.dies.indices (fun r => decide (r.state = .suspended)) = [d] := by
    have : ∀ x, decide ((s.dies.get x).state = .suspended) = decide (x = d) := fun x =>
      decide_eq_decide.mpr ⟨ho x, fun e => e ▸ h⟩
    simp only [Table.indices, this, List.filter_eq, List.count_eq_one_of_mem (List.nodup_finRange 32) (List.mem_finRange d)]
    rfl
  rw [State.serveSuspended, one]; rfl

/-- A SUSPENDED die with empty backlogs and no suspended program resumes its erase, unless a window is OPEN or it has to wait for a place
(R123, R124, R140). -/
theorem State.serveDie_emptyBacklogs (s : State) (d : DieId) (u : Nat) (hs : (s.dies.get d).state = .suspended)
    (hp : (s.dies.get d).purpose = some .serve) (hn : (s.dies.get d).suspendedProgram = none)
    (hc : (s.dies.get d).current = some (.erase u)) (hb : ∀ v, (s.dies.get d).backlogs.get v = []) :
    let t := s.serveDie d false
    ((t.dies.get d).suspendedProgram = none ∧ (t.dies.get d).current = some (.erase u)) ∧
    ((s.dies.get d).windowOpen = true → t = s) ∧
    ((s.dies.get d).windowOpen = false → s.mayHandOver false = true → t = s.resumeErase d u) := by
  intro t
  have noPage : s.hasEligible d = false := by simp [State.hasEligible, State.oldestEligible, hb]
  have serves : s.servesProgram d = false := by simp [State.servesProgram, noPage]
  have resumes : s.resumes d = !(s.dies.get d).windowOpen := by simp [State.resumes, hn, noPage]
  have unit : (s.dies.get d).erasingUnit = some u := by simp only [DieRecord.erasingUnit, hc]
  have served : t = if (s.dies.get d).windowOpen = true then s
      else if s.mayHandOver false = true then s.resumeErase d u else s.joinWaiting d := by
    cases hw : (s.dies.get d).windowOpen <;> simp [t, State.serveDie, hs, hp, serves, resumes, hw, unit]
  rw [served]
  refine ⟨?_, fun hw => if_pos hw, fun hw hm => ?_⟩
  · split
    · exact ⟨hn, hc⟩
    · split
      · rw [State.resumeErase, State.handOver_dies, State.modDie_dies, Table.get_modify_self]
        exact ⟨hn, hc⟩
      · rw [State.joinWaiting_dies]
        exact ⟨hn, hc⟩
  · rw [hw, if_neg Bool.false_ne_true, if_pos hm]

/-- What a RESUME leaves of its die and the link (R124, R138). -/
theorem State.resumeErase_cases (s : State) (d : DieId) (u : Nat) (h : s.link.tags.length < 256) :
    s.link.Resumes d (s.dies.get d) u (s.resumeErase d u) := by
  let v := s.modDie d (fun r => { r with state := .erase, purpose := none, programs := none, opTimer := r.heldErase, heldErase := none })
  refine ⟨v.handOver_handedOver .resume d u none h, ?_⟩
  rw [State.resumeErase, State.handOver_dies, State.modDie_dies, Table.get_modify_self]

/-! ## PROGRAM-DONE -/

/-- A DONE that is matched releases its tag and records no fail (R144). -/
theorem State.takeMatched_done (s : State) (c : Completion) (e : TagEntry) (hn : s.Names c e) (hc : c.kind = 0) :
    (s.takeMatched c e).link = { s.link with
      tags := s.link.tags.filter (fun y => decide (y.tag ≠ c.tag))
      queue := s.link.queue.filter (fun y => decide (y.tag ≠ c.tag)) } := by
  have notFail : c.kind ≠ 1 := by rw [hc]; decide
  simp only [State.takeMatched, if_neg notFail, hn.tag]; rfl

/-- The tag that is released leaves room for one more (R138). -/
theorem State.Names.tags_lt {s : State} {c : Completion} {e : TagEntry} (h : s.Names c e) :
    (s.link.tags.filter (fun y => decide (y.tag ≠ c.tag))).length < s.link.tags.length :=
  List.length_filter_lt_length_iff_exists.mpr ⟨e, List.mem_of_find?_eq_some h.1, by simp [h.tag]⟩

/-- PROGRAM_DONE of the page of a matched entry (R60, R118). -/
theorem exec_programDone (c : Completion) (s : State) (e : TagEntry) (k : PageKey) (hn : s.Names c e) (hk : e.kind = .program)
    (hc : c.kind = 0) (hp : e.page = some k) : exec (.programDone c) s =
      .next (((s.takeMatched c e).pageDone k).modDie e.die (fun r => r.programEnded k)).serveSuspended := by
  have := s.onCompletion_names c e .program [doneCode] (fun e s => s.endProgram e (fun k s => s.pageDone k)) hn hk
    (by rw [hc]; rfl) (by rw [hc]; simp [doneCode])
  refine this.trans (congrArg _ ?_)
  simp only [State.endProgram, hp]

/-- A program's end brings no die into SUSPENDED (R118). -/
theorem State.PageEnded.noneSuspended {s b : State} {k : PageKey} {x : UnitRecord} (h : s.PageEnded k x b) (hn : s.NoneSuspended)
    (d : DieId) : (b.modDie d (fun r => r.programEnded k)).NoneSuspended := fun y => by
  have state : (b.dies.get y).state ≠ .suspended := by rw [h.dies y]; exact hn y
  rw [State.modDie_dies, Table.get_modify]
  split
  · exact DieRecord.programEnded_state _ k state
  · exact state

/-- A suspended program that ends leaves its die SUSPENDED, without its timer, and the other dies in their states (R118). -/
theorem State.PageEnded.suspendedEnded {s b : State} {k : PageKey} {x : UnitRecord} (h : s.PageEnded k x b) (d : DieId)
    (hs : (s.dies.get d).suspendedProgram = some k) :
    let m := b.modDie d (fun r => r.programEnded k)
    m.dies.get d = { s.dies.get d with
      queue := (b.dies.get d).queue
      waiting := (b.dies.get d).waiting
      backlogs := (b.dies.get d).backlogs
      suspendedProgram := none
      opTimer := none } ∧
    ∀ y, y ≠ d → (m.dies.get y).state = (s.dies.get y).state := by
  intro m
  have die := h.dies d
  refine ⟨?_, fun y hy => ?_⟩
  · rw [State.modDie_dies, Table.get_modify_self, DieRecord.programEnded, if_pos (by rw [die]; exact hs), die]
  · rw [State.modDie_dies, Table.get_modify_ne _ _ _ _ hy, h.dies y]

/-- Settles O57: the page's end is `State.pageDone`, and the die whose program was a suspended one decides again. -/
theorem programDoneCounts : Obligations.ProgramDoneCounts := by
  unfold Obligations.ProgramDoneCounts
  refine ⟨?_, ?_, ?_⟩
  · intro c s e k pe ctx x u hn hk hc hpage hpool hctx hsrc hx r l hs hp hsus hcur hone hempty
    have he := exec_programDone c s e k hn hk hc hpage
    have ao : s.Only [.link] (s.takeMatched c e) := s.takeMatched_only c e
    have alink : (s.takeMatched c e).link = l := s.takeMatched_done c e hn hc
    obtain ⟨ended, others, -⟩ := (s.takeMatched c e).pageDone_host k pe ctx x hpool hctx hsrc hx
    generalize (s.takeMatched c e).pageDone k = b at he ended others
    let m := b.modDie e.die (fun r => r.programEnded k)
    have bm : b.Only [.dies] m := b.modDie_only _ _
    have adies : (s.takeMatched c e).dies = s.dies := ao .dies (by decide)
    obtain ⟨mdie, mstates⟩ := ended.suspendedEnded e.die (by rw [adies]; exact hsus)
    rw [adies] at mdie mstates
    have mlink : m.link = l := (bm .link (by decide)).trans ((ended.only .link (by decide)).trans alink)
    have backlogs : ∀ v, (b.dies.get e.die).backlogs.get v = [] := fun v => by
      have kept := ended.backlogs e.die v
      rw [adies, hempty v] at kept
      exact List.eq_nil_of_subset_nil kept
    have alone : ∀ d, (m.dies.get d).state = .suspended → d = e.die := fun d hd => by
      by_contra hne
      exact hne (hone d ((mstates d hne).symm.trans hd))
    obtain ⟨⟨noProgram, erase⟩, stays, resumes⟩ := m.serveDie_emptyBacklogs e.die u (by rw [mdie]; exact hs) (by rw [mdie]; exact hp)
      (by rw [mdie]) (by rw [mdie]; exact hcur) (by rw [mdie]; exact backlogs)
    have windows : (m.dies.get e.die).windowOpen = r.windowOpen := by rw [mdie]; rfl
    rw [windows] at stays resumes
    rw [m.serveSuspended_one e.die (by rw [mdie]; exact hs) alone] at he
    have bt : b.Only [.dies, .link] (m.serveDie e.die false) := (bm.mono (by decide)).andThen (m.serveDie_only e.die false)
    refine ⟨_, he, (bt.unit? _).trans ended.unit, fun v hv => (bt.unit? v).trans (others v hv), noProgram, erase, fun hw => ?_,
      fun hw hq ht hwait => ?_,
      ((ao.mono (by decide)).andThen ended.only (gs := [.units, .streams, .contexts, .pool, .groups, .dies, .link])).andThen bt⟩
    · rw [stays (r.windowOpen_iff.mpr hw), mdie]
      exact ⟨hs, rfl, rfl, rfl, mlink⟩
    · have closed : r.windowOpen = false := Bool.eq_false_iff.mpr (fun h => by
        obtain ⟨p, n, ho⟩ := r.windowOpen_iff.mp h
        exact hw p n ho)
      have tags : l.tags.length < 32 := lt_of_lt_of_le hn.tags_lt ht
      have queue : l.queue.length < 32 := lt_of_le_of_lt (List.length_filter_le _ _) hq
      have place : m.mayHandOver false = true := by
        simp [State.mayHandOver, Link.hasPlace, Config.linkLimit, mlink, tags, queue, show l.waiting = [] from hwait]
      obtain ⟨handed, die⟩ := m.resumeErase_cases e.die u (by rw [mlink]; omega)
      rw [resumes closed place, die, mdie]
      exact ⟨rfl, rfl, rfl, rfl, rfl, mlink ▸ handed⟩
  · intro c s e k pe ctx x hn hk hc hpage hpool hctx hsrc hx hnone hsus
    have he := exec_programDone c s e k hn hk hc hpage
    have ao : s.Only [.link] (s.takeMatched c e) := s.takeMatched_only c e
    have adies : (s.takeMatched c e).dies = s.dies := ao .dies (by decide)
    have anone : (s.takeMatched c e).NoneSuspended := fun d => by rw [adies]; exact hnone d
    obtain ⟨ended, others, context⟩ := (s.takeMatched c e).pageDone_host k pe ctx x hpool hctx hsrc hx
    rw [State.serveSuspended_none _ (ended.noneSuspended anone e.die)] at he
    generalize (s.takeMatched c e).pageDone k = b at he ended others context
    have bm := b.modDie_only e.die (fun r => r.programEnded k)
    have bdies := ended.dies
    rw [adies] at bdies
    refine ⟨_, he, ?_, ended.unit, others, ended.pool, context, fun hcur => ?_, fun d hd => ?_,
      ((ao.mono (by decide)).andThen ended.only (gs := [.units, .streams, .contexts, .pool, .groups, .dies, .link])).andThen bm⟩
    · rw [bm .link (by decide), ended.only .link (by decide)]
      exact s.takeMatched_done c e hn hc
    · rw [State.modDie_dies, Table.get_modify_self,
        DieRecord.programEnded_current _ k (by rw [bdies]; exact hsus) (by rw [bdies]; exact hcur)]
      exact ⟨rfl, rfl, rfl⟩
    · rw [State.modDie_dies, Table.get_modify_ne _ _ _ _ hd, bdies]
      exact ⟨rfl, rfl⟩
  · intro c s e k pe ctx src x y hn hk hc hpage hpool hctx hsrc hne hx hy hnone same
    have he := exec_programDone c s e k hn hk hc hpage
    have ao : s.Only [.link] (s.takeMatched c e) := s.takeMatched_only c e
    have adies : (s.takeMatched c e).dies = s.dies := ao .dies (by decide)
    have anone : (s.takeMatched c e).NoneSuspended := fun d => by rw [adies]; exact hnone d
    obtain ⟨ended, takes, skews, others⟩ := (s.takeMatched c e).pageDone_reloc k pe ctx src x y hpool hctx hsrc hne hx hy
    rw [State.serveSuspended_none _ (ended.noneSuspended anone e.die)] at he
    have source := y.takesSource_iff src
    refine ⟨_, he, ended.unit, fun h hv => takes (source.mpr ⟨h, by omega⟩) hv, fun h => skews (Bool.eq_false_iff.mpr fun ht => ?_), others,
      ((ao.mono (by decide)).andThen ended.only (gs := [.units, .streams, .contexts, .pool, .groups, .dies, .link])).andThen
        (State.modDie_only _ _ _)⟩
    obtain ⟨hsame, hv⟩ := source.mp ht
    exact h.elim (· hsame) hv

end Sys2Proof.Machine
end

section
/-!
PROOFS. PLACE_PAGE into an open unit (R44, R50 to R56) and REPLACE_PAGE (R65): the page that is taken, the unit that it fills, the request or the
list that goes on, and the one that waits for space.
-/

namespace Sys2Proof.Machine

set_option Elab.async false

/-! ## Triggers and dies -/

/-- A trigger leaves every backlog, and no die but one that becomes SUSPENDING changes its state (R121). -/
theorem State.trigger_states (s : State) (d : DieId) (offered : Bool) (x : DieId) :
    (((s.trigger d offered).dies.get x).state = (s.dies.get x).state ∨ ((s.trigger d offered).dies.get x).state = .suspending) ∧
    ((s.trigger d offered).dies.get x).backlogs = (s.dies.get x).backlogs := by
  have suspends : ∀ u, (s.suspendToServe d u).dies = s.dies.modify d (fun r => { r with state := .suspending, purpose := some .serve }) :=
    fun u => by rw [State.suspendToServe, State.handOver_dies]; rfl
  unfold State.trigger; dsimp only
  split
  · split
    · exact ⟨.inl rfl, rfl⟩
    · next u _ =>
      split
      · split
        · rw [suspends, Table.get_modify]
          split
          · exact ⟨.inr rfl, rfl⟩
          · exact ⟨.inl rfl, rfl⟩
        · rw [State.joinWaiting_dies]; exact ⟨.inl rfl, rfl⟩
      · exact ⟨.inl rfl, rfl⟩
  · exact ⟨.inl rfl, rfl⟩

theorem State.pageTrigger_states (s : State) (d : DieId) (k : PageKey) (x : DieId) :
    (((s.pageTrigger d k).dies.get x).state = (s.dies.get x).state ∨ ((s.pageTrigger d k).dies.get x).state = .suspending) ∧
    ((s.pageTrigger d k).dies.get x).backlogs = (s.dies.get x).backlogs := by
  unfold State.pageTrigger; split
  · exact s.trigger_states d false x
  · exact ⟨.inl rfl, rfl⟩

/-! ## The page that is taken -/

/-- What a stream's open slot holds once a page is taken from its unit (R36, R50). -/
def OpenSlot.withPage (o : OpenSlot) : OpenSlot := { o with allocated := o.allocated + 1, idle := 0, sealDue := false }

/-- A request with one page ALLOCATED at an address (R43). -/
def WriteContext.withAddress (x : WriteContext) (page : Nat) (a : PageAddress) : WriteContext :=
  { x with pages := x.pages.modify page (fun g => { g with outcome := .allocated, address := some a }) }

/-- What taking a page from the open unit of a slot leaves, before a unit that it has filled is sealed: `o` is the slot and `u` the unit's
record before (R44, R50, R52). -/
structure State.PageTaken (s : State) (st : StreamId) (c : GroupConfig) (q : Position) (x : WriteContext) (page : Nat) (o : OpenSlot)
    (u : UnitRecord) (t : State) : Prop where
  unit : (t.unit? o.unit).map UnitRecord.unsuspended = some { u with writePointer := u.writePointer + 1 }.unsuspended
  stream : t.streams.get st = { s.streams.get st with
    slots := (s.streams.get st).slots.set q (some o.withPage)
    packCursor := (t.streams.get st).packCursor
    spreadCursor := (t.streams.get st).spreadCursor }
  cursor : (t.streams.get st).cursor = (match (s.streams.get st).profile.mode with | .pack => q | .spread => s.nextEnabled st q)
  otherStreams : s.OtherStreams st t
  pool : t.pool = s.pool ++ [⟨⟨x.id, page⟩, ⟨o.unit, u.writePointer⟩, c.dieAt q, s.levelFor st c x.cls, x.handle + BitVec.ofNat 32 page⟩]
  context : t.context x.id = some (x.withAddress page ⟨c.dieAt q, s.blockOf o.unit, u.writePointer⟩)
  states : ∀ d, (t.dies.get d).state = (s.dies.get d).state ∨ (t.dies.get d).state = .suspending
  backlogs : (t.dies.get (c.dieAt q)).backlogs =
    (s.dies.get (c.dieAt q)).backlogs.modify (s.levelFor st c x.cls) (· ++ [⟨o.unit, u.writePointer⟩])
  only : s.Only [.units, .streams, .contexts, .pool, .dies, .link] t

/-- The cursor of the stream's mode moves to the position, or to the next enabled one (R50). -/
theorem State.moveCursor_stream (s : State) (st : StreamId) (q : Position) :
    (s.moveCursor st q).streams.get st = { s.streams.get st with
      packCursor := ((s.moveCursor st q).streams.get st).packCursor
      spreadCursor := ((s.moveCursor st q).streams.get st).spreadCursor } ∧
    ((s.moveCursor st q).streams.get st).cursor =
      (match (s.streams.get st).profile.mode with | .pack => q | .spread => s.nextEnabled st q) := by
  simp only [State.moveCursor, State.modStream_streams, Table.get_modify_self, StreamRecord.cursor]
  cases h : (s.streams.get st).profile.mode <;> simp [h]

/-- Taking a page, and then sealing the unit that it has filled (R50, R56). -/
theorem State.takePage_taken (s : State) (st : StreamId) (c : GroupConfig) (q : Position) (x : WriteContext) (page : Nat) (o : OpenSlot)
    (u : UnitRecord) (ho : (s.streams.get st).slots.get q = some o) (hu : s.unit? o.unit = some u) (hx : s.context x.id = some x) :
    ∃ t, s.PageTaken st c q x page o u t ∧
      s.takePage st c q x page = if u.writePointer + 1 = s.pages then t.sealSlot st q else t := by
  let a := s.modUnit o.unit (fun r => { r with writePointer := r.writePointer + 1 })
  let b := a.modStream st (fun r => { r with slots := r.slots.set q (some o.withPage) })
  let key : PageKey := ⟨o.unit, u.writePointer⟩
  let level := s.levelFor st c x.cls
  let entry : PoolEntry := ⟨⟨x.id, page⟩, key, c.dieAt q, level, x.handle + BitVec.ofNat 32 page⟩
  let address : PageAddress := ⟨c.dieAt q, s.blockOf o.unit, u.writePointer⟩
  let e : State := { b with pool := b.pool ++ [entry] }
  let f := e.modPage ⟨x.id, page⟩ (fun p => { p with outcome := .allocated, address := some address })
  let g := f.modDie (c.dieAt q) (fun r => { r with backlogs := r.backlogs.modify level (· ++ [key]) })
  let h := g.moveCursor st q
  let t := h.pageTrigger (c.dieAt q) key
  have pointer : ((s.unit? o.unit).map (·.writePointer)).getD 0 = u.writePointer := by rw [hu]; rfl
  have ae : a.Only [.streams, .pool] e := ((a.modStream_only st _).mono (by decide)).andThen (b.setPool_only _)
  have se : s.Only [.units, .streams, .pool] e := ((s.modUnit_only o.unit _).mono (by decide)).andThen ae
  have eg : e.Only [.contexts, .dies] g := ((State.modPage_only e _ _).mono (by decide)).andThen (State.modDie_only f _ _)
  have gh : g.Only [.streams] h := g.moveCursor_only st q
  have ht := h.pageTrigger_only (c.dieAt q) key
  have fh : f.Only [.dies, .streams] h := ((f.modDie_only _ _).mono (by decide)).andThen gh
  have only : s.Only [.units, .streams, .contexts, .pool, .dies, .link] t :=
    (((se.mono (by decide)).andThen eg).andThen gh).andThen ht
  have streams : t.streams = h.streams := ht .streams (by decide)
  have gstreams : g.streams = b.streams := eg .streams (by decide)
  have bst : b.streams.get st = { s.streams.get st with slots := (s.streams.get st).slots.set q (some o.withPage) } := by
    simp [b, a]
  have mode : (g.streams.get st).profile = (s.streams.get st).profile := by rw [gstreams, bst]
  have next : g.nextEnabled st q = s.nextEnabled st q := by
    have groups : g.groups = s.groups := (eg .groups (by decide)).trans (se .groups (by decide))
    have config : g.config = s.config := by funext i; simp only [State.config, groups]
    simp only [State.nextEnabled, State.enabledPositions, State.streamConfig, gstreams, bst, config]
  obtain ⟨moved, cursor⟩ := g.moveCursor_stream st q
  refine ⟨t, ⟨?_, ?_, ?_, fun y hy => ?_, ?_, ?_, fun d => ?_, ?_, only⟩, ?_⟩
  · have same : h.unit? o.unit = a.unit? o.unit := (gh.unit? _).trans ((eg.unit? _).trans (ae.unit? _))
    rw [h.pageTrigger_unit, same, State.unit?_modUnit_self, hu]; rfl
  · rw [streams, moved, gstreams, bst]
  · rw [streams, cursor, mode, next]
  · rw [streams, (g.moveCursor_streams st q).1 y hy, gstreams, State.modStream_streams, Table.get_modify_ne _ _ _ _ hy]; rfl
  · rw [ht .pool (by decide), gh .pool (by decide), eg .pool (by decide)]; rfl
  · rw [ht.context, fh.context]
    exact e.context_modPage_self ⟨x.id, page⟩ _ x ((se.context _).trans hx)
  · have before : (h.dies.get d).state = (s.dies.get d).state := by
      rw [gh .dies (by decide), State.modDie_dies, Table.get_modify]
      have : f.dies = s.dies := ((State.modPage_only e _ _) .dies (by decide)).trans (se .dies (by decide))
      rw [this]; split <;> rfl
    rw [← before]
    exact (h.pageTrigger_states (c.dieAt q) key d).1
  · rw [(h.pageTrigger_states (c.dieAt q) key _).2, gh .dies (by decide), State.modDie_dies, Table.get_modify_self]
    have : f.dies = s.dies := ((State.modPage_only e _ _) .dies (by decide)).trans (se .dies (by decide))
    rw [this]
  · simp only [State.takePage, ho, pointer]
    rw [← only.pages]; rfl

/-- A page that is taken brings no die into SUSPENDED. -/
theorem State.PageTaken.noneSuspended {s t : State} {st : StreamId} {c : GroupConfig} {q : Position} {x : WriteContext} {page : Nat}
    {o : OpenSlot} {u : UnitRecord} (h : s.PageTaken st c q x page o u t) (hn : s.NoneSuspended) : t.NoneSuspended := fun d => by
  rcases h.states d with hd | hd
  · rw [hd]; exact hn d
  · rw [hd]; simp

/-! ## The unit that is full -/

/-- A seal whose unit does not leave SEALED pushes it onto the young list of its owner (R5, R38). -/
theorem State.sealUnit_stays (s : State) (u : Nat) (st : StreamId) (x : UnitRecord) (h : s.unit? u = some x) (ho : x.owner = some st)
    (hl : (x.sealedAt s.time.epoch s.pages).leavesSealed = false) :
    s.sealUnit u = ((s.modUnit u (fun r => r.sealedAt s.time.epoch s.pages)).pushYoung st u).wakeUnit u := by
  have hw : (((s.modUnit u (fun r => r.sealedAt s.time.epoch s.pages)).pushYoung st u).wakeUnit u).unit? u =
      some (x.sealedAt s.time.epoch s.pages) := by
    rw [(State.wakeUnit_only _ _).unit?, (State.pushYoung_only _ _ _).unit?, State.unit?_modUnit_self, h]; rfl
  simp only [State.sealUnit, h, ho]
  exact State.checkEmpty_stays _ u _ hw hl

/-- The seal of a slot whose unit does not leave SEALED, on a stream with no profile pending (R5, R38, R56). -/
theorem State.sealSlot_stays (s : State) (st : StreamId) (q : Position) (o : OpenSlot) (x : UnitRecord)
    (hq : (s.streams.get st).slots.get q = some o) (hx : s.unit? o.unit = some x) (ho : x.owner = some st)
    (hl : (x.sealedAt s.time.epoch s.pages).leavesSealed = false) (hp : (s.streams.get st).pendingProfile = none) :
    let t := s.sealSlot st q
    t.unit? o.unit = some (x.sealedAt s.time.epoch s.pages) ∧
    t.streams.get st = { s.streams.get st with
      slots := (s.streams.get st).slots.set q none
      young := if (s.streams.get st).state.bound then (o.unit :: (s.streams.get st).young).take 8 else (s.streams.get st).young } ∧
    s.OtherStreams st t ∧ s.Only [.units, .streams, .groups] t := by
  intro t
  let a := s.emptySlot st q
  let b := a.modUnit o.unit (fun r => r.sealedAt s.time.epoch s.pages)
  let v := b.pushYoung st o.unit
  let w := v.wakeUnit o.unit
  have sa : s.Only [.streams] a := s.emptySlot_only st q
  have bv : b.Only [.streams, .groups] v := b.pushYoung_only st o.unit
  have vw : v.Only [.groups] w := v.wakeUnit_only o.unit
  have astreams : a.streams = s.streams.modify st (fun r => { r with slots := r.slots.set q none }) := rfl
  have streams : w.streams = a.streams.modify st (fun r => { r with
      young := if r.state.bound then (o.unit :: r.young).take Config.youngLimit else r.young }) :=
    (vw .streams (by decide)).trans (b.pushYoung_streams st o.unit)
  have stream : w.streams.get st = { s.streams.get st with
      slots := (s.streams.get st).slots.set q none
      young := if (s.streams.get st).state.bound then (o.unit :: (s.streams.get st).young).take 8 else (s.streams.get st).young } := by
    rw [streams, Table.get_modify_self, astreams, Table.get_modify_self]; rfl
  have sealedUnit : a.sealUnit o.unit = w := a.sealUnit_stays o.unit st x ((sa.unit? _).trans hx) ho hl
  have tdef : t = w := by
    simp only [t, State.sealSlot, hq]
    exact (congrArg (·.applyPending st) sealedUnit).trans (w.applyPending_none st (by rw [stream]; exact hp))
  rw [tdef]
  refine ⟨?_, stream, fun y hy => ?_, (((sa.mono (by decide)).andThen (a.modUnit_only _ _)).andThen bv).andThen vw⟩
  · rw [vw.unit?, bv.unit?, State.unit?_modUnit_self, sa.unit?, hx]; rfl
  · rw [streams, Table.get_modify_ne _ _ _ _ hy, astreams, Table.get_modify_ne _ _ _ _ hy]

/-- The unit that its last page has filled is SEALED and full, since its programs are not all DONE (R3, R56). -/
theorem State.PageTaken.sealsFull {s t : State} {st : StreamId} {c : GroupConfig} {q : Position} {x : WriteContext} {page : Nat}
    {o : OpenSlot} {u : UnitRecord} (h : s.PageTaken st c q x page o u t) (hfull : u.writePointer + 1 = s.pages)
    (hprog : u.programmed ≤ u.writePointer) (hret : u.retirePending = false) (ho : u.owner = some st)
    (hp : (s.streams.get st).pendingProfile = none) :
    let w := t.sealSlot st q
    (w.unit? o.unit).map (fun y => (y.state, y.writePointer, y.sealEpoch, y.short)) = some (.sealed, s.pages, some s.time.epoch, false) ∧
    (w.streams.get st).slots.get q = none ∧
    (w.streams.get st).young = (if (s.streams.get st).state.bound then (o.unit :: (s.streams.get st).young).take 8
      else (s.streams.get st).young) ∧
    s.OtherStreams st w ∧ t.Only [.units, .streams, .groups] w := by
  intro w
  obtain ⟨y, hy, hyu⟩ := Option.map_eq_some_iff.mp h.unit
  have owner : y.owner = some st := (congrArg UnitRecord.owner hyu).trans ho
  have pointer : y.writePointer = s.pages := (congrArg UnitRecord.writePointer hyu).trans hfull
  have programmed : y.programmed ≤ u.writePointer := (congrArg UnitRecord.programmed hyu).trans_le hprog
  have retire : y.retirePending = false := (congrArg UnitRecord.retirePending hyu).trans hret
  have unsettled : (y.sealedAt t.time.epoch t.pages).leavesSealed = false := by
    have : y.programmed ≠ y.writePointer := by omega
    simp [UnitRecord.leavesSealed, UnitRecord.sealedAt, UnitRecord.settled, this, retire]
  have slot : (t.streams.get st).slots.get q = some o.withPage := by rw [h.stream, Table.get_set_self]
  obtain ⟨wunit, wstream, wothers, wonly⟩ := t.sealSlot_stays st q o.withPage y slot hy owner unsettled (by rw [h.stream]; exact hp)
  have time : t.time = s.time := h.only .time (by decide)
  refine ⟨?_, ?_, ?_, fun z hz => (wothers z hz).trans (h.otherStreams z hz), wonly⟩
  · rw [show w.unit? o.unit = _ from wunit]
    simp [UnitRecord.sealedAt, pointer, time, h.only.pages]
  · rw [wstream, Table.get_set_self]
  · rw [wstream, h.stream]; rfl

/-! ## Placing a page -/

/-- The head of a line is a request of the part. -/
theorem State.headContext_context (s : State) (st : StreamId) (cls : WriteClass) (x : WriteContext) (h : s.headContext st cls = some x) :
    s.context x.id = some x := by
  obtain ⟨id, -, hx⟩ := Option.bind_eq_some_iff.mp h
  rwa [s.context_id id x hx]

/-- A page is placed from the unit in the slot of the position that is found, and nowhere where none is (R50). -/
theorem State.tryPlace_cases (s : State) (st : StreamId) (c : GroupConfig) (kind : PlaceKind) (x : WriteContext) (page : Nat)
    (hc : s.streamConfig st = some c) :
    (∀ k o, s.findPosition st c kind = some k → (s.streams.get st).slots.get k = some o →
      s.tryPlace st kind x page = some (s.takePage st c k x page)) ∧
    (s.findPosition st c kind = none → s.tryPlace st kind x page = none) := by
  refine ⟨fun k o hf ho => ?_, fun hf => ?_⟩
  · simp only [State.tryPlace, hc, hf, ho]; rfl
  · simp only [State.tryPlace, hc, hf]

/-- PLACE_PAGE of a request that may place a page, where no profile is pending and no seal is due (R48). -/
theorem exec_placePage_may (st : StreamId) (cls : WriteClass) (s : State) (x : WriteContext) (hh : s.headContext st cls = some x)
    (hm : s.mayPlaceFresh st x = true) (hp : (s.streams.get st).pendingProfile = none) (hd : s.NoSealDue st) :
    (∀ t, s.tryPlace st (freshKind x.cls) x x.nextFresh = some t →
      exec (.placePage st cls) s = .next (t.afterFresh st x).serveSuspended) ∧
    (s.tryPlace st (freshKind x.cls) x x.nextFresh = none → exec (.placePage st cls) s = .next (s.waitForSpace x).serveSuspended) := by
  have he : exec (.placePage st cls) s = .next (s.attemptFresh st x).1.serveSuspended := by
    show execPlacePage st cls s = _
    simp only [execPlacePage, s.settleSlots_none st hd, hh, hm, if_true]
  refine ⟨fun t ht => ?_, fun ht => ?_⟩
  · rw [he]; simp only [State.attemptFresh, s.applyPending_none st hp, ht]
  · rw [he]; simp only [State.attemptFresh, s.applyPending_none st hp, ht]

/-- A request with fresh pages left keeps its line, and its SPACE entry counts them (R47, R54). -/
theorem State.afterFresh_more (s : State) (st : StreamId) (x y : WriteContext) (h : x.nextFresh + 1 < x.pages.length)
    (hy : s.context x.id = some y) :
    let t := s.afterFresh st x
    t.context x.id = some { y with nextFresh := y.nextFresh + 1 } ∧
    t.credit = { s.credit with waitList := s.credit.waitList.map (fun e =>
      if e.ctx = x.id then { e with remaining := x.pages.length - (x.nextFresh + 1) } else e) } ∧
    s.Only [.contexts, .credit] t := by
  intro t
  let a := s.modContext x.id (fun y => { y with nextFresh := y.nextFresh + 1 })
  have tdef : t = a.modWaitList (fun l => l.map (fun e =>
      if e.ctx = x.id then { e with remaining := x.pages.length - (x.nextFresh + 1) } else e)) := if_neg (Nat.ne_of_lt h)
  have sa : s.Only [.contexts] a := s.modContext_only _ _
  rw [tdef]
  exact ⟨s.context_modContext_self x.id _ y (fun _ => rfl) hy, rfl, (sa.mono (by decide)).andThen (a.modWaitList_only _)⟩

/-- A request whose last fresh page is placed leaves its line and the wait list, and releases its place (R47, R53, R77). -/
theorem State.afterFresh_last (s : State) (st : StreamId) (x : WriteContext) (h : x.nextFresh + 1 = x.pages.length) :
    let t := s.afterFresh st x
    t.lines = s.lines.modify st (fun l => { l with host := l.host.erase x.id, reloc := l.reloc.erase x.id }) ∧
    t.credit = { s.credit with
      waitList := s.credit.waitList.filter (fun e => decide (e.ctx ≠ x.id))
      shares := s.credit.shares.set x.id.port (s.credit.shares.get x.id.port - 1) } ∧
    s.Only [.contexts, .lines, .credit] t := by
  intro t
  have only := s.afterFresh_only st x
  have tdef : t = (((s.modContext x.id (fun y => { y with nextFresh := y.nextFresh + 1 })).leaveLines st x.id).modWaitList
      (fun l => l.filter (fun e => decide (e.ctx ≠ x.id)))).releaseShare x.id.port := if_pos h
  exact ⟨by rw [tdef]; rfl, by rw [tdef]; rfl, only⟩

/-! ## PLACE-PAGE -/

/-- A request that waits for space uncalled, or stands behind a re-placement list, may place nothing (R47, R54, R55). -/
theorem State.mayPlaceFresh_not (s : State) (st : StreamId) (x : WriteContext)
    (h : (s.lines.get st).replace ≠ [] ∨ (∃ e ∈ s.credit.waitList, e.ctx = x.id ∧ e.reason = .space) ∧
      ∀ e ∈ s.credit.waitList, e.reason = .space → e.stream = st → e.examine = false) : s.mayPlaceFresh st x = false := by
  rcases h with h | ⟨⟨e, he, hc, hr⟩, hu⟩
  · simp [State.mayPlaceFresh, h]
  · have waits : s.spaceEntry x.id ≠ none := fun hn => by
      have := List.find?_eq_none.mp hn e he
      simp [hc, hr] at this
    have uncalled : s.firstCalled st ≠ some x.id := fun hf => by
      obtain ⟨y, hy, -, hyr, hys, hye⟩ := s.firstCalled_cases st x.id hf
      rw [hu y hy hyr hys] at hye; cases hye
    simp [State.mayPlaceFresh, waits, uncalled]

/-- Settles O28: the page is the one of `State.PageTaken`, the request goes on by `State.afterFresh` or waits by `State.waitForSpace`. -/
theorem placePageTakesPage : Obligations.PlacePageTakesPage := by
  unfold Obligations.PlacePageTakesPage
  refine ⟨?_, ?_, ?_, ?_, ?_, ?_⟩
  · intro st cls s x c k o u hh hm hp hd hc hf ho hu hroom hmore
    obtain ⟨t, taken, eq⟩ := s.takePage_taken st c k x x.nextFresh o u ho hu (s.headContext_context st cls x hh)
    have he := (exec_placePage_may st cls s x hh hm hp hd).1 _ ((s.tryPlace_cases st c _ x x.nextFresh hc).1 k o hf ho)
    rw [eq, if_neg (Nat.ne_of_lt hroom)] at he
    obtain ⟨context, credit, after⟩ := t.afterFresh_more st x _ hmore taken.context
    have served := (t.afterFresh st x).serveSuspended_only
    have tw : t.Only [.contexts, .credit, .dies, .link] (t.afterFresh st x).serveSuspended := (after.mono (by decide)).andThen served
    have streams : (t.afterFresh st x).serveSuspended.streams = t.streams := tw .streams (by decide)
    refine ⟨_, he, ?_, ?_, ?_, ?_, ?_, ?_, fun hn => ?_, ?_, ?_, (taken.only.mono (by decide)).andThen tw⟩
    · rw [tw.unit?]; exact map_of_unsuspended (b := some _) taken.unit _ (fun _ => rfl)
    · rw [tw.unit?]; exact map_of_unsuspended (b := some _) taken.unit _ (fun _ => rfl)
    · rw [tw .pool (by decide)]; exact taken.pool
    · rw [served.context, context]; rfl
    · rw [streams, taken.stream, Table.get_set_self]; rfl
    · rw [streams]; exact taken.cursor
    · have none : (t.afterFresh st x).NoneSuspended := fun d => by rw [after .dies (by decide)]; exact taken.noneSuspended hn d
      rw [State.serveSuspended_none _ none, after .dies (by decide), taken.backlogs, Table.get_modify_self]
    · rw [State.OtherStreams, streams]; exact taken.otherStreams
    · rw [served .credit (by decide), credit, taken.only .credit (by decide)]
  · intro st cls s x c k o u hh hm hp hd hc hf ho hu hroom hlast
    obtain ⟨t, taken, eq⟩ := s.takePage_taken st c k x x.nextFresh o u ho hu (s.headContext_context st cls x hh)
    have he := (exec_placePage_may st cls s x hh hm hp hd).1 _ ((s.tryPlace_cases st c _ x x.nextFresh hc).1 k o hf ho)
    rw [eq, if_neg (Nat.ne_of_lt hroom)] at he
    obtain ⟨lines, credit, after⟩ := t.afterFresh_last st x hlast
    have served := (t.afterFresh st x).serveSuspended_only
    have tw : t.Only [.contexts, .lines, .credit, .dies, .link] (t.afterFresh st x).serveSuspended := (after.mono (by decide)).andThen served
    rw [taken.only .lines (by decide), ← served .lines (by decide)] at lines
    refine ⟨_, he, ?_, ?_, ?_, fun y hy => ?_, ?_, ?_, ?_, (taken.only.mono (by decide)).andThen tw⟩
    · rw [lines, Table.get_modify_self]
    · rw [lines, Table.get_modify_self]
    · rw [lines, Table.get_modify_self]
    · rw [lines, Table.get_modify_ne _ _ _ _ hy]
    · rw [served .credit (by decide), credit, taken.only .credit (by decide)]
    · rw [tw.unit?]; exact map_of_unsuspended (b := some _) taken.unit _ (fun _ => rfl)
    · rw [State.OtherStreams, tw .streams (by decide)]; exact taken.otherStreams
  · intro st cls s x c k o u hh hm hp hd hc hf ho hu hfull hprog hret howner hmore
    obtain ⟨t, taken, eq⟩ := s.takePage_taken st c k x x.nextFresh o u ho hu (s.headContext_context st cls x hh)
    have he := (exec_placePage_may st cls s x hh hm hp hd).1 _ ((s.tryPlace_cases st c _ x x.nextFresh hc).1 k o hf ho)
    rw [eq, if_pos hfull] at he
    obtain ⟨unit, slot, young, others, only⟩ := taken.sealsFull hfull hprog hret howner hp
    generalize t.sealSlot st k = v at he unit slot young others only
    obtain ⟨-, -, after⟩ := v.afterFresh_more st x _ hmore ((only.context _).trans taken.context)
    have vw : v.Only [.contexts, .credit, .dies, .link] (v.afterFresh st x).serveSuspended :=
      (after.mono (by decide)).andThen (State.serveSuspended_only _)
    have streams : (v.afterFresh st x).serveSuspended.streams = v.streams := vw .streams (by decide)
    refine ⟨_, he, ?_, by rw [streams]; exact slot, by rw [streams]; exact young, ?_,
      ((taken.only.mono (by decide)).andThen only (gs := [.units, .streams, .contexts, .pool, .credit, .groups, .dies, .link])).andThen vw⟩
    · rw [vw.unit?]; exact unit
    · rw [State.OtherStreams, streams]; exact others
  · intro st cls s x c hh hm hp hd hc hf hentry hn
    have he := (exec_placePage_may st cls s x hh hm hp hd).2 ((s.tryPlace_cases st c _ x x.nextFresh hc).2 hf)
    simp only [State.waitForSpace, hentry] at he
    exact he.trans (congrArg _ (State.serveSuspended_none _ hn))
  · intro st cls s x c hh hm hp hd hc hf hentry hn
    have he := (exec_placePage_may st cls s x hh hm hp hd).2 ((s.tryPlace_cases st c _ x x.nextFresh hc).2 hf)
    obtain ⟨e, hentry⟩ := Option.ne_none_iff_exists'.mp hentry
    simp only [State.waitForSpace, hentry] at he
    exact he.trans (congrArg _ (State.serveSuspended_none _ hn))
  · intro st cls s x hh hd hw
    show execPlacePage st cls s = _
    simp only [execPlacePage, s.settleSlots_none st hd, hh, s.mayPlaceFresh_not st x hw, Bool.false_eq_true, if_false]

/-! ## REPLACE-PAGE -/

/-- A list may be served unless it waits uncalled (R65). -/
theorem State.mayReplace_false_iff (s : State) (st : StreamId) :
    s.mayReplace st = false ↔ ∃ w, s.waiters.find? (fun w => decide (w.stream = st)) = some w ∧ w.examine = false := by
  unfold State.mayReplace
  cases s.waiters.find? (fun w => decide (w.stream = st)) <;> simp

/-- A page that leaves the head of a re-placement list, and the list that waits no longer once it is empty (R65). -/
theorem State.dropReplaceHead_cases (s : State) (st : StreamId) :
    let t := s.dropReplaceHead st
    t.lines = s.lines.modify st (fun l => { l with replace := l.replace.tail }) ∧
    t.waiters = (if (s.lines.get st).replace.tail = [] then s.waiters.filter (fun w => decide (w.stream ≠ st)) else s.waiters) := by
  have tail : ((s.lines.modify st (fun l => { l with replace := l.replace.tail })).get st).replace.isEmpty = true ↔
      (s.lines.get st).replace.tail = [] := by
    rw [Table.get_modify_self, List.isEmpty_iff]
  simp only [State.dropReplaceHead, State.modLines_lines, tail]
  split <;> exact ⟨rfl, rfl⟩

/-- REPLACE_PAGE of a list that has a head, where no profile is pending and no seal is due (R65). -/
theorem exec_replacePage_head (st : StreamId) (s : State) (ref : PageRef) (x : WriteContext)
    (hh : (s.lines.get st).replace.head? = some ref) (hx : s.context ref.ctx = some x)
    (hp : (s.streams.get st).pendingProfile = none) (hd : s.NoSealDue st) :
    (s.mayReplace st = false → exec (.replacePage st) s = .next s) ∧
    (s.mayReplace st = true →
      (∀ t, s.tryPlace st .replacement x ref.page = some t →
        exec (.replacePage st) s = .next (t.dropReplaceHead st).serveSuspended) ∧
      (s.tryPlace st .replacement x ref.page = none → exec (.replacePage st) s = .next (s.waitReplace st).serveSuspended)) := by
  have notEmpty : (s.lines.get st).replace.isEmpty = false := by
    cases hl : (s.lines.get st).replace with
    | nil => rw [hl] at hh; cases hh
    | cons _ _ => rfl
  have he : exec (.replacePage st) s = if s.mayReplace st then .next (s.attemptReplace st).1.serveSuspended else .next s := by
    show execReplacePage st s = _
    simp only [execReplacePage, s.settleSlots_none st hd, notEmpty, Bool.false_eq_true, if_false]
  rw [he]
  refine ⟨fun hm => by rw [hm, if_neg Bool.false_ne_true], fun hm => ?_⟩
  rw [hm, if_pos rfl]
  refine ⟨fun t ht => ?_, fun ht => ?_⟩
  · simp only [State.attemptReplace, s.applyPending_none st hp, hh, hx, ht]
  · simp only [State.attemptReplace, s.applyPending_none st hp, hh, hx, ht]

/-- Settles O30: the page is the one of `State.PageTaken`, and the list goes on by `State.dropReplaceHead` or waits by `State.waitReplace`. -/
theorem replacePagePlacesHead : Obligations.ReplacePagePlacesHead := by
  unfold Obligations.ReplacePagePlacesHead
  intro st s ref x c hh hx hp hd hc
  obtain ⟨kept, may⟩ := exec_replacePage_head st s ref x hh hx hp hd
  obtain ⟨placed, notPlaced⟩ := s.tryPlace_cases st c .replacement x ref.page hc
  have hid := s.context_id _ x hx
  refine ⟨s.mayReplace_false_iff st, kept, fun k o u hf hm ho hu hroom => ?_, fun hf hnone hn => ?_, fun hf hm ⟨w, hw, hws⟩ hn => ?_⟩
  · obtain ⟨t, taken, eq⟩ := s.takePage_taken st c k x ref.page o u ho hu (hid ▸ hx)
    rw [if_neg (Nat.ne_of_lt hroom)] at eq
    have he := (may hm).1 t ((placed k o hf ho).trans (congrArg _ eq))
    obtain ⟨lines, waiters⟩ := t.dropReplaceHead_cases st
    have served := (t.dropReplaceHead st).serveSuspended_only
    have tw : t.Only [.lines, .waiters, .dies, .link] (t.dropReplaceHead st).serveSuspended :=
      ((t.dropReplaceHead_only st).mono (by decide)).andThen served
    rw [taken.only .lines (by decide), ← served .lines (by decide)] at lines
    rw [taken.only .lines (by decide), taken.only .waiters (by decide), ← served .waiters (by decide)] at waiters
    refine ⟨_, he, ?_, ?_, fun y hy => ?_, ?_, ?_, ?_, ?_, ?_, waiters, (taken.only.mono (by decide)).andThen tw⟩
    · rw [lines, Table.get_modify_self]
    · rw [lines, Table.get_modify_self]
    · rw [lines, Table.get_modify_ne _ _ _ _ hy]
    · rw [tw.unit?]; exact map_of_unsuspended (b := some _) taken.unit _ (fun _ => rfl)
    · rw [tw .pool (by decide), taken.pool, hid]
    · rw [tw.context]; exact taken.context
    · rw [State.OtherStreams, tw .streams (by decide)]; exact taken.otherStreams
    · rw [tw .credit (by decide)]; exact taken.only .credit (by decide)
  · have called : s.mayReplace st = true := by
      refine Bool.eq_true_of_not_eq_false (fun hf => ?_)
      obtain ⟨w, hw, -⟩ := (s.mayReplace_false_iff st).mp hf
      exact hnone w (List.mem_of_find?_eq_some hw) (by simpa using List.find?_some hw)
    have begins : s.waitReplace st = { s with waiters := s.waiters ++ [⟨st, s.time.tick, false⟩] } :=
      if_neg (by simpa using hnone)
    rw [(may called).2 (notPlaced hf), begins]
    exact congrArg _ (State.serveSuspended_none _ hn)
  · have waitsOn : s.waitReplace st = { s with waiters := s.waiters.map (fun w =>
        if w.stream = st then { w with examine := false } else w) } :=
      if_pos (List.any_eq_true.mpr ⟨w, hw, decide_eq_true hws⟩)
    rw [(may hm).2 (notPlaced hf), waitsOn]
    exact congrArg _ (State.serveSuspended_none _ hn)

end Sys2Proof.Machine
end

section
/-!
PROOFS. WRITE (R43, R45, R46, R53, R70, R71): the checks in their order, the request that is accepted, and its arrival at the Accountant behind
the examination that is due (R73).
-/

namespace Sys2Proof.Machine

set_option Elab.async false

/-! ## The checks of R45 -/

/-- Checks 1 to 5: a WRITE fails the first that does not hold, and passes them where each does. -/
theorem State.checkWrite_cases (s : State) (p : MasterId) (q : Request) :
    ((q.cls = none ∨ q.pageCount = 0 ∨ 64 < q.pageCount) → s.checkWrite p q = .error .badRequest) ∧
    ∀ cls, q.cls = some cls → 1 ≤ q.pageCount → q.pageCount ≤ 64 →
      ((q.stream = none ∨ ∃ st, q.stream = some st ∧ (s.streams.get st).group = none) → s.checkWrite p q = .error .badStream) ∧
      ∀ st, q.stream = some st → (s.streams.get st).group ≠ none →
        ((s.streams.get st).port ≠ some p → s.checkWrite p q = .error .notBound) ∧
        ((s.streams.get st).port = some p →
          ((s.streams.get st).state ≠ .opened → s.checkWrite p q = .error .streamState) ∧
          ((s.streams.get st).state = .opened →
            (s.placeable st = false → s.checkWrite p q = .error .badStream) ∧
            (s.placeable st = true →
              (cls = .host → s.checkWrite p q = .ok ⟨st, .host, none⟩) ∧
              (cls = .reloc → s.checkWrite p q = (s.checkSource st q.source).map (fun src => ⟨st, .reloc, some src⟩))))) := by
  constructor
  · intro h
    cases hc : q.cls with
    | none => simp only [State.checkWrite, hc]
    | some cls =>
      have bad : q.pageCount = 0 ∨ Config.maxWritePages < q.pageCount := h.resolve_left (by simp [hc])
      simp only [State.checkWrite, hc, if_pos bad]
  · intro cls hc h1 h2
    have good : ¬ (q.pageCount = 0 ∨ Config.maxWritePages < q.pageCount) := by simp only [Config.maxWritePages]; omega
    refine ⟨fun h => ?_, fun st hst hg => ⟨fun hp => ?_, fun hp => ⟨fun ho => ?_, fun ho => ⟨fun hpl => ?_, fun hpl => ?_⟩⟩⟩⟩
    · rcases h with hst | ⟨st, hst, hg⟩
      · simp only [State.checkWrite, hc, if_neg good, hst]
      · simp only [State.checkWrite, hc, if_neg good, hst, if_pos hg]
    · simp only [State.checkWrite, hc, if_neg good, hst, if_neg hg, if_pos hp]
    · simp only [State.checkWrite, hc, if_neg good, hst, if_neg hg, if_neg (not_not.mpr hp), if_pos ho]
    · simp only [State.checkWrite, hc, if_neg good, hst, if_neg hg, if_neg (not_not.mpr hp), if_neg (not_not.mpr ho), if_pos hpl]
    · constructor
      · rintro rfl
        simp only [State.checkWrite, hc, if_neg good, hst, if_neg hg, if_neg (not_not.mpr hp), if_neg (not_not.mpr ho), hpl,
          Bool.true_eq_false, if_false]
      · rintro rfl
        simp only [State.checkWrite, hc, if_neg good, hst, if_neg hg, if_neg (not_not.mpr hp), if_neg (not_not.mpr ho), hpl,
          Bool.true_eq_false, if_false]

/-- Checks 6 to 8, on the source unit of a RELOC WRITE. -/
theorem State.checkSource_cases (s : State) (st : StreamId) (u : Nat) :
    (s.unit? u = none → s.checkSource st u = .error .badRequest) ∧
    ∀ x, s.unit? u = some x →
      (x.state ≠ .sealed → x.state ≠ .reclaim → s.checkSource st u = .error .badSource) ∧
      ((x.state = .sealed ∨ x.state = .reclaim) →
        (x.tenant ≠ some (s.streams.get st).tenant → s.checkSource st u = .error .tenantMismatch) ∧
        (x.tenant = some (s.streams.get st).tenant → s.checkSource st u = .ok ⟨u, x.sealEpoch, x.eraseCount⟩)) := by
  refine ⟨fun h => by simp only [State.checkSource, h], fun x hx => ⟨fun h1 h2 => ?_, fun h => ?_⟩⟩
  · simp only [State.checkSource, hx, if_pos (And.intro h1 h2)]
  · have state : ¬ (x.state ≠ .sealed ∧ x.state ≠ .reclaim) := fun hn => h.elim hn.1 hn.2
    refine ⟨fun ht => ?_, fun ht => ?_⟩
    · simp only [State.checkSource, hx, if_neg state, if_pos ht]
    · simp only [State.checkSource, hx, if_neg state, if_neg (not_not.mpr ht)]

/-- Taking the request changes nothing that the checks read. -/
theorem State.taken_checkWrite (s : State) (p : MasterId) (q : Request) :
    (s.taken (.master p)).checkWrite p q = s.checkWrite p q := rfl

/-- WRITE by the outcome of the checks (R45, R46). -/
theorem exec_write (p : MasterId) (s : State) (hr : s.Ready (.master p) kindWrite) :
    let q := s.headRequest (.master p)
    (∀ e, s.checkWrite p q = .error e → ∃ t, exec (.write p) s = .next t ∧ s.OnlyAnswered (.master p) e [] [] t) ∧
    ∀ a, s.checkWrite p q = .ok a → exec (.write p) s = .next ((s.taken (.master p)).acceptWrite (q.context p a)) := by
  intro q
  have he : exec (.write p) s = .next (writeRequest p q (s.taken (.master p))) :=
    exec_of_kind s (.master p) kindWrite (writeRequest p) _ rfl hr
  refine ⟨fun e h => onlyAnswered_of_exec (he.trans (congrArg _ ?_)), fun a h => he.trans (congrArg _ ?_)⟩
  · simp only [writeRequest, s.taken_checkWrite, q, h]
  · simp only [writeRequest, s.taken_checkWrite, q, h]

/-! ## The examination that is due -/

/-- Entries of a tenant without credit are left as they stand (R73). -/
theorem State.examineEntries_noCredit (s : State) (n : Tenant) (l : List WaitEntry) (hl : ∀ e ∈ l, e.tenant = n)
    (h : s.credit.balances.get n ≤ 0) : l.foldl State.examineEntry s = s := by
  induction l with
  | nil => rfl
  | cons e l ih =>
    rw [List.foldl_cons, s.examineEntry_noCredit e (by rw [hl e (.head _)]; exact h)]
    exact ih (fun x hx => hl x (.tail _ hx))

/-- Where the requests that wait on one stream are of one tenant, the tenant's first CREDIT entry is the first of its stream (R70, R73). -/
theorem State.creditEntries_head (s : State) (n : Tenant) (e : WaitEntry) (l : List WaitEntry) (h : s.creditEntries n = e :: l)
    (one : s.StreamsOneTenant) : s.credit.waitList.find? (·.creditOf e.stream) = some e := by
  obtain ⟨he, hr, ht⟩ := (s.mem_creditEntries n e).mp (h ▸ .head _)
  have found : (s.creditEntries n).find? (·.creditOf e.stream) = some e := by
    rw [h, List.find?_cons_of_pos]
    exact (e.creditOf_iff _).mpr ⟨hr, rfl⟩
  rw [State.creditEntries, List.find?_filter] at found
  rw [← found]
  refine List.find?_congr (fun x hx => ?_)
  cases hc : x.creditOf e.stream with
  | false => simp
  | true =>
    obtain ⟨hxr, hxs⟩ := (x.creditOf_iff _).mp hc
    simp [hxr, one x hx e he hxr hr hxs, ht]

/-- The CREDIT entries of a tenant once an entry is admitted. -/
theorem State.admitEntry_creditEntries (s : State) (e : WaitEntry) (n : Tenant) :
    (s.admitEntry e).creditEntries n = (s.creditEntries n).filter (fun x => decide (x.ctx ≠ e.ctx)) := by
  rw [State.creditEntries, State.admitEntry_waitList, State.creditEntries, List.filter_comm]

/-- An examination that leaves credit has admitted every CREDIT entry of its tenant. `R` are the entries still to be examined, of which those
that `g` picks still wait. -/
theorem State.examineEntries_all (n : Tenant) (R : List WaitEntry) (s : State) (g : ContextId → Bool) (hR : ∀ e ∈ R, e.tenant = n)
    (one : s.StreamsOneTenant) (hg : s.creditEntries n = R.filter (fun e => g e.ctx))
    (hb : 0 < (R.foldl State.examineEntry s).credit.balances.get n) : (R.foldl State.examineEntry s).creditEntries n = [] := by
  induction R generalizing s g with
  | nil => exact hg
  | cons e R ih =>
    have credit : 0 < s.credit.balances.get e.tenant := by
      by_contra hn
      rw [s.examineEntries_noCredit n _ hR (by rw [← hR e (.head _)]; omega), ← hR e (.head _)] at hb
      exact hn hb
    have kept := s.examineEntry_admitted e
    have rest : ∃ f : ContextId → Bool, (s.examineEntry e).creditEntries n = R.filter (fun x => f x.ctx) := by
      have still : (s.admitEntry e).creditEntries n = R.filter (fun x => decide (x.ctx ≠ e.ctx) && g x.ctx) := by
        rw [s.admitEntry_creditEntries, hg, List.filter_filter, List.filter_cons_of_neg (by simp)]
      by_cases hw : g e.ctx = true
      · have heads : s.creditEntries n = e :: R.filter (fun x => g x.ctx) := by
          rw [hg, List.filter_cons_of_pos (p := fun x : WaitEntry => g x.ctx) hw]
        rw [State.examineEntry, if_pos ⟨credit, by rw [s.creditEntries_head n e _ heads one]; rfl⟩]
        exact ⟨fun c => decide (c ≠ e.ctx) && g c, still⟩
      · unfold State.examineEntry; split
        · exact ⟨fun c => decide (c ≠ e.ctx) && g c, still⟩
        · exact ⟨g, by rw [hg, List.filter_cons_of_neg (p := fun x : WaitEntry => g x.ctx) hw]⟩
    obtain ⟨f, hf⟩ := rest
    exact ih (s.examineEntry e) f (fun x hx => hR x (.tail _ hx))
      (fun x hx y hy => one x (kept.waitList hx) y (kept.waitList hy)) hf hb

/-- After an examination that leaves its tenant credit, none of the tenant's requests waits for it (R73). -/
theorem State.examineCredit_all (s : State) (n : Tenant) (one : s.StreamsOneTenant) (hb : 0 < (s.examineCredit n).credit.balances.get n) :
    ∀ e ∈ (s.examineCredit n).credit.waitList, ¬ (e.reason = .credit ∧ e.tenant = n) := by
  have all := State.examineEntries_all n (s.creditEntries n) s (fun _ => true) (fun e he => ((s.mem_creditEntries n e).mp he).2.2) one
    (by rw [List.filter_true]) hb
  intro e he hw
  have waits : e ∈ (s.examineCredit n).creditEntries n := (State.mem_creditEntries _ n e).mpr ⟨he, hw⟩
  rw [show (s.examineCredit n).creditEntries n = [] from all] at waits
  cases waits

/-- The examination of one tenant leaves the records of the others. -/
theorem State.examineCredit_tenants_ne (s : State) (n k : Tenant) (hk : k ≠ n) :
    (s.examineCredit n).tenants.get k = s.tenants.get k := by
  have fold : ∀ (l : List WaitEntry) (u : State), (∀ e ∈ l, e.tenant = n) →
      (l.foldl State.examineEntry u).tenants.get k = u.tenants.get k := fun l => by
    induction l with
    | nil => exact fun _ _ => rfl
    | cons e l ih =>
      intro u hl
      rw [List.foldl_cons, ih _ (fun y hy => hl y (.tail _ hy))]
      unfold State.examineEntry; split
      · rw [State.admitEntry_tenants, State.countPages, State.modTenant_tenants, Table.get_modify_ne _ _ _ _ (hl e (.head _) ▸ hk)]
      · rfl
  exact fold _ s (fun e he => ((s.mem_creditEntries n e).mp he).2.2)

/-! ## A place of the share -/

theorem State.takeShare_only (s : State) (p : MasterId) : s.Only [.credit] (s.takeShare p) := by
  intro f hf
  cases f
  case credit => exact absurd (List.mem_singleton.mpr rfl) hf
  all_goals rfl

/-- An examination reads and changes no share (R73, R77). -/
theorem State.examineCredit_takeShare (s : State) (p : MasterId) (n : Tenant) :
    (s.takeShare p).examineCredit n = (s.examineCredit n).takeShare p := by
  have admitted : ∀ (u : State) (e : WaitEntry), (u.takeShare p).admitEntry e = (u.admitEntry e).takeShare p := fun u e => by
    by_cases hm : (u.tenants.get e.tenant).metered = true
    · simp only [State.admitEntry, State.admitPages, State.charge, State.takeShare, State.modWaitList_tenants, hm, if_true]; rfl
    · simp only [State.admitEntry, State.admitPages, State.charge, State.takeShare, State.modWaitList_tenants, hm]; rfl
  have examine : ∀ (u : State) (e : WaitEntry), (u.takeShare p).examineEntry e = (u.examineEntry e).takeShare p := fun u e => by
    simp only [State.examineEntry, admitted]
    exact (apply_ite (fun v : State => v.takeShare p) _ _ _).symm
  have fold : ∀ (l : List WaitEntry) (u : State),
      l.foldl State.examineEntry (u.takeShare p) = (l.foldl State.examineEntry u).takeShare p := fun l => by
    induction l with
    | nil => exact fun _ => rfl
    | cons e l ih => exact fun u => by rw [List.foldl_cons, List.foldl_cons, examine, ih]
  exact fold _ s

/-! ## The arrival -/

/-- A request that arrives is admitted at once, or waits for credit (R70, R71). -/
theorem State.creditArrival_cases (s : State) (x : WriteContext) :
    let n := (s.streams.get x.stream).tenant
    let m := s.examineCredit n
    let waits := x.cls = .host ∧ (m.tenants.get n).metered = true ∧
      (m.credit.balances.get n ≤ 0 ∨ m.credit.waitList.any (·.creditOf x.stream) = true)
    (waits → s.creditArrival x = m.modWaitList (· ++ [⟨x.id, x.stream, n, .host, .credit, x.pages.length, false⟩])) ∧
    (¬ waits → s.creditArrival x = m.admitPages x.stream n x.cls x.id x.pages.length) := by
  intro n m waits
  have eq : s.creditArrival x = (match x.cls with
      | .reloc => m.admitPages x.stream n .reloc x.id x.pages.length
      | .host =>
        if (m.tenants.get n).metered = false then m.admitPages x.stream n .host x.id x.pages.length
        else if 0 < m.credit.balances.get n ∧ m.credit.waitList.any (·.creditOf x.stream) = false then
          m.admitPages x.stream n .host x.id x.pages.length
        else m.modWaitList (· ++ [⟨x.id, x.stream, n, .host, .credit, x.pages.length, false⟩])) := by
    unfold State.creditArrival; rfl
  rw [eq]
  cases hc : x.cls with
  | reloc => exact ⟨fun h => by simp [waits, hc] at h, fun _ => rfl⟩
  | host =>
    dsimp only
    refine ⟨fun ⟨_, hm, hw⟩ => ?_, fun hn => ?_⟩
    · rw [if_neg (by simp [hm]), if_neg]
      rintro ⟨hb, ha⟩
      exact hw.elim (fun h => absurd hb (by omega)) (fun h => by rw [ha] at h; cases h)
    · by_cases hm : (m.tenants.get n).metered = false
      · rw [if_pos hm]
      · rw [if_neg hm, if_pos]
        have hb : ¬ (m.credit.balances.get n ≤ 0 ∨ m.credit.waitList.any (·.creditOf x.stream) = true) := fun h =>
          hn ⟨hc, Bool.eq_true_of_not_eq_false hm, h⟩
        exact ⟨by omega, Bool.eq_false_iff.mpr (fun ha => hb (.inr ha))⟩

/-- What admitting a request does: its pages are charged and counted for its tenant, and it joins the line of its class (R41, R47, R70). -/
theorem State.admitPages_cases (s : State) (st : StreamId) (n : Tenant) (cls : WriteClass) (c : ContextId) (k : Nat) :
    let t := s.admitPages st n cls c k
    t.credit.waitList = s.credit.waitList ∧ t.credit.shares = s.credit.shares ∧
    (t.credit.balances.get n =
      if (s.tenants.get n).metered = true then chargedBalance (s.credit.balances.get n) k else s.credit.balances.get n) ∧
    (∀ x, x ≠ n → t.credit.balances.get x = s.credit.balances.get x ∧ t.tenants.get x = s.tenants.get x) ∧
    (cls = .host → (t.tenants.get n).hostPages = (s.tenants.get n).hostPages + BitVec.ofNat 32 k ∧
      (t.lines.get st).host = (s.lines.get st).host ++ [c]) ∧
    (cls = .reloc → (t.tenants.get n).relocPages = (s.tenants.get n).relocPages + BitVec.ofNat 32 k ∧
      (t.lines.get st).reloc = (s.lines.get st).reloc ++ [c]) ∧
    ∀ x, x ≠ st → t.lines.get x = s.lines.get x := by
  intro t
  have charged := s.charge_only n k
  have tenants : t.tenants = (s.countPages n cls k).tenants := by
    have same : (s.charge n k).tenants = s.tenants := charged .tenants (by decide)
    show ((s.charge n k).countPages n cls k).tenants = _
    simp only [State.countPages, State.modTenant_tenants, same]
  have lines : t.lines = (s.joinLine st cls c).lines := by
    have same : ((s.charge n k).countPages n cls k).lines = s.lines := charged .lines (by decide)
    show (((s.charge n k).countPages n cls k).joinLine st cls c).lines = _
    simp only [State.joinLine, State.modLines_lines, same]
  refine ⟨(s.charge_credit n k).1, (s.charge_credit n k).2, ?_, fun x hx => ⟨?_, ?_⟩, fun hc => ?_, fun hc => ?_, fun x hx => ?_⟩
  · exact (s.charge_balances n k n).trans (if_congr (and_iff_right rfl) rfl rfl)
  · exact (s.charge_balances n k x).trans (if_neg (fun h => hx h.1))
  · rw [tenants, State.countPages, State.modTenant_tenants, Table.get_modify_ne _ _ _ _ hx]
  · subst hc; rw [tenants, lines]; simp [State.countPages, State.joinLine]
  · subst hc; rw [tenants, lines]; simp [State.countPages, State.joinLine]
  · rw [lines]; exact (s.joinLine_holds st cls c).2.2 x hx

/-- The part once an accepted request has its context and its stream counts it, before its place and its arrival (R46). -/
def State.entered (s : State) (p : MasterId) (x : WriteContext) : State :=
  ({ s.taken (.master p) with contexts := (s.taken (.master p)).contexts ++ [x] }.touchStream x.stream).modStream x.stream
    (fun r => { r with outstanding := r.outstanding + 1 })

theorem State.acceptWrite_eq (s : State) (p : MasterId) (x : WriteContext) :
    (s.taken (.master p)).acceptWrite x = ((s.entered p x).takeShare x.id.port).creditArrival x := rfl

theorem State.entered_only (s : State) (p : MasterId) (x : WriteContext) : s.Only [.streams, .contexts, .masters] (s.entered p x) :=
  ((((s.taken_only_master p).mono (by decide)).andThen (State.setContexts_only _ _)).andThen (State.touchStream_only _ _)).andThen
    (State.modStream_only _ _ _)

theorem State.entered_contexts (s : State) (p : MasterId) (x : WriteContext) : (s.entered p x).contexts = s.contexts ++ [x] := rfl

theorem State.entered_stream (s : State) (p : MasterId) (x : WriteContext) :
    (s.entered p x).streams.get x.stream =
      { s.streams.get x.stream with outstanding := (s.streams.get x.stream).outstanding + 1, lastActivity := s.time.tick } := by
  simp [State.entered, State.touchStream]

theorem State.entered_others (s : State) (p : MasterId) (x : WriteContext) : s.OtherStreams x.stream (s.entered p x) := fun y hy => by
  simp [State.entered, State.touchStream, hy]

/-- The Accountant once the examination that is due has run before an arrival: as that examination alone leaves it, but for the place of the
share that the request takes. -/
theorem State.entered_examined (s : State) (p : MasterId) (x : WriteContext) (n : Tenant) :
    let m := s.examineCredit n
    let b := ((s.entered p x).takeShare p).examineCredit n
    b.credit.waitList = m.credit.waitList ∧ b.credit.balances = m.credit.balances ∧
    b.credit.shares = s.credit.shares.set p (s.credit.shares.get p + 1) ∧ b.tenants = m.tenants ∧ b.lines = m.lines := by
  intro m b
  have entered := s.entered_only p x
  obtain ⟨credit, tenants, lines⟩ : m.SameCredit ((s.entered p x).examineCredit n) :=
    State.examineCredit_same ⟨entered .credit (by decide), entered .tenants (by decide), entered .lines (by decide)⟩ n
  have place : b = ((s.entered p x).examineCredit n).takeShare p := State.examineCredit_takeShare _ p n
  have shares : ((s.entered p x).examineCredit n).credit.shares = s.credit.shares := by
    rw [credit]; exact (s.examineCredit_admitted n).shares
  rw [place]
  refine ⟨?_, ?_, ?_, tenants, lines⟩
  · exact (congrArg Credit.waitList credit : ((s.entered p x).examineCredit n).credit.waitList = _)
  · exact (congrArg Credit.balances credit : ((s.entered p x).examineCredit n).credit.balances = _)
  · show ((s.entered p x).examineCredit n).credit.shares.modify p (· + 1) = _
    rw [shares]; rfl

/-- What an accepted WRITE does but for its arrival: its context, its stream's count, its port's rings, and the fields it may change. -/
theorem State.acceptWrite_enters (s : State) (p : MasterId) (x : WriteContext) :
    let t := (s.taken (.master p)).acceptWrite x
    s.Pledged (.master p) t ∧ t.contexts = s.contexts ++ [x] ∧
    t.streams.get x.stream =
      { s.streams.get x.stream with outstanding := (s.streams.get x.stream).outstanding + 1, lastActivity := s.time.tick } ∧
    s.OtherStreams x.stream t ∧ s.Only [.streams, .tenants, .contexts, .lines, .credit, .masters] t := by
  intro t
  have arrival := ((s.entered p x).takeShare x.id.port).creditArrival_only x
  have streams : t.streams = (s.entered p x).streams := arrival .streams (by decide)
  refine ⟨pledged_of_ports s t _ (arrival .masters (by decide)) (arrival .mport (by decide)), arrival .contexts (by decide), ?_,
    fun y hy => ?_, ?_⟩
  · rw [streams, s.entered_stream]
  · rw [streams, s.entered_others p x y hy]
  · exact (((s.entered_only p x).mono (by decide)).andThen (State.takeShare_only _ _)).andThen arrival

/-- The arrival of an accepted WRITE, by what the examination `m` that comes first leaves: it waits for credit, or it is charged, counted and
joins its line (R70, R71, R73). -/
theorem State.acceptWrite_arrives (s : State) (p : MasterId) (x : WriteContext) (hp : x.id.port = p) :
    let t := (s.taken (.master p)).acceptWrite x
    let n := (s.streams.get x.stream).tenant
    let k := x.pages.length
    let m := s.examineCredit n
    let b := m.credit.balances.get n
    let waits := x.cls = .host ∧ (s.tenants.get n).metered = true ∧ (b ≤ 0 ∨ m.credit.waitList.any (·.creditOf x.stream) = true)
    t.credit.shares = s.credit.shares.set p (s.credit.shares.get p + 1) ∧
    (waits → t.credit.waitList = m.credit.waitList ++ [⟨x.id, x.stream, n, .host, .credit, k, false⟩] ∧
      t.credit.balances = m.credit.balances ∧ t.tenants = m.tenants ∧ t.lines = m.lines) ∧
    (¬ waits → t.credit.waitList = m.credit.waitList ∧
      t.credit.balances.get n = (if (s.tenants.get n).metered = true then chargedBalance b k else b) ∧
      (∀ y, y ≠ n → t.credit.balances.get y = s.credit.balances.get y ∧ t.tenants.get y = s.tenants.get y) ∧
      (x.cls = .host → (t.tenants.get n).hostPages = (m.tenants.get n).hostPages + BitVec.ofNat 32 k ∧
        (t.lines.get x.stream).host = (m.lines.get x.stream).host ++ [x.id]) ∧
      (x.cls = .reloc → (t.tenants.get n).relocPages = (m.tenants.get n).relocPages + BitVec.ofNat 32 k ∧
        (t.lines.get x.stream).reloc = (m.lines.get x.stream).reloc ++ [x.id]) ∧
      ∀ y, y ≠ x.stream → t.lines.get y = m.lines.get y) := by
  intro t n k m b waits
  subst hp
  let a := (s.entered x.id.port x).takeShare x.id.port
  have tenant : (a.streams.get x.stream).tenant = n := by
    show ((s.entered x.id.port x).streams.get x.stream).tenant = n
    rw [s.entered_stream]
  have metered : (m.tenants.get n).metered = (s.tenants.get n).metered := (s.examineCredit_admitted n).metered n
  obtain ⟨waitList, balances, shares, tenants, lines⟩ := s.entered_examined x.id.port x n
  obtain ⟨arrivesWaiting, arrivesAdmitted⟩ := a.creditArrival_cases x
  rw [tenant, waitList, balances, tenants, metered] at arrivesWaiting arrivesAdmitted
  obtain ⟨pWaitList, pShares, pBalance, pOthers, pHost, pReloc, pLines⟩ := (a.examineCredit n).admitPages_cases x.stream n x.cls x.id k
  rw [waitList] at pWaitList
  rw [tenants, metered, balances] at pBalance
  rw [tenants, lines] at pHost pReloc
  rw [lines] at pLines
  refine ⟨?_, fun hw => ?_, fun hw => ?_⟩
  · by_cases hw : waits
    · rw [show t = _ from arrivesWaiting hw]; exact shares
    · rw [show t = _ from arrivesAdmitted hw]; exact pShares.trans shares
  · rw [show t = _ from arrivesWaiting hw]
    exact ⟨congrArg (· ++ _) waitList, balances, tenants, lines⟩
  · rw [show t = _ from arrivesAdmitted hw]
    refine ⟨pWaitList, pBalance, fun y hy => ?_, pHost, pReloc, pLines⟩
    rw [(pOthers y hy).1, (pOthers y hy).2, balances, tenants, s.examineCredit_balances_ne n y hy, s.examineCredit_tenants_ne n y hy]
    exact ⟨rfl, rfl⟩

/-- A WRITE that passes every check of R45 is accepted with its class and its source. -/
theorem State.checkWrite_accepts (s : State) (p : MasterId) (q : Request) (st : StreamId) (cls : WriteClass) (src : Option SourceUnit)
    (hc : q.cls = some cls) (h1 : 1 ≤ q.pageCount) (h64 : q.pageCount ≤ 64) (hst : q.stream = some st)
    (hg : (s.streams.get st).group ≠ none) (hp : (s.streams.get st).port = some p) (ho : (s.streams.get st).state = .opened)
    (hpl : s.placeable st = true) (hh : cls = .host → src = none)
    (hrel : cls = .reloc → ∃ x, s.unit? q.source = some x ∧ (x.state = .sealed ∨ x.state = .reclaim) ∧
      x.tenant = some (s.streams.get st).tenant ∧ src = some ⟨q.source, x.sealEpoch, x.eraseCount⟩) :
    s.checkWrite p q = .ok ⟨st, cls, src⟩ := by
  have passed := ((((((s.checkWrite_cases p q).2 cls hc h1 h64).2 st hst hg).2 hp).2 ho).2 hpl)
  cases cls with
  | host => rw [passed.1 rfl, hh rfl]
  | reloc =>
    obtain ⟨x, hx, state, owner, rfl⟩ := hrel rfl
    simp only [passed.2 rfl, (((s.checkSource_cases st q.source).2 x hx).2 state).2 owner, Except.map]

/-- Settles O27: `exec_write` splits by the checks. An accepted request enters, and arrives behind the examination that is due. -/
theorem writeAnswersChecks : Obligations.WriteAnswersChecks := by
  unfold Obligations.WriteAnswersChecks
  constructor
  · intro p s st cls src hr q r n hc h1 h64 hst hg hp ho hpl hh hrel ctx metered
    have accepted : exec (.write p) s = .next ((s.taken (.master p)).acceptWrite ctx) := (exec_write p s hr).2 _
      (s.checkWrite_accepts p q st cls src hc h1 h64 hst hg hp ho hpl hh hrel)
    obtain ⟨pledged, contexts, stream, others, only⟩ := s.acceptWrite_enters p ctx
    obtain ⟨shares, arrivesWaiting, arrivesAdmitted⟩ := s.acceptWrite_arrives p ctx rfl
    simp only [show ctx.pages.length = n from List.length_replicate] at arrivesWaiting arrivesAdmitted
    refine ⟨s.examineCredit r.tenant, rfl, s.examineCredit_only _, s.examineCredit_none _, ?_⟩
    intro b waits
    refine ⟨_, accepted, pledged, contexts, stream, others, shares, arrivesWaiting, fun hhost hm hw one => ?_, fun hw => ?_, only⟩
    · have credit : 0 < b := by
        by_contra hb
        exact hw ⟨hhost, hm, .inl (by omega)⟩
      rw [(arrivesAdmitted hw).1]
      exact s.examineCredit_all r.tenant one credit
    · exact arrivesAdmitted hw
  · intro p s hr q refused
    have refuses : ∀ e, s.checkWrite p q = .error e → refused e := (exec_write p s hr).1
    obtain ⟨badCall, checks⟩ := s.checkWrite_cases p q
    refine ⟨fun h => refuses _ (badCall h), fun cls hc h1 h64 => ?_⟩
    obtain ⟨badStream, bound⟩ := checks cls hc h1 h64
    refine ⟨fun h => refuses _ (badStream h), fun st hst hg => ?_⟩
    obtain ⟨notBound, opened⟩ := bound st hst hg
    refine ⟨fun h => refuses _ (notBound h), fun hp h => refuses _ ((opened hp).1 h), fun hp ho h => refuses _ (((opened hp).2 ho).1 h),
      fun hp ho hpl hrel => ?_⟩
    have source := (((opened hp).2 ho).2 hpl).2 hrel
    obtain ⟨absent, present⟩ := s.checkSource_cases st q.source
    have fails : ∀ e, s.checkSource st q.source = .error e → refused e := fun e he => refuses e (by rw [source, he]; rfl)
    refine ⟨fun h => fails _ (absent h), fun x hx => ⟨fun h h' => fails _ ((present x hx).1 h h'), fun h ht => ?_⟩⟩
    exact fails _ (((present x hx).2 h).1 ht)

end Sys2Proof.Machine
end

section
/-!
PROOFS. Balances (R69, R72, R74). The invariant reads the balances and the tenants' records, here the ledger of a state. Most operations leave
it alone: those that leave the Credit Accountant alone by their frames, and those of the Placement Engine since they reach the wait list
and the shares only. Charges, refills and SET-TENANT are left, and keep each balance between the floor and its ceiling.
-/

namespace Sys2Proof.Machine

set_option Elab.async false

/-- What the invariant on balances reads (R69, R74): every balance, and the tenants' records with their ceilings. -/
def State.ledger (s : State) : Table 64 Int × Table 64 TenantRecord := (s.credit.balances, s.tenants)

theorem State.BalancesLegal.of_ledger {s t : State} (hs : s.BalancesLegal) (h : t.ledger = s.ledger) : t.BalancesLegal := by
  obtain ⟨hb, ht⟩ := Prod.mk.inj h
  intro n
  rw [hb, ht]
  exact hs n

/-- A change that leaves the Accountant and the tenants alone leaves the ledger alone. -/
theorem State.Only.ledger {s t : State} {fs : List Field} (h : s.Only fs t) (hc : Field.credit ∉ fs := by decide)
    (ht : Field.tenants ∉ fs := by decide) : t.ledger = s.ledger :=
  Prod.ext (congrArg Credit.balances (h .credit hc)) (h .tenants ht)

theorem State.ledger_foldl {α : Type} {f : State → α → State} (h : ∀ (s : State) (a : α), (f s a).ledger = s.ledger) (l : List α)
    (s : State) : (l.foldl f s).ledger = s.ledger := by
  induction l generalizing s with
  | nil => rfl
  | cons a l ih => exact (ih (f s a)).trans (h s a)

/-- One of two changes, neither of which reaches the ledger. -/
theorem State.ledger_ite {c : Prop} [Decidable c] {s t u : State} (ht : t.ledger = s.ledger) (hu : u.ledger = s.ledger) :
    (if c then t else u).ledger = s.ledger := by
  split
  · exact ht
  · exact hu

/-! ## Operations that leave the Accountant alone -/

@[simp] theorem State.modStream_ledger (s : State) (i : StreamId) (f : StreamRecord → StreamRecord) : (s.modStream i f).ledger = s.ledger := rfl
@[simp] theorem State.modLines_ledger (s : State) (i : StreamId) (f : StreamLines → StreamLines) : (s.modLines i f).ledger = s.ledger := rfl
@[simp] theorem State.modDie_ledger (s : State) (d : DieId) (f : DieRecord → DieRecord) : (s.modDie d f).ledger = s.ledger := rfl
@[simp] theorem State.modUnit_ledger (s : State) (u : Nat) (f : UnitRecord → UnitRecord) : (s.modUnit u f).ledger = s.ledger := rfl
@[simp] theorem State.modMgmt_ledger (s : State) (f : Management → Management) : (s.modMgmt f).ledger = s.ledger := rfl
@[simp] theorem State.modWaitList_ledger (s : State) (f : List WaitEntry → List WaitEntry) : (s.modWaitList f).ledger = s.ledger := rfl
@[simp] theorem State.modRing_ledger (s : State) (p : PortId) (f : Ring → Ring) : (s.modRing p f).ledger = s.ledger := (s.modRing_only p f).ledger
@[simp] theorem State.taken_ledger (s : State) (p : PortId) : (s.taken p).ledger = s.ledger := (s.taken_only p).ledger
@[simp] theorem State.reply_ledger (s : State) (p : PortId) (slot : ReplySlot) (kind : Nat) (tag : Half) (status : Status) (body : List Byte)
    (words : List Word) : (s.reply p slot kind tag status body words).ledger = s.ledger := (s.reply_only p slot kind tag status body words).ledger
@[simp] theorem Request.answer_ledger (r : Request) (s : State) (status : Status) (body : List Byte) (words : List Word) :
    (r.answer s status body words).ledger = s.ledger := (r.answer_only s status body words).ledger
@[simp] theorem State.serveSuspended_ledger (s : State) : s.serveSuspended.ledger = s.ledger := s.serveSuspended_only.ledger
@[simp] theorem State.emptyYoung_ledger (s : State) (st : StreamId) : (s.emptyYoung st).ledger = s.ledger := (s.emptyYoung_only st).ledger
@[simp] theorem State.wakeAll_ledger (s : State) : s.wakeAll.ledger = s.ledger := rfl

/-! ## The Placement Engine -/

@[simp] theorem State.callWork_ledger (s : State) (p : StreamId → Bool) : (s.callWork p).ledger = s.ledger := rfl

@[simp] theorem State.takeProfile_ledger (s : State) (st : StreamId) (p : Profile) : (s.takeProfile st p).ledger = s.ledger := rfl

@[simp] theorem State.applyPending_ledger (s : State) (st : StreamId) : (s.applyPending st).ledger = s.ledger :=
  Prod.ext (s.applyPending_balances st) (s.applyPending_only st .tenants (by decide))

@[simp] theorem State.sealSlot_ledger (s : State) (st : StreamId) (q : Position) : (s.sealSlot st q).ledger = s.ledger := by
  unfold State.sealSlot; split
  · rfl
  · rw [State.applyPending_ledger, (State.sealUnit_only _ _).ledger]; rfl

@[simp] theorem State.sealAllSlots_ledger (s : State) (st : StreamId) : (s.sealAllSlots st).ledger = s.ledger :=
  (State.applyPending_ledger _ st).trans (State.ledger_foldl (fun s q => s.sealSlot_ledger st q) _ s)

@[simp] theorem State.dueSeal_ledger (s : State) (st : StreamId) (q : Position) : (s.dueSeal st q).ledger = s.ledger := by
  unfold State.dueSeal; split
  · exact State.ledger_ite (s.sealSlot_ledger st q) rfl
  · rfl

@[simp] theorem State.settleSlots_ledger (s : State) (st : StreamId) : (s.settleSlots st).ledger = s.ledger :=
  State.ledger_foldl (fun s q => s.dueSeal_ledger st q) _ s

@[simp] theorem State.openUnit_ledger (s : State) (st : StreamId) (q : Position) (d : DieId) : (s.openUnit st q d).ledger = s.ledger := by
  unfold State.openUnit; split
  · rfl
  · exact (State.reportCounts_only _ _).ledger

@[simp] theorem State.takePage_ledger (s : State) (st : StreamId) (c : GroupConfig) (q : Position) (x : WriteContext) (n : Nat) :
    (s.takePage st c q x n).ledger = s.ledger := by
  have triggered : ∀ (u : State) (d : DieId) (k : PageKey), ((u.moveCursor st q).pageTrigger d k).ledger = u.ledger :=
    fun u d k => (State.pageTrigger_only _ d k).ledger
  unfold State.takePage; split
  · rfl
  · exact State.ledger_ite ((State.sealSlot_ledger _ st q).trans (triggered _ _ _)) (triggered _ _ _)

theorem State.tryPlace_ledger (s t : State) (st : StreamId) (k : PlaceKind) (x : WriteContext) (n : Nat) (h : s.tryPlace st k x n = some t) :
    t.ledger = s.ledger := by
  unfold State.tryPlace at h
  split at h
  · cases h
  · split at h
    · cases h
    · cases h
      rw [State.takePage_ledger]
      exact State.ledger_ite rfl (s.openUnit_ledger _ _ _)

@[simp] theorem State.afterFresh_ledger (s : State) (st : StreamId) (x : WriteContext) : (s.afterFresh st x).ledger = s.ledger :=
  State.ledger_ite rfl rfl

@[simp] theorem State.waitForSpace_ledger (s : State) (x : WriteContext) : (s.waitForSpace x).ledger = s.ledger := by
  unfold State.waitForSpace; split <;> rfl

@[simp] theorem State.waitReplace_ledger (s : State) (st : StreamId) : (s.waitReplace st).ledger = s.ledger :=
  (s.waitReplace_only st).ledger

@[simp] theorem State.dropReplaceHead_ledger (s : State) (st : StreamId) : (s.dropReplaceHead st).ledger = s.ledger :=
  (s.dropReplaceHead_only st).ledger

@[simp] theorem State.attemptFresh_ledger (s : State) (st : StreamId) (x : WriteContext) : (s.attemptFresh st x).1.ledger = s.ledger := by
  unfold State.attemptFresh; dsimp only; split
  · next h => rw [State.afterFresh_ledger, State.tryPlace_ledger _ _ _ _ _ _ h, State.applyPending_ledger]
  · rw [State.waitForSpace_ledger, State.applyPending_ledger]

@[simp] theorem State.attemptReplace_ledger (s : State) (st : StreamId) : (s.attemptReplace st).1.ledger = s.ledger := by
  unfold State.attemptReplace; dsimp only; split
  · exact s.applyPending_ledger st
  · split
    · rw [State.dropReplaceHead_ledger, State.applyPending_ledger]
    · split
      · next h => rw [State.dropReplaceHead_ledger, State.tryPlace_ledger _ _ _ _ _ _ h, State.applyPending_ledger]
      · rw [State.waitReplace_ledger, State.applyPending_ledger]

@[simp] theorem State.placeRun_ledger (n : Nat) (s : State) (st : StreamId) (cls : WriteClass) (id : ContextId) :
    (State.placeRun n s st cls id).ledger = s.ledger := by
  induction n generalizing s with
  | zero => rfl
  | succ n ih =>
    unfold State.placeRun; split
    · rfl
    · next x _ =>
      have once := s.attemptFresh_ledger st x
      split
      · split
        · next h => rw [ih]; rwa [h] at once
        · next h => rwa [h] at once
      · rfl

@[simp] theorem State.replaceRun_ledger (n : Nat) (s : State) (st : StreamId) : (State.replaceRun n s st).ledger = s.ledger := by
  induction n generalizing s with
  | zero => rfl
  | succ n ih =>
    have once := s.attemptReplace_ledger st
    unfold State.replaceRun; split
    · next h => rw [ih]; rwa [h] at once
    · next h => rwa [h] at once

@[simp] theorem State.serveList_ledger (s : State) (st : StreamId) : (s.serveList st).ledger = s.ledger := by
  rw [State.serveList, State.replaceRun_ledger, State.settleSlots_ledger]

@[simp] theorem State.serveEntry_ledger (s : State) (e : WaitEntry) : (s.serveEntry e).ledger = s.ledger := by
  rw [State.serveEntry, State.placeRun_ledger, State.settleSlots_ledger]

theorem State.serveEntries_ledger (l : List WaitEntry) (s : State) : (l.foldl State.serveEntry s).ledger = s.ledger :=
  State.ledger_foldl State.serveEntry_ledger l s

theorem State.serveLists_ledger (l : List ReplaceWaiter) (s : State) : (l.foldl (fun s w => s.serveList w.stream) s).ledger = s.ledger := by
  refine State.ledger_foldl ?_ l s
  intro s w
  exact s.serveList_ledger w.stream

@[simp] theorem State.examineWork_ledger (s : State) (p : StreamId → Bool) : (s.examineWork p).ledger = s.ledger := by
  unfold State.examineWork State.examineCalled
  rw [State.serveEntries_ledger, State.serveEntries_ledger, State.serveLists_ledger, State.callWork_ledger]

@[simp] theorem State.examineFreed_ledger (s : State) (u : Nat) : (s.examineFreed u).ledger = s.ledger := by
  unfold State.examineFreed
  refine State.ledger_ite ?_ rfl
  split
  · exact s.examineWork_ledger _
  · rfl

@[simp] theorem State.programFailed_ledger (s : State) (k : PageKey) : (s.programFailed k).ledger = s.ledger := by
  have withdrawn : ∀ (l : List PoolEntry) (u : State), (l.foldl (fun s x =>
      (s.freeEntry x).modPage x.ref (fun p => { p with outcome := .unplaced })) u).ledger = u.ledger :=
    State.ledger_foldl (fun _ _ => rfl)
  unfold State.programFailed; split
  · next e st _ _ =>
    have failed : (((s.failUnit k.unit k.index).freeEntry e).failPage e.ref).ledger = s.ledger :=
      (State.failPage_only _ _).ledger.trans (s.failUnit_only _ _).ledger
    dsimp only; split
    · rw [State.applyPending_ledger]
      exact (withdrawn _ _).trans failed
    · exact (withdrawn _ _).trans failed
  · rfl

/-! ## Requests and drains that end, and streams that are parked -/

@[simp] theorem State.requestGone_ledger (s : State) (st : StreamId) : (s.requestGone st).ledger = s.ledger :=
  State.ledger_ite (State.sealAllSlots_ledger _ st) rfl

@[simp] theorem State.endRequest_ledger (s : State) (x : WriteContext) : (s.endRequest x).ledger = s.ledger := by
  have left : ((s.answerWrite x).leaveShare x).ledger = (s.answerWrite x).ledger := State.ledger_ite rfl rfl
  rw [State.endRequest, State.requestGone_ledger]
  exact left.trans (s.answerWrite_only x).ledger

@[simp] theorem State.endDrain_ledger (s : State) (st : StreamId) : (s.endDrain st).ledger = s.ledger := by
  unfold State.endDrain; dsimp only; split
  · rw [State.reply_ledger, State.modStream_ledger, State.sealAllSlots_ledger]
  · rw [State.modStream_ledger, State.sealAllSlots_ledger]

@[simp] theorem State.parkStream_ledger (s : State) (st : StreamId) : (s.parkStream st).ledger = s.ledger := by
  unfold State.parkStream; dsimp only; split
  · rw [State.releaseSlot, State.modRing_ledger, State.modStream_ledger, State.emptyYoung_ledger, State.sealAllSlots_ledger]
  · rw [State.modStream_ledger, State.emptyYoung_ledger, State.sealAllSlots_ledger]

/-! ## The Accountant's own operations -/

/-- Balances may fall, but not below the floor, and each ceiling stays (R70, R74). -/
structure State.Lowered (s t : State) : Prop where
  ceiling : ∀ n, (t.tenants.get n).ceiling = (s.tenants.get n).ceiling
  balance : ∀ n, Config.balanceFloor ≤ s.credit.balances.get n →
    Config.balanceFloor ≤ t.credit.balances.get n ∧ t.credit.balances.get n ≤ s.credit.balances.get n

theorem State.Lowered.legal {s t : State} (h : s.Lowered t) (hs : s.BalancesLegal) : t.BalancesLegal := fun n => by
  obtain ⟨low, high⟩ := h.balance n (hs n).1
  exact ⟨low, (h.ceiling n).symm ▸ high.trans (hs n).2⟩

theorem State.Lowered.of_ledger {s t : State} (h : t.ledger = s.ledger) : s.Lowered t := by
  obtain ⟨hb, ht⟩ := Prod.mk.inj h
  exact ⟨fun n => by rw [ht], fun n hn => by rw [hb]; exact ⟨hn, le_refl _⟩⟩

theorem State.Lowered.trans {s t u : State} (h : s.Lowered t) (k : t.Lowered u) : s.Lowered u where
  ceiling n := (k.ceiling n).trans (h.ceiling n)
  balance n hn :=
    have first := h.balance n hn
    have second := k.balance n first.1
    ⟨second.1, second.2.trans first.2⟩

theorem State.Lowered.thenLedger {s t u : State} (h : s.Lowered t) (k : u.ledger = t.ledger) : s.Lowered u := h.trans (.of_ledger k)

theorem State.Lowered.foldl {α : Type} {f : State → α → State} (h : ∀ (s : State) (a : α), s.Lowered (f s a)) (l : List α) (s : State) :
    s.Lowered (l.foldl f s) := by
  induction l generalizing s with
  | nil => exact .of_ledger rfl
  | cons a l ih => exact (h s a).trans (ih (f s a))

/-- A charge stops at the floor, and raises no balance (R70, R74). -/
theorem chargedBalance_bounds (b : Int) (m : Nat) (h : Config.balanceFloor ≤ b) :
    Config.balanceFloor ≤ chargedBalance b m ∧ chargedBalance b m ≤ b := by
  simp only [chargedBalance, Config.balanceFloor, Config.pageCost] at *
  omega

theorem State.charge_lowered (s : State) (n : Tenant) (m : Nat) : s.Lowered (s.charge n m) where
  ceiling k := by rw [show (s.charge n m).tenants = s.tenants from s.charge_only n m .tenants (by decide)]
  balance k hk := by
    rw [State.charge_balances]; split
    · exact chargedBalance_bounds _ m hk
    · exact ⟨hk, le_refl _⟩

/-- Page counts are no part of a balance or a ceiling (R41). -/
theorem State.countPages_lowered (s : State) (n : Tenant) (cls : WriteClass) (m : Nat) : s.Lowered (s.countPages n cls m) where
  ceiling k := by
    by_cases hk : k = n
    · subst hk; cases cls <;> simp [State.countPages]
    · simp [State.countPages, hk]
  balance k hk := ⟨hk, le_refl _⟩

theorem State.admitPages_lowered (s : State) (st : StreamId) (n : Tenant) (cls : WriteClass) (c : ContextId) (m : Nat) :
    s.Lowered (s.admitPages st n cls c m) :=
  ((s.charge_lowered n m).trans (State.countPages_lowered _ n cls m)).thenLedger (State.modLines_ledger _ _ _)

theorem State.admitEntry_lowered (s : State) (e : WaitEntry) : s.Lowered (s.admitEntry e) :=
  (State.Lowered.of_ledger (s.modWaitList_ledger _)).trans (State.admitPages_lowered _ _ _ _ _ _)

theorem State.examineCredit_lowered (s : State) (n : Tenant) : s.Lowered (s.examineCredit n) := by
  refine .foldl (fun u e => ?_) _ s
  unfold State.examineEntry; split
  · exact u.admitEntry_lowered e
  · exact .of_ledger rfl

theorem State.creditArrival_lowered (s : State) (x : WriteContext) : s.Lowered (s.creditArrival x) := by
  obtain ⟨waits, admitted⟩ := s.creditArrival_cases x
  have examined := s.examineCredit_lowered (s.streams.get x.stream).tenant
  rcases Classical.em _ with h | h
  · rw [waits h]; exact examined.thenLedger rfl
  · rw [admitted h]; exact examined.trans (State.admitPages_lowered _ _ _ _ _ _)

theorem State.fenceCredit_lowered (s : State) (p : MasterId) : s.Lowered (s.fenceCredit p) := by
  unfold State.fenceCredit; dsimp only
  refine .trans ?_ (.foldl State.examineCredit_lowered _ _)
  exact .of_ledger rfl

theorem State.fence_lowered (s : State) (p : MasterId) (c : FenceCause) : s.Lowered (s.fence p c) := by
  let parked := (s.boundStreams p).foldl State.parkStream
    ((s.modMaster p (fun m => { m with state := .fenced, cause := c, fenceDue := false })).flagFence p c)
  have before : (parked.orphanContexts p).ledger = s.ledger :=
    (State.orphanContexts_only _ p).ledger.trans (State.ledger_foldl State.parkStream_ledger _ _)
  have ended : ∀ u : State, (u.endOrphans p).ledger = u.ledger := fun u => State.ledger_foldl State.endRequest_ledger _ u
  have after : ∀ u : State, ((((List.finRange 32).foldl (fun s d => s.fenceWindow p d) ((u.endOrphans p).fenceOrders p)).modRing (.master p)
      Ring.emptied)).ledger = u.ledger := fun u => by
    rw [State.modRing_ledger, State.ledger_foldl (fun s d => (s.fenceWindow_only p d).ledger), (State.fenceOrders_only _ p).ledger, ended]
  refine ((State.Lowered.of_ledger before).trans (State.fenceCredit_lowered _ p)).thenLedger ?_
  exact (State.serveSuspended_ledger _).trans ((State.offerManagement_only _ _ _).ledger.trans (after _))

theorem State.dueFence_lowered (s : State) (p : MasterId) : s.Lowered (s.dueFence p) := by
  unfold State.dueFence; split
  · exact s.fence_lowered p _
  · exact .of_ledger rfl

theorem State.settlePort_lowered (s : State) (p : PortId) : s.Lowered (s.settlePort p) := by
  cases p with
  | master p => exact s.dueFence_lowered p
  | management => exact .of_ledger rfl

end Sys2Proof.Machine
end

section
/-!
PROOFS. Every command keeps each balance between the floor and its ceiling (R74), and so every step does: most commands leave the ledger alone;
WRITE, DRAIN-STREAM, CREDIT-ADMISSION and a fence only charge; SET-TENANT clamps the balance, and a tick refills up to the ceiling.
-/

namespace Sys2Proof.Machine

set_option Elab.async false

/-! ## Requests that leave the Accountant alone -/

/-- A stream request after the checks of R24. -/
theorem State.onBoundStream_ledger (s : State) (p : MasterId) (r : Request) (act : StreamId → State → State)
    (h : ∀ st (u : State), (act st u).ledger = u.ledger) : (s.onBoundStream p r act).ledger = s.ledger := by
  unfold State.onBoundStream; split
  · exact r.answer_ledger s _ _ _
  · exact h _ _

theorem openStreamRequest_ledger (p : MasterId) (r : Request) (s : State) : (openStreamRequest p r s).ledger = s.ledger := by
  have opened : ∀ st, (s.openStream p st).ledger = s.ledger := fun _ => rfl
  unfold openStreamRequest; dsimp only
  repeat' split
  all_goals simp [opened]

theorem closeStreamRequest_ledger (p : MasterId) (r : Request) (s : State) : (closeStreamRequest p r s).ledger = s.ledger := by
  refine s.onBoundStream_ledger p r _ (fun st u => ?_)
  split <;> simp [State.closeStream]

theorem resumeStreamRequest_ledger (p : MasterId) (r : Request) (s : State) : (resumeStreamRequest p r s).ledger = s.ledger := by
  refine s.onBoundStream_ledger p r _ (fun st u => ?_)
  split <;> simp

theorem State.setProfile_ledger (s : State) (st : StreamId) (p : Profile) (sealNow : Bool) : (s.setProfile st p sealNow).ledger = s.ledger := by
  refine State.ledger_ite rfl (State.ledger_ite ?_ rfl)
  simp

theorem setProfileRequest_ledger (p : MasterId) (r : Request) (s : State) : (setProfileRequest p r s).ledger = s.ledger := by
  refine s.onBoundStream_ledger p r _ (fun st u => ?_)
  split
  · exact r.answer_ledger u _ _ _
  · rw [Request.answer_ledger, State.serveSuspended_ledger]
    exact State.ledger_ite ((State.examineWork_ledger _ _).trans (u.setProfile_ledger _ _ _)) (u.setProfile_ledger _ _ _)

theorem setStreamRequest_ledger (r : Request) (s : State) : (setStreamRequest r s).ledger = s.ledger := by
  have set : ∀ st q, (s.setStream st q).ledger = s.ledger := fun _ _ => State.ledger_ite rfl rfl
  unfold setStreamRequest
  repeat' split
  all_goals simp [set]

theorem State.invalidatePair_ledger (s : State) (u n : Nat) : (s.invalidatePair u n).1.ledger = s.ledger := by
  unfold State.invalidatePair; split
  · rfl
  · split
    · refine State.ledger_ite ((State.checkEmpty_only _ u).ledger.trans ?_) rfl
      exact State.ledger_ite (State.wakeUnit_only _ u).ledger rfl
    · rfl

theorem State.invalidatePairs_ledger (l : List (Nat × Nat)) (s : State) : (s.invalidatePairs l).1.ledger = s.ledger := by
  induction l generalizing s with
  | nil => rfl
  | cons x l ih => exact (ih _).trans (s.invalidatePair_ledger x.1 x.2)

theorem invalidateRequest_ledger (r : Request) (s : State) : (invalidateRequest r s).ledger = s.ledger := by
  unfold invalidateRequest; split
  · exact r.answer_ledger s _ _ _
  · exact (r.answer_ledger _ _ _ _).trans (State.invalidatePairs_ledger r.pairs s)

theorem unitDrainedRequest_ledger (p : MasterId) (r : Request) (s : State) : (unitDrainedRequest p r s).ledger = s.ledger := by
  have drained : ∀ k u, (s.drainUnit k u).ledger = s.ledger := fun k u => (State.leaveForErase_only _ u).ledger
  unfold unitDrainedRequest
  repeat' split
  all_goals simp [drained]

theorem holdRequest_ledger (f : Hold → Hold) (r : Request) (s : State) : (holdRequest f r s).ledger = s.ledger := by
  unfold holdRequest
  repeat' split
  all_goals simp

theorem releaseRequest_ledger (level : LineLevel) (r : Request) (s : State) : (releaseRequest level r s).ledger = s.ledger := by
  have sampled : ∀ i, ({ s with inputs := i } : State).ledger = s.ledger := fun _ => rfl
  have lifted : ∀ (v : State) (u : Nat), (v.liftHold u).ledger = v.ledger := fun v u =>
    (State.checkEmpty_only _ u).ledger.trans (State.wakeUnit_only _ u).ledger
  unfold releaseRequest; dsimp only
  repeat' split
  all_goals simp [sampled, lifted]

theorem queryUnitRequest_ledger (r : Request) (s : State) : (queryUnitRequest r s).ledger = s.ledger := by
  unfold queryUnitRequest
  split <;> simp

theorem readWindowRequest_ledger (p : MasterId) (r : Request) (s : State) : (readWindowRequest p r s).ledger = s.ledger := by
  unfold readWindowRequest; split
  · exact r.answer_ledger s _ _ _
  · split
    · split
      · exact r.answer_ledger _ _ _ _
      · exact (State.trigger_only _ _ _).ledger
    · exact r.answer_ledger s _ _ _

theorem endWindowRequest_ledger (p : MasterId) (r : Request) (s : State) : (endWindowRequest p r s).ledger = s.ledger := by
  unfold endWindowRequest
  repeat' split
  all_goals simp

theorem setGeometryRequest_ledger (r : Request) (s : State) : (setGeometryRequest r s).ledger = s.ledger := by
  have rebuilt : ∀ g, (s.rebuild g).ledger = s.ledger := fun _ => rfl
  unfold setGeometryRequest
  repeat' split
  all_goals simp [rebuilt]

theorem setGroupRequest_ledger (r : Request) (s : State) : (setGroupRequest r s).ledger = s.ledger := by
  have set : ∀ g c, (s.setGroup g c).ledger = s.ledger := fun g c =>
    (State.evaluateActivity_only _ g).ledger.trans (s.resetOrders_only g).ledger
  unfold setGroupRequest; dsimp only
  repeat' split
  all_goals simp [set]

theorem setTimebaseRequest_ledger (r : Request) (s : State) : (setTimebaseRequest r s).ledger = s.ledger := by
  unfold setTimebaseRequest; split
  · exact r.answer_ledger _ _ _ _
  · exact r.answer_ledger s _ _ _

theorem seekUnitsRequest_ledger (r : Request) (s : State) : (seekUnitsRequest r s).ledger = s.ledger := by
  unfold seekUnitsRequest
  repeat' split
  all_goals simp

theorem State.applyRecord_ledger (s : State) (u : Nat) (r : UnitRecord) : (s.applyRecord u r).ledger = s.ledger := by
  have replaced : ((((s.removeFree u).leaveYoung u).dropBackground u).replaceUnit u r).ledger = s.ledger :=
    ((State.replaceUnit_only _ u r).ledger.trans (State.dropBackground_only _ u).ledger).trans
      ((State.leaveYoung_only _ u).ledger.trans (s.removeFree_only u).ledger)
  refine (State.reportCounts_only _ u).ledger.trans ?_
  split
  · exact replaced
  · exact (State.handBackground_only _ u).ledger.trans replaced
  · exact replaced

theorem State.loadRecord_ledger (s : State) (l : LoadedRecord) : (s.loadRecord l).1.ledger = s.ledger := by
  unfold State.loadRecord; dsimp only; split
  · rfl
  · split
    · rfl
    · exact s.applyRecord_ledger _ _
  · rfl

theorem State.loadRecords_ledger (l : List LoadedRecord) (s : State) : (s.loadRecords l).1.ledger = s.ledger := by
  induction l generalizing s with
  | nil => rfl
  | cons x l ih => exact (ih _).trans (s.loadRecord_ledger x)

theorem loadUnitsRequest_ledger (r : Request) (s : State) : (loadUnitsRequest r s).ledger = s.ledger := by
  unfold loadUnitsRequest; split
  · exact r.answer_ledger s _ _ _
  · split
    · exact r.answer_ledger s _ _ _
    · exact (r.answer_ledger _ _ _ _).trans (State.loadRecords_ledger r.loadedRecords s)

theorem readUnitRequest_ledger (r : Request) (s : State) : (readUnitRequest r s).ledger = s.ledger := by
  unfold readUnitRequest
  repeat' split
  all_goals simp

theorem readStreamRequest_ledger (r : Request) (s : State) : (readStreamRequest r s).ledger = s.ledger := by
  unfold readStreamRequest
  split <;> simp

theorem readTenantRequest_ledger (r : Request) (s : State) : (readTenantRequest r s).ledger = s.ledger := by
  unfold readTenantRequest
  split <;> simp

theorem getStatusRequest_ledger (level : LineLevel) (r : Request) (s : State) : (getStatusRequest level r s).ledger = s.ledger := by
  unfold getStatusRequest; dsimp only
  split <;> exact r.answer_ledger _ _ _ _

theorem runRequest_ledger (r : Request) (s : State) : (runRequest r s).ledger = s.ledger := by
  have started : s.startRunning.ledger = s.ledger := by
    rw [State.startRunning, State.serveSuspended_ledger, State.examineWork_ledger, (State.issueAgain_only _).ledger,
      (State.fillQueues_only _).ledger, State.setDevice, State.modMgmt_ledger]
  unfold runRequest
  repeat' split
  all_goals simp [started]

theorem State.endHalt_ledger (s : State) (pl : Pledge) : (s.endHalt pl).ledger = s.ledger := rfl

theorem haltRequest_ledger (r : Request) (s : State) : (haltRequest r s).ledger = s.ledger := by
  have started : ∀ pl, (s.startHalt pl).ledger = s.ledger := fun pl =>
    State.ledger_ite (State.endHalt_ledger _ pl) (State.serveSuspended_ledger _)
  unfold haltRequest; split
  · exact started _
  all_goals exact r.answer_ledger s _ _ _

theorem clearDieFaultRequest_ledger (r : Request) (s : State) : (clearDieFaultRequest r s).ledger = s.ledger := by
  have cleared : ∀ d, (s.clearFault d).ledger = s.ledger := fun d => by
    unfold State.clearFault; dsimp only; split
    · rw [State.serveSuspended_ledger, State.examineGroup, State.examineWork_ledger, (State.wakeGroup_only _ _).ledger,
        (State.fillQueue_only _ d).ledger, State.modDie_ledger]
    · exact (State.fillQueue_only _ d).ledger
  unfold clearDieFaultRequest
  repeat' split
  all_goals simp [cleared]

theorem cancelOrdersRequest_ledger (r : Request) (s : State) : (cancelOrdersRequest r s).ledger = s.ledger := by
  unfold cancelOrdersRequest; split
  · exact r.answer_ledger s _ _ _
  · exact (r.answer_ledger _ _ _ _).trans (State.ledger_foldl (fun s k => (s.cancelSlot_only k).ledger) allSlots s)

/-! ## Commands -/

/-- A command that gives a next state keeps every balance between the floor and its ceiling. -/
def State.BalancesKeptBy (s : State) (r : Result) : Prop := ∀ t, r = .next t → s.BalancesLegal → t.BalancesLegal

theorem State.BalancesKeptBy.next {s t : State} (h : s.BalancesLegal → t.BalancesLegal) : s.BalancesKeptBy (.next t) := by
  rintro _ ⟨⟩; exact h

theorem State.Lowered.next {s t : State} (h : s.Lowered t) : s.BalancesKeptBy (.next t) := .next h.legal

/-- A command whose next state has the ledger that was there before. -/
theorem State.next_of_ledger {s t : State} (h : t.ledger = s.ledger) : s.BalancesKeptBy (.next t) := (State.Lowered.of_ledger h).next

theorem State.BalancesKeptBy.ite {s : State} {c : Prop} [Decidable c] {r q : Result} (hr : s.BalancesKeptBy r) (hq : s.BalancesKeptBy q) :
    s.BalancesKeptBy (if c then r else q) := by
  split
  · exact hr
  · exact hq

/-- A command that changes the ledger in no case. -/
theorem State.nextIf_of_ledger {s t : State} {c : Prop} [Decidable c] (h : t.ledger = s.ledger) :
    s.BalancesKeptBy (if c then .next t else .next s) := .ite (State.next_of_ledger h) (State.next_of_ledger rfl)

/-- A request command (R152, R169): the fence that is due, the taking of the request and the request's own act. -/
theorem State.onRequest_balancesKept (s : State) (p : PortId) (accepts : Nat → Bool) (act : Request → State → State)
    (h : ∀ r (u : State), u.BalancesLegal → (act r u).BalancesLegal) : s.BalancesKeptBy (s.onRequest p accepts act) := by
  have settled := s.settlePort_lowered p
  unfold State.onRequest
  exact .ite (.next (fun hs => h _ _ ((settled.legal hs).of_ledger (State.taken_ledger _ p)))) settled.next

theorem State.onManagement_balancesKept (s : State) (kind : Nat) (act : Request → State → State)
    (h : ∀ r (u : State), u.BalancesLegal → (act r u).BalancesLegal) : s.BalancesKeptBy (s.onManagement kind act) :=
  s.onRequest_balancesKept _ _ act h

/-- A request command whose act leaves the ledger alone. -/
theorem State.onRequest_of_ledger (s : State) (p : PortId) (accepts : Nat → Bool) (act : Request → State → State)
    (h : ∀ r (u : State), (act r u).ledger = u.ledger) : s.BalancesKeptBy (s.onRequest p accepts act) :=
  s.onRequest_balancesKept p accepts act (fun r u hu => hu.of_ledger (h r u))

/-- The same for a request of the management port. -/
theorem State.onManagement_of_ledger (s : State) (kind : Nat) (act : Request → State → State)
    (h : ∀ r (u : State), (act r u).ledger = u.ledger) : s.BalancesKeptBy (s.onManagement kind act) := s.onRequest_of_ledger _ _ act h

/-- A completion command (R144): the release of the tag and the command's own act. -/
theorem State.onCompletion_of_ledger (s : State) (c : Completion) (kind : DescriptorKind) (kinds : List Nat)
    (act : TagEntry → State → State) (h : ∀ e (u : State), (act e u).ledger = u.ledger) :
    s.BalancesKeptBy (s.onCompletion c kind kinds act) := by
  unfold State.onCompletion; split
  · exact State.next_of_ledger rfl
  · exact State.nextIf_of_ledger ((h _ _).trans (s.takeMatched_only c _).ledger)

/-! ### Requests that charge, clamp or fence -/

theorem drainStreamRequest_lowered (p : MasterId) (r : Request) (s : State) : s.Lowered (drainStreamRequest p r s) := by
  unfold drainStreamRequest State.onBoundStream; split
  · exact .of_ledger (r.answer_ledger s _ _ _)
  · next st _ =>
    have touched : s.Lowered (s.touchStream st) := .of_ledger rfl
    have started : ∀ pl, s.Lowered ((s.touchStream st).startDrain st pl) := fun pl => by
      have examined := (s.touchStream st).examineCredit_lowered ((s.touchStream st).streams.get st).tenant
      have draining : s.Lowered ((s.touchStream st).toDraining st pl) := (touched.trans examined).thenLedger rfl
      exact draining.trans (.foldl State.admitEntry_lowered _ _)
    dsimp only; split
    · split
      · exact (started _).thenLedger (State.endDrain_ledger _ st)
      · exact started _
    · exact touched.thenLedger (r.answer_ledger _ _ _ _)

theorem writeRequest_lowered (p : MasterId) (r : Request) (s : State) : s.Lowered (writeRequest p r s) := by
  unfold writeRequest; split
  · exact .of_ledger (r.answer_ledger s _ _ _)
  · unfold State.acceptWrite
    refine .trans ?_ (State.creditArrival_lowered _ _)
    exact .of_ledger rfl

theorem fencePortRequest_lowered (r : Request) (s : State) : s.Lowered (fencePortRequest r s) := by
  unfold fencePortRequest; split
  · exact .of_ledger (r.answer_ledger s _ _ _)
  · next p _ =>
    have due := s.dueFence_lowered p
    dsimp only; split
    · exact due.thenLedger (r.answer_ledger _ _ _ _)
    · exact (due.trans (State.fence_lowered _ p _)).thenLedger (r.answer_ledger _ _ _ _)

theorem revivePortRequest_lowered (r : Request) (s : State) : s.Lowered (revivePortRequest r s) := by
  unfold revivePortRequest; split
  · exact .of_ledger (r.answer_ledger s _ _ _)
  · next p _ =>
    have due := s.dueFence_lowered p
    dsimp only; split
    · exact due.thenLedger (r.answer_ledger _ _ _ _)
    · exact due.thenLedger (r.answer_ledger _ _ _ _)

/-- SET-TENANT clamps the balance to the new ceiling (R75), which is at least 0. -/
theorem State.setTenant_legal (s : State) (n : Tenant) (metered : Bool) (rate ceiling : Nat) (hs : s.BalancesLegal) :
    (s.setTenant n metered rate ceiling).BalancesLegal := by
  have examined := (s.examineCredit_lowered n).legal hs
  have clamped : (((s.settleCredit n).modTenant n (fun r => { r with metered := metered, rate := rate, ceiling := ceiling })).modBalance n
      (fun b => min b ceiling)).BalancesLegal := fun k => by
    rw [State.settleCredit]
    have := examined k
    by_cases hk : k = n
    · subst hk
      simp [Config.balanceFloor] at this ⊢
      omega
    · simpa [hk] using this
  unfold State.setTenant; dsimp only; split
  · exact clamped
  · exact (State.Lowered.foldl State.admitEntry_lowered _ _).legal clamped

theorem setTenantRequest_legal (r : Request) (s : State) (hs : s.BalancesLegal) : (setTenantRequest r s).BalancesLegal := by
  have refused : ∀ status, (r.answer s status).BalancesLegal := fun status => hs.of_ledger (r.answer_ledger s status _ _)
  unfold setTenantRequest; split
  · exact refused _
  · split
    · exact refused _
    · split
      · exact (s.setTenant_legal _ _ _ _ hs).of_ledger (r.answer_ledger _ _ _ _)
      · exact refused _

/-! ### The part's own commands -/

theorem execSearchExamine_balancesKept (g : GroupId) (s : State) : s.BalancesKeptBy (execSearchExamine g s) := by
  unfold execSearchExamine; split
  · exact State.next_of_ledger rfl
  · exact .ite (State.next_of_ledger rfl) (State.nextIf_of_ledger rfl)

theorem execOrderIssue_balancesKept (g : GroupId) (s : State) : s.BalancesKeptBy (execOrderIssue g s) := by
  have issued : ∀ k q, (s.issueOrder g k q).ledger = s.ledger := fun k q =>
    (State.offerNotice_only _ _ _).ledger.trans (s.moveToReclaim_only q.unit k).ledger
  unfold execOrderIssue; split
  · exact State.next_of_ledger rfl
  · split
    · refine .ite ?_ (State.next_of_ledger rfl)
      split
      · exact State.next_of_ledger (issued _ _)
      · exact State.next_of_ledger rfl
    · exact State.next_of_ledger rfl

theorem execWaitingDieOffer_balancesKept (s : State) : s.BalancesKeptBy (execWaitingDieOffer s) := by
  have offered : ∀ (u : State) d, (u.offerDie d).ledger = u.ledger := fun u d => by
    unfold State.offerDie; split
    · exact (u.arbitrateDie_only d _).ledger
    · unfold State.offerErase; dsimp only; split
      · exact (u.suspendToAbandon_only d _).ledger
      · exact State.ledger_ite (u.trigger_only d _).ledger rfl
    · exact (u.serveDie_only d _).ledger
    all_goals rfl
  unfold execWaitingDieOffer; split
  · exact State.next_of_ledger rfl
  · exact State.nextIf_of_ledger (offered _ _)

theorem execDescriptorSend_balancesKept (s : State) : s.BalancesKeptBy (execDescriptorSend s) := by
  unfold execDescriptorSend; split <;> exact State.next_of_ledger rfl

theorem execPlacePage_balancesKept (st : StreamId) (cls : WriteClass) (s : State) : s.BalancesKeptBy (execPlacePage st cls s) := by
  have settled := s.settleSlots_ledger st
  unfold execPlacePage; dsimp only; split
  · exact State.next_of_ledger settled
  · refine .ite (State.next_of_ledger ?_) (State.next_of_ledger settled)
    rw [State.serveSuspended_ledger, State.attemptFresh_ledger, settled]

theorem execReplacePage_balancesKept (st : StreamId) (s : State) : s.BalancesKeptBy (execReplacePage st s) := by
  have settled := s.settleSlots_ledger st
  unfold execReplacePage
  refine .ite (State.next_of_ledger settled) (.ite (State.next_of_ledger ?_) (State.next_of_ledger settled))
  rw [State.serveSuspended_ledger, State.attemptReplace_ledger, settled]

theorem execWriteEnd_balancesKept (p : MasterId) (slot : ReplySlot) (s : State) : s.BalancesKeptBy (execWriteEnd p slot s) := by
  unfold execWriteEnd; split
  · exact State.next_of_ledger rfl
  · exact State.nextIf_of_ledger (s.endRequest_ledger _)

/-! ### Port memory -/

/-- The index word is held, once the fence that is due is made (R159, R187). -/
theorem State.holdIndex_lowered (s : State) (p : PortId) (f : Ring → Ring) : s.Lowered ((s.settlePort p).modRing p f) :=
  (s.settlePort_lowered p).thenLedger (State.modRing_ledger _ p f)

theorem execRequestTailWrite_balancesKept (p : PortId) (w : IndexWrite) (s : State) : s.BalancesKeptBy (execRequestTailWrite p w s) := by
  have held := s.holdIndex_lowered p (fun r => r.holdIndex requestTailOffset w)
  unfold execRequestTailWrite
  exact .ite (held.thenLedger (State.modRing_ledger _ p _)).next held.next

theorem execReplyHeadWrite_balancesKept (p : PortId) (w : IndexWrite) (s : State) : s.BalancesKeptBy (execReplyHeadWrite p w s) := by
  have held := s.holdIndex_lowered p (fun r => r.holdIndex replyHeadOffset w)
  unfold execReplyHeadWrite; dsimp only; split
  · refine .ite (held.thenLedger ?_).next (held.thenLedger (State.modRing_ledger _ p _)).next
    rw [(State.noticesFreed_only _ p).ledger, (State.heard_only _ p).ledger, State.modRing_ledger]
  · exact held.next

theorem execOtherMemoryWrite_balancesKept (p : PortId) (offset : Nat) (bytes : List Byte) (s : State) :
    s.BalancesKeptBy (execOtherMemoryWrite p offset bytes s) := by
  unfold execOtherMemoryWrite; split
  · rintro _ ⟨⟩
  · exact .ite (State.next_of_ledger rfl) (State.next_of_ledger (s.modRing_ledger p _))

/-! ### Lines and time -/

/-- After device reset every balance and every ceiling is 0 (R42, R69). -/
theorem execDeviceReset_balancesKept (s : State) : s.BalancesKeptBy (execDeviceReset s) := by
  have zero : State.reset.BalancesLegal := fun n => by
    simp [State.reset, TenantRecord.reset, Config.balanceFloor]
  rintro t ⟨⟩ -
  split
  · exact zero.of_ledger rfl
  · exact zero.of_ledger rfl

theorem execPlwNAsserted_balancesKept (s : State) : s.BalancesKeptBy (execPlwNAsserted s) := by
  have queue : ∀ (u : State) d, (u.plwQueue d).ledger = u.ledger := fun u d => (State.abandonUnits_only _ _).ledger
  have die : ∀ (u : State) d, (u.plwDie d).ledger = u.ledger := fun u d => by
    unfold State.plwDie; dsimp only; split
    · exact State.ledger_ite (u.suspendToAbandon_only d _).ledger (State.joinWaiting_only _ d).ledger
    · exact (u.abandonErase_only d).ledger
    · rfl
  unfold execPlwNAsserted
  refine .ite (State.next_of_ledger rfl) (State.next_of_ledger ?_)
  rw [State.ledger_foldl (fun u d => (queue _ d).trans (die u d))]
  rfl

theorem execPlwNDeasserted_balancesKept (s : State) : s.BalancesKeptBy (execPlwNDeasserted s) := by
  unfold execPlwNDeasserted
  exact State.nextIf_of_ledger ((State.issueAgain_only _).ledger.trans (State.fillQueues_only _).ledger)

/-- A refill raises a balance up to its ceiling (R72). -/
theorem State.refill_legal (s : State) (hs : s.BalancesLegal) (n : Tenant) :
    Config.balanceFloor ≤ s.refill n ∧ s.refill n ≤ (s.tenants.get n).ceiling := by
  have := hs n
  unfold State.refill; dsimp only; split
  · simp only [refilledBalance, Config.balanceFloor] at *
    omega
  · exact this

theorem State.settleRefills_lowered (s : State) : s.Lowered s.settleRefills := by
  unfold State.settleRefills
  exact .foldl (f := State.settleCredit) State.examineCredit_lowered _ s

theorem execTick_balancesKept (s : State) : s.BalancesKeptBy (execTick s) := by
  have settled := s.settleRefills_lowered.legal
  unfold execTick
  generalize s.settleRefills = u at settled ⊢
  refine .next (fun hs n => ?_)
  simpa using u.refill_legal (settled hs) n

theorem execEpochAdvance_balancesKept (s : State) : s.BalancesKeptBy (execEpochAdvance s) := State.nextIf_of_ledger rfl

theorem execOrderExpiry_balancesKept (g : GroupId) (k : OrderSlotId) (s : State) : s.BalancesKeptBy (execOrderExpiry g k s) := by
  unfold execOrderExpiry; split
  · exact State.nextIf_of_ledger (s.closeOrder_only _ _ _).ledger
  · exact State.next_of_ledger rfl

theorem State.faultUnit_ledger (s : State) (u : Nat) : (s.faultUnit u).ledger = s.ledger := by
  unfold State.faultUnit; split
  · exact s.programFailed_ledger _
  · repeat' split
    all_goals simp

theorem execDieFault_balancesKept (d : DieId) (s : State) : s.BalancesKeptBy (execDieFault d s) := by
  have faulted : ∀ op, (s.faultDie d op).ledger = s.ledger := fun op => by
    refine (State.offerManagement_only _ _ _).ledger.trans ((State.flagDieFault_only _ d _).ledger.trans
      ((State.grantWindows_only _ d).ledger.trans ((State.abandonUnits_only _ _).ledger.trans ?_)))
    rw [State.modDie_ledger, State.ledger_foldl State.faultUnit_ledger]
    rfl
  unfold execDieFault; dsimp only; split
  · exact State.nextIf_of_ledger (faulted _)
  · exact State.next_of_ledger rfl

theorem execHaltComplete_balancesKept (s : State) : s.BalancesKeptBy (execHaltComplete s) := by
  unfold execHaltComplete; split
  · exact State.nextIf_of_ledger (s.endHalt_ledger _)
  · exact State.next_of_ledger rfl

theorem execStrayCompletion_balancesKept (c : Completion) (s : State) : s.BalancesKeptBy (execStrayCompletion c s) := by
  unfold execStrayCompletion; split
  · exact State.next_of_ledger rfl
  · exact State.next_of_ledger (State.offerManagement_only _ _ _).ledger

/-! ### Completions -/

theorem State.endProgram_ledger (s : State) (e : TagEntry) (report : PageKey → State → State)
    (h : ∀ k (u : State), (report k u).ledger = u.ledger) : (s.endProgram e report).ledger = s.ledger := by
  unfold State.endProgram; split
  · rfl
  · rw [State.serveSuspended_ledger, State.modDie_ledger, h]

theorem State.endErase_ledger (s : State) (d : DieId) (u : Nat) (done : Bool) (l : Link → Link) : (s.endErase d u done l).ledger = s.ledger := by
  rw [State.endErase, State.serveSuspended_ledger, State.examineFreed_ledger, (State.eraseOutcome_only _ u done).ledger,
    (State.dieAfterErase_only _ d).ledger]
  rfl

theorem State.checkOutcome_ledger (s : State) (u kind : Nat) : (s.checkOutcome u kind).ledger = s.ledger := by
  unfold State.checkOutcome; split
  · rfl
  · exact State.ledger_ite (s.enterFree_only _ _).ledger (State.ledger_ite (s.enterErasing_only u).ledger (s.enterRetired_only u).ledger)

theorem State.takeSuspend_ledger (s : State) (d : DieId) (kind : Nat) : (s.takeSuspend d kind).ledger = s.ledger := by
  have held : (s.holdErase d).ledger = s.ledger := by
    rw [State.holdErase, State.serveSuspended_ledger, (State.grantWindows_only _ d).ledger, State.modDie_ledger]
  exact State.ledger_ite (State.ledger_ite (State.ledger_ite held (s.abandonErase_only d).ledger) (State.ledger_ite rfl rfl)) rfl

/-! ### Every command -/

/-- Every command keeps each balance between the floor and its ceiling. -/
theorem exec_balancesKept (c : Instr) (s : State) : s.BalancesKeptBy (exec c s) := by
  cases c <;> dsimp only [exec]
  case deviceReset => exact execDeviceReset_balancesKept s
  case plwNAsserted => exact execPlwNAsserted_balancesKept s
  case plwNDeasserted => exact execPlwNDeasserted_balancesKept s
  case tick => exact execTick_balancesKept s
  case epochAdvance => exact execEpochAdvance_balancesKept s
  case creditAdmission n => exact (s.examineCredit_lowered n).next
  case idleSeal st q => exact State.next_of_ledger (s.dueSeal_ledger st q)
  case orderExpiry g k => exact execOrderExpiry_balancesKept g k s
  case windowExpiry d p => exact State.nextIf_of_ledger (State.serveSuspended_ledger _)
  case dieFault d => exact execDieFault_balancesKept d s
  case inactivityFence p => exact (s.dueFence_lowered p).next
  case requestTailWrite p w => exact execRequestTailWrite_balancesKept p w s
  case replyHeadWrite p w => exact execReplyHeadWrite_balancesKept p w s
  case otherMemoryWrite p offset bytes => exact execOtherMemoryWrite_balancesKept p offset bytes s
  case noticeWrite p => exact State.next_of_ledger (s.writeOldest_only p).ledger
  case openStream p => exact s.onRequest_of_ledger _ _ _ (openStreamRequest_ledger p)
  case closeStream p => exact s.onRequest_of_ledger _ _ _ (closeStreamRequest_ledger p)
  case drainStream p => exact s.onRequest_balancesKept _ _ _ (fun r u => (drainStreamRequest_lowered p r u).legal)
  case drainEnd st => exact State.nextIf_of_ledger (s.endDrain_ledger st)
  case resumeStream p => exact s.onRequest_of_ledger _ _ _ (resumeStreamRequest_ledger p)
  case setProfile p => exact s.onRequest_of_ledger _ _ _ (setProfileRequest_ledger p)
  case write p => exact s.onRequest_balancesKept _ _ _ (fun r u => (writeRequest_lowered p r u).legal)
  case placePage st cls => exact execPlacePage_balancesKept st cls s
  case replacePage st => exact execReplacePage_balancesKept st s
  case invalidate p => exact s.onRequest_of_ledger _ _ _ invalidateRequest_ledger
  case unitDrained p => exact s.onRequest_of_ledger _ _ _ (unitDrainedRequest_ledger p)
  case hold p => exact s.onRequest_of_ledger _ _ _ (holdRequest_ledger _)
  case fix p => exact s.onRequest_of_ledger _ _ _ (holdRequest_ledger _)
  case release p level => exact s.onRequest_of_ledger _ _ _ (releaseRequest_ledger level)
  case readWindow p => exact s.onRequest_of_ledger _ _ _ (readWindowRequest_ledger p)
  case windowGrant d => exact State.nextIf_of_ledger (s.grantWindows_only d).ledger
  case endWindow p => exact s.onRequest_of_ledger _ _ _ (endWindowRequest_ledger p)
  case ping p => exact s.onRequest_of_ledger _ _ _ (fun r u => r.answer_ledger u _ _ _)
  case queryUnit p => exact s.onRequest_of_ledger _ _ _ queryUnitRequest_ledger
  case unknownMasterRequest p => exact s.onRequest_of_ledger _ _ _ (fun r u => r.answer_ledger u _ _ _)
  case setGeometry => exact s.onManagement_of_ledger _ _ setGeometryRequest_ledger
  case setGroup => exact s.onManagement_of_ledger _ _ setGroupRequest_ledger
  case setTimebase => exact s.onManagement_of_ledger _ _ setTimebaseRequest_ledger
  case setTimers => exact s.onManagement_of_ledger _ _ (fun r _ => r.answer_ledger _ _ _ _)
  case setTenant => exact s.onManagement_balancesKept _ _ setTenantRequest_legal
  case setStream => exact s.onManagement_of_ledger _ _ setStreamRequest_ledger
  case setFilter => exact s.onManagement_of_ledger _ _ (fun r _ => r.answer_ledger _ _ _ _)
  case seekUnits => exact s.onManagement_of_ledger _ _ seekUnitsRequest_ledger
  case loadUnits => exact s.onManagement_of_ledger _ _ loadUnitsRequest_ledger
  case readUnit => exact s.onManagement_of_ledger _ _ readUnitRequest_ledger
  case readStream => exact s.onManagement_of_ledger _ _ readStreamRequest_ledger
  case readTenant => exact s.onManagement_of_ledger _ _ readTenantRequest_ledger
  case getStatus level => exact s.onManagement_of_ledger _ _ (getStatusRequest_ledger level)
  case clearStatus => exact s.onManagement_of_ledger _ _ (fun r _ => r.answer_ledger _ _ _ _)
  case run => exact s.onManagement_of_ledger _ _ runRequest_ledger
  case halt => exact s.onManagement_of_ledger _ _ haltRequest_ledger
  case haltComplete => exact execHaltComplete_balancesKept s
  case fencePort => exact s.onManagement_balancesKept _ _ (fun r u => (fencePortRequest_lowered r u).legal)
  case revivePort => exact s.onManagement_balancesKept _ _ (fun r u => (revivePortRequest_lowered r u).legal)
  case clearDieFault => exact s.onManagement_of_ledger _ _ clearDieFaultRequest_ledger
  case cancelOrders => exact s.onManagement_of_ledger _ _ cancelOrdersRequest_ledger
  case unknownMgmtRequest => exact s.onRequest_of_ledger _ _ _ (fun r u => r.answer_ledger u _ _ _)
  case searchExamine g => exact execSearchExamine_balancesKept g s
  case orderIssue g => exact execOrderIssue_balancesKept g s
  case arbitrate d => exact State.nextIf_of_ledger (s.arbitrateDie_only d _).ledger
  case queueFill d => exact State.next_of_ledger (s.fillQueue_only d).ledger
  case waitingDieOffer => exact execWaitingDieOffer_balancesKept s
  case descriptorSend => exact execDescriptorSend_balancesKept s
  case programDone c => exact s.onCompletion_of_ledger c _ _ _ (fun e u => u.endProgram_ledger e _ (fun k v => (v.pageDone_only k).ledger))
  case programFail c => exact s.onCompletion_of_ledger c _ _ _ (fun e u => u.endProgram_ledger e _ (fun k v => v.programFailed_ledger k))
  case writeEnd p slot => exact execWriteEnd_balancesKept p slot s
  case eraseCompletion c => exact s.onCompletion_of_ledger c _ _ _ (fun e u => u.endErase_ledger _ _ _ _)
  case checkCompletion c => exact s.onCompletion_of_ledger c _ _ _ (fun e u => by
    rw [State.serveSuspended_ledger, State.examineFreed_ledger, State.checkOutcome_ledger, (u.dieAfterErase_only e.die).ledger])
  case suspendAnswer c => exact s.onCompletion_of_ledger c _ _ _ (fun e u => State.ledger_ite rfl (u.takeSuspend_ledger _ _))
  case resumeAnswer c => exact s.onCompletion_of_ledger c _ _ _ (fun e u => State.ledger_ite (u.endErase_ledger _ _ _ _) rfl)
  case strayCompletion c => exact execStrayCompletion_balancesKept c s

/-- Settles O2: a step is the command in front of the queue, or a REFCLK period, which is at most a tick. -/
theorem stepKeepsBalances : Obligations.StepKeepsBalances := by
  unfold Obligations.StepKeepsBalances
  intro s t hs ht
  unfold step at ht; split at ht
  · unfold State.clockPeriod at ht; split at ht
    · cases ht; exact hs.of_ledger rfl
    · exact execTick_balancesKept s t ht hs
  · next c rest _ => exact exec_balancesKept c { s with pending := rest } t ht (hs.of_ledger rfl)

end Sys2Proof.Machine
end

section
/-!
PROOFS. CREDIT_ADMISSION (R70, R73, R74): what the admission of one entry leaves in the tenants' records and the lines, and the examination of a
tenant with no, one or two CREDIT entries.
-/

namespace Sys2Proof.Machine

/-! ## One entry that is admitted -/

/-- The admitted entry's own tenant is charged where it is metered (R70). -/
theorem State.admitEntry_balance (s : State) (e : WaitEntry) : (s.admitEntry e).credit.balances.get e.tenant =
    if (s.tenants.get e.tenant).metered = true then chargedBalance (s.credit.balances.get e.tenant) e.remaining
    else s.credit.balances.get e.tenant :=
  (s.admitEntry_balances e e.tenant).trans (if_congr (and_iff_right rfl) rfl rfl)

/-- The pages of a HOST entry are counted as HOST pages, and those of a RELOC entry as RELOC pages (R41). -/
theorem State.admitEntry_tenant (s : State) (e : WaitEntry) :
    (e.cls = .host → (s.admitEntry e).tenants.get e.tenant = { s.tenants.get e.tenant with
      hostPages := (s.tenants.get e.tenant).hostPages + BitVec.ofNat 32 e.remaining }) ∧
    (e.cls = .reloc → (s.admitEntry e).tenants.get e.tenant = { s.tenants.get e.tenant with
      relocPages := (s.tenants.get e.tenant).relocPages + BitVec.ofNat 32 e.remaining }) ∧
    ∀ k, k ≠ e.tenant → (s.admitEntry e).tenants.get k = s.tenants.get k := by
  rw [State.admitEntry_tenants]
  refine ⟨fun h => ?_, fun h => ?_, fun k hk => ?_⟩
  · simp [State.countPages, h]
  · simp [State.countPages, h]
  · simp [State.countPages, hk]

/-- A HOST request joins the HOST line of its stream at the end, and a RELOC request the RELOC line (R47). -/
theorem State.admitEntry_line (s : State) (e : WaitEntry) :
    (e.cls = .host → (s.admitEntry e).lines.get e.stream = { s.lines.get e.stream with
      host := (s.lines.get e.stream).host ++ [e.ctx] }) ∧
    (e.cls = .reloc → (s.admitEntry e).lines.get e.stream = { s.lines.get e.stream with
      reloc := (s.lines.get e.stream).reloc ++ [e.ctx] }) ∧
    ∀ st, st ≠ e.stream → (s.admitEntry e).lines.get st = s.lines.get st := by
  rw [State.admitEntry_lines]
  refine ⟨fun h => ?_, fun h => ?_, fun st hst => ?_⟩
  · simp [State.joinLine, h]
  · simp [State.joinLine, h]
  · simp [State.joinLine, hst]

/-! ## An examination -/

/-- An entry that is examined with credit, first of its stream, is admitted (R73). -/
theorem State.examineEntry_admits (s : State) (e : WaitEntry) (hb : 0 < s.credit.balances.get e.tenant)
    (hf : (s.credit.waitList.find? (·.creditOf e.stream)).map (·.ctx) = some e.ctx) : s.examineEntry e = s.admitEntry e := if_pos ⟨hb, hf⟩

/-- An examination takes entries off the wait list, and raises no balance (R70, R73). -/
theorem State.examineCredit_lowers (s : State) (n : Tenant) :
    (s.examineCredit n).credit.waitList.Sublist s.credit.waitList ∧
    ∀ k, (s.examineCredit n).credit.balances.get k ≤ s.credit.balances.get k := by
  refine List.foldlRecOn (motive := fun u : State => u.credit.waitList.Sublist s.credit.waitList ∧
    ∀ k, u.credit.balances.get k ≤ s.credit.balances.get k) (s.creditEntries n) State.examineEntry ⟨.refl _, fun _ => le_refl _⟩ ?_
  rintro u ⟨list, balances⟩ e -
  unfold State.examineEntry; split
  · next h =>
    refine ⟨by rw [State.admitEntry_waitList]; exact List.filter_sublist.trans list, fun k => le_trans ?_ (balances k)⟩
    rw [State.admitEntry_balances]; split
    · next hk =>
      have credit := h.1
      rw [← hk.1] at credit
      exact (chargedBalance_bounds _ _ (by simp only [Config.balanceFloor]; omega)).2
    · exact le_refl _
  · exact ⟨list, balances⟩

/-- After an examination none is due for its tenant, where the requests that wait on a stream are of one tenant (R73). -/
theorem State.examineCredit_noCreditDue (s : State) (n : Tenant) (one : s.StreamsOneTenant) : (s.examineCredit n).NoCreditDue n := by
  by_cases hb : 0 < (s.examineCredit n).credit.balances.get n
  · exact .inr (s.examineCredit_all n one hb)
  · exact .inl (by omega)

/-- The examination of a tenant with one CREDIT entry, first of its stream, and with credit. -/
theorem State.examineCredit_one (s : State) (n : Tenant) (e : WaitEntry) (hb : 0 < s.credit.balances.get n) (hl : s.creditEntries n = [e])
    (hf : (s.credit.waitList.find? (·.creditOf e.stream)).map (·.ctx) = some e.ctx) :
    e.tenant = n ∧ s.examineCredit n = s.admitEntry e := by
  obtain ⟨-, -, rfl⟩ := (s.mem_creditEntries n e).mp (hl ▸ .head _)
  refine ⟨rfl, ?_⟩
  rw [State.examineCredit, hl, List.foldl_cons, List.foldl_nil, s.examineEntry_admits e hb hf]

/-- The examination of a tenant with two CREDIT entries and with credit: the second is admitted where the first, once charged, leaves a balance
above 0. -/
theorem State.examineCredit_two (s : State) (n : Tenant) (a b : WaitEntry) (hb : 0 < s.credit.balances.get n) (hl : s.creditEntries n = [a, b])
    (ha : (s.credit.waitList.find? (·.creditOf a.stream)).map (·.ctx) = some a.ctx)
    (hf : ((s.credit.waitList.filter (fun x => decide (x.ctx ≠ a.ctx))).find? (·.creditOf b.stream)).map (·.ctx) = some b.ctx) :
    a.tenant = n ∧ b.tenant = n ∧ s.examineCredit n =
      if 0 < (s.admitEntry a).credit.balances.get n then (s.admitEntry a).admitEntry b else s.admitEntry a := by
  obtain ⟨-, -, rfl⟩ := (s.mem_creditEntries n a).mp (hl ▸ .head _)
  obtain ⟨-, -, hbn⟩ := (s.mem_creditEntries a.tenant b).mp (hl ▸ .tail _ (.head _))
  refine ⟨rfl, hbn, ?_⟩
  rw [State.examineCredit, hl, List.foldl_cons, List.foldl_cons, List.foldl_nil, s.examineEntry_admits a hb ha]
  split
  · next hp => exact State.examineEntry_admits _ b (hbn ▸ hp) (by rw [State.admitEntry_waitList]; exact hf)
  · next hp => exact State.examineEntry_noCredit _ b (by rw [hbn]; omega)

/-- Settles O13: an examination admits nothing, one entry or two, each as `State.admitEntry` does. -/
theorem creditAdmissionAdmits : Obligations.CreditAdmissionAdmits := by
  unfold Obligations.CreditAdmissionAdmits
  refine ⟨fun n s h => ?_, fun n s one => ?_, fun n s a b hb hl _ ha hf => ?_, fun n s e hb hl hf => ?_⟩
  · exact congrArg Host.Outcome.next (s.examineCredit_none n h)
  · obtain ⟨list, balances⟩ := s.examineCredit_lowers n
    exact ⟨_, rfl, s.examineCredit_noCreditDue n one, list, balances n, s.examineCredit_only n⟩
  · intro charged first
    obtain ⟨rfl, hbn, examined⟩ := s.examineCredit_two n a b hb hl ha hf
    have metered : ((s.admitEntry a).tenants.get a.tenant).metered = (s.tenants.get a.tenant).metered :=
      (s.admitEntry_admitted a).metered a.tenant
    have charge : (s.admitEntry a).credit.balances.get a.tenant = first := s.admitEntry_balance a
    refine ⟨_, rfl, fun hp => ?_, fun hp => ?_, s.examineCredit_only _⟩
    · rw [examined, if_neg (by rw [charge]; omega)]
      exact ⟨s.admitEntry_waitList a, charge⟩
    · rw [examined, if_pos (by rw [charge]; exact hp)]
      refine ⟨?_, ?_, fun hst hac hbc => ?_⟩
      · rw [State.admitEntry_waitList, State.admitEntry_waitList, List.filter_filter]
        exact List.filter_congr (fun x _ => by simp [Bool.and_comm])
      · have second := (s.admitEntry a).admitEntry_balance b
        rwa [hbn, charge, metered] at second
      · rw [hst, ((s.admitEntry a).admitEntry_line b).1 hbc, ← hst, (s.admitEntry_line a).1 hac, List.append_assoc]
        rfl
  · obtain ⟨rfl, examined⟩ := s.examineCredit_one n e hb hl hf
    obtain ⟨host, reloc, others⟩ := s.admitEntry_tenant e
    obtain ⟨hostLine, relocLine, otherLines⟩ := s.admitEntry_line e
    refine ⟨s.admitEntry e, congrArg Host.Outcome.next examined, s.admitEntry_waitList e, s.admitEntry_shares e,
      s.admitEntry_balance e, fun x hx => ⟨?_, others x hx⟩, fun hc => ⟨host hc, hostLine hc⟩, fun hc => ⟨reloc hc, relocLine hc⟩,
      otherLines, s.admitEntry_only e⟩
    rw [State.admitEntry_balances, if_neg (fun h => hx h.1)]

end Sys2Proof.Machine
end

section
/-!
PROOFS. SET_TENANT (R75, R177): the record and the clamped balance, behind the examination that is due (R73), and the admission of a tenant whose
metering is turned off.
-/

namespace Sys2Proof.Machine

/-! ## The entries that are admitted -/

/-- The requests of a class among some entries that join the line of a stream, in arrival order (R47). -/
def joiningLine (l : List WaitEntry) (st : StreamId) (cls : WriteClass) : List ContextId :=
  ((l.filter (fun e => decide (e.cls = cls))).filter (fun e => decide (e.stream = st))).map (·.ctx)

/-- The remaining pages of the entries of a class (R41). -/
def remainingPages (l : List WaitEntry) (cls : WriteClass) : Nat := ((l.filter (fun e => decide (e.cls = cls))).map (·.remaining)).sum

/-- The CREDIT entries of a tenant of one class. -/
theorem State.creditEntries_ofClass (s : State) (n : Tenant) (cls : WriteClass) : (s.creditEntries n).filter (fun e => decide (e.cls = cls)) =
    s.credit.waitList.filter (fun e => decide (e.reason = .credit ∧ e.tenant = n ∧ e.cls = cls)) := by
  rw [State.creditEntries, List.filter_filter]
  exact List.filter_congr (fun e _ => by simp only [Bool.decide_and, Bool.and_comm, Bool.and_left_comm])

theorem joiningLine_cons (e : WaitEntry) (l : List WaitEntry) (st : StreamId) (cls : WriteClass) :
    joiningLine (e :: l) st cls = joiningLine [e] st cls ++ joiningLine l st cls := by
  rw [← List.singleton_append]
  simp only [joiningLine, List.filter_append, List.map_append]

theorem remainingPages_cons (e : WaitEntry) (l : List WaitEntry) (cls : WriteClass) :
    remainingPages (e :: l) cls = remainingPages [e] cls + remainingPages l cls := by
  rw [← List.singleton_append]
  simp only [remainingPages, List.filter_append, List.map_append, List.sum_append]

/-- The lines once one entry is admitted, of every stream and class. -/
theorem State.admitEntry_joined (s : State) (e : WaitEntry) (st : StreamId) :
    (s.admitEntry e).lines.get st = { s.lines.get st with
      host := (s.lines.get st).host ++ joiningLine [e] st .host
      reloc := (s.lines.get st).reloc ++ joiningLine [e] st .reloc } := by
  obtain ⟨host, reloc, others⟩ := s.admitEntry_line e
  by_cases hst : st = e.stream
  · subst hst
    cases hc : e.cls with
    | host => simp [host hc, joiningLine, hc]
    | reloc => simp [reloc hc, joiningLine, hc]
  · have none : ∀ cls, joiningLine [e] st cls = [] := fun cls => by
      by_cases hc : e.cls = cls <;> simp [joiningLine, hc, Ne.symm hst]
    rw [others st hst, none, none, List.append_nil, List.append_nil]

/-- The record of the entry's tenant once the entry is admitted, for either class. -/
theorem State.admitEntry_counted (s : State) (e : WaitEntry) :
    (s.admitEntry e).tenants.get e.tenant = { s.tenants.get e.tenant with
      hostPages := (s.tenants.get e.tenant).hostPages + BitVec.ofNat 32 (remainingPages [e] .host)
      relocPages := (s.tenants.get e.tenant).relocPages + BitVec.ofNat 32 (remainingPages [e] .reloc) } := by
  obtain ⟨host, reloc, -⟩ := s.admitEntry_tenant e
  cases hc : e.cls with
  | host => simp [host hc, remainingPages, hc]
  | reloc => simp [reloc hc, remainingPages, hc]

/-- Entries that are admitted one after another leave the wait list with every entry of their requests. -/
theorem State.admitEntries_waitList (l : List WaitEntry) (s : State) :
    (l.foldl State.admitEntry s).credit.waitList = s.credit.waitList.filter (fun x => decide (∀ e ∈ l, x.ctx ≠ e.ctx)) := by
  induction l generalizing s with
  | nil => simp
  | cons e l ih =>
    rw [List.foldl_cons, ih, State.admitEntry_waitList, List.filter_filter]
    exact List.filter_congr (fun x _ => by simp [Bool.and_comm])

/-- They join their lines in their order. -/
theorem State.admitEntries_joined (l : List WaitEntry) (s : State) (st : StreamId) :
    (l.foldl State.admitEntry s).lines.get st = { s.lines.get st with
      host := (s.lines.get st).host ++ joiningLine l st .host
      reloc := (s.lines.get st).reloc ++ joiningLine l st .reloc } := by
  induction l generalizing s with
  | nil => simp [joiningLine]
  | cons e l ih =>
    rw [List.foldl_cons, ih, State.admitEntry_joined, joiningLine_cons e l, joiningLine_cons e l]
    simp only [List.append_assoc]

/-- Entries of one tenant are counted for it, and change no other record. -/
theorem State.admitEntries_counted (l : List WaitEntry) (s : State) (n : Tenant) (hl : ∀ e ∈ l, e.tenant = n) :
    (l.foldl State.admitEntry s).tenants.get n = { s.tenants.get n with
      hostPages := (s.tenants.get n).hostPages + BitVec.ofNat 32 (remainingPages l .host)
      relocPages := (s.tenants.get n).relocPages + BitVec.ofNat 32 (remainingPages l .reloc) } ∧
    ∀ k, k ≠ n → (l.foldl State.admitEntry s).tenants.get k = s.tenants.get k := by
  induction l generalizing s with
  | nil => simp [remainingPages]
  | cons e l ih =>
    obtain ⟨own, others⟩ := ih (s.admitEntry e) (fun x hx => hl x (.tail _ hx))
    have he := hl e (.head _)
    subst he
    refine ⟨?_, fun k hk => ?_⟩
    · rw [List.foldl_cons, own, State.admitEntry_counted, remainingPages_cons e l, remainingPages_cons e l]
      simp only [BitVec.ofNat_add, BitVec.add_assoc]
    · rw [List.foldl_cons, others k hk, (s.admitEntry_tenant e).2.2 k hk]

/-- Entries of a tenant that is not metered are admitted uncharged (R70, R75). -/
theorem State.admitEntries_uncharged (l : List WaitEntry) (s : State) (n : Tenant) (hl : ∀ e ∈ l, e.tenant = n)
    (hm : (s.tenants.get n).metered = false) : (l.foldl State.admitEntry s).credit.balances = s.credit.balances := by
  induction l generalizing s with
  | nil => rfl
  | cons e l ih =>
    have he := hl e (.head _)
    subst he
    rw [List.foldl_cons, ih _ (fun x hx => hl x (.tail _ hx)) (((s.admitEntry_admitted e).metered _).trans hm)]
    refine Table.ext_get _ _ (fun k => ?_)
    rw [State.admitEntry_balances, if_neg]
    rintro ⟨rfl, h⟩
    rw [hm] at h; cases h

/-! ## A tenant whose metering is turned off -/

/-- What the admission of a tenant that is not metered does (R75): its CREDIT entries leave the list uncharged, each counted and in its line. -/
theorem State.admitTenant_cases (s : State) (n : Tenant) (hm : (s.tenants.get n).metered = false) :
    let t := s.admitTenant n
    let w := s.creditEntries n
    t.credit.balances = s.credit.balances ∧ t.credit.shares = s.credit.shares ∧
    (∀ e ∈ t.credit.waitList, e.reason = .credit → e.tenant ≠ n) ∧
    ((s.credit.waitList.map (·.ctx)).Nodup →
      t.credit.waitList = s.credit.waitList.filter (fun e => decide (¬ (e.reason = .credit ∧ e.tenant = n)))) ∧
    (∀ st, t.lines.get st = { s.lines.get st with
      host := (s.lines.get st).host ++ joiningLine w st .host
      reloc := (s.lines.get st).reloc ++ joiningLine w st .reloc }) ∧
    t.tenants.get n = { s.tenants.get n with
      hostPages := (s.tenants.get n).hostPages + BitVec.ofNat 32 (remainingPages w .host)
      relocPages := (s.tenants.get n).relocPages + BitVec.ofNat 32 (remainingPages w .reloc) } ∧
    ∀ k, k ≠ n → t.tenants.get k = s.tenants.get k := by
  intro t w
  have own : ∀ e ∈ w, e.tenant = n := fun e he => ((s.mem_creditEntries n e).mp he).2.2
  have waitList : t.credit.waitList = _ := State.admitEntries_waitList w s
  refine ⟨State.admitEntries_uncharged w s n own hm, (State.Admitted.foldl State.admitEntry_admitted w s).shares, fun e he hr ht => ?_,
    fun hn => ?_, State.admitEntries_joined w s, State.admitEntries_counted w s n own⟩
  · rw [waitList] at he
    obtain ⟨he, left⟩ := List.mem_filter.mp he
    exact of_decide_eq_true left e ((s.mem_creditEntries n e).mpr ⟨he, hr, ht⟩) rfl
  · rw [waitList]
    refine List.filter_congr (fun x hx => decide_eq_decide.mpr ⟨fun h hc => ?_, fun h e he hc => ?_⟩)
    · exact h x ((s.mem_creditEntries n x).mpr ⟨hx, hc⟩) rfl
    · obtain ⟨hes, hec⟩ := (s.mem_creditEntries n e).mp he
      exact h (List.inj_on_of_nodup_map hn hx hes hc ▸ hec)

/-! ## SET-TENANT -/

/-- A tenant's record takes its new values, and its balance is clamped to the ceiling (R75). -/
def State.setRecord (s : State) (n : Tenant) (metered : Bool) (rate ceiling : Nat) : State :=
  (s.modTenant n (fun r => { r with metered := metered, rate := rate, ceiling := ceiling })).modBalance n (fun b => min b ceiling)

theorem State.setTenant_eq (s : State) (n : Tenant) (metered : Bool) (rate ceiling : Nat) :
    s.setTenant n metered rate ceiling = if metered then (s.examineCredit n).setRecord n metered rate ceiling
      else ((s.examineCredit n).setRecord n metered rate ceiling).admitTenant n := rfl

theorem State.setTenant_only (s : State) (n : Tenant) (metered : Bool) (rate ceiling : Nat) :
    s.Only [.tenants, .lines, .credit] (s.setTenant n metered rate ceiling) := by
  have set : s.Only [.tenants, .lines, .credit] ((s.examineCredit n).setRecord n metered rate ceiling) :=
    ((s.examineCredit_only n).andThen (State.modTenant_only _ n _)).andThen (State.modBalance_only _ n _)
  rw [State.setTenant_eq]; split
  · exact set
  · exact set.andThen (State.admitTenant_only _ n)

/-- What SET-TENANT sets, and the requests it admits, from the state `m` that the examination which is due leaves (R73, R75). -/
structure State.TenantSet (m : State) (n : Tenant) (on : Bool) (r c : Nat) (t : State) : Prop where
  metered : (t.tenants.get n).metered = on
  rate : (t.tenants.get n).rate = r
  ceiling : (t.tenants.get n).ceiling = c
  balances : t.credit.balances = m.credit.balances.set n (min (m.credit.balances.get n) c)
  shares : t.credit.shares = m.credit.shares
  others : ∀ k, k ≠ n → t.tenants.get k = m.tenants.get k
  kept : on = true → t.credit.waitList = m.credit.waitList ∧ t.lines = m.lines ∧
    (t.tenants.get n).hostPages = (m.tenants.get n).hostPages ∧ (t.tenants.get n).relocPages = (m.tenants.get n).relocPages
  admitted : on = false →
    let w := m.creditEntries n
    (∀ e ∈ t.credit.waitList, e.reason = .credit → e.tenant ≠ n) ∧
    ((m.credit.waitList.map (·.ctx)).Nodup →
      t.credit.waitList = m.credit.waitList.filter (fun e => decide (¬ (e.reason = .credit ∧ e.tenant = n)))) ∧
    (∀ st, t.lines.get st = { m.lines.get st with
      host := (m.lines.get st).host ++ joiningLine w st .host
      reloc := (m.lines.get st).reloc ++ joiningLine w st .reloc }) ∧
    (t.tenants.get n).hostPages = (m.tenants.get n).hostPages + BitVec.ofNat 32 (remainingPages w .host) ∧
    (t.tenants.get n).relocPages = (m.tenants.get n).relocPages + BitVec.ofNat 32 (remainingPages w .reloc)

theorem State.setTenant_sets (s : State) (n : Tenant) (metered : Bool) (rate ceiling : Nat) :
    (s.examineCredit n).TenantSet n metered rate ceiling (s.setTenant n metered rate ceiling) := by
  rw [State.setTenant_eq]
  generalize s.examineCredit n = m
  have own : (m.setRecord n metered rate ceiling).tenants.get n = { m.tenants.get n with
      metered := metered, rate := rate, ceiling := ceiling } := Table.get_modify_self _ _ _
  have other : ∀ k, k ≠ n → (m.setRecord n metered rate ceiling).tenants.get k = m.tenants.get k := fun k hk =>
    Table.get_modify_ne _ _ _ _ hk
  cases metered with
  | true =>
    rw [if_pos rfl]
    refine ⟨?_, ?_, ?_, rfl, rfl, other, fun _ => ⟨rfl, rfl, ?_, ?_⟩, fun h => Bool.noConfusion h⟩ <;> rw [own]
  | false =>
    rw [if_neg (by decide)]
    obtain ⟨balances, shares, waiting, waitList, lines, counted, others⟩ :=
      (m.setRecord n false rate ceiling).admitTenant_cases n (by rw [own])
    rw [own] at counted
    refine ⟨?_, ?_, ?_, balances, shares, fun k hk => (others k hk).trans (other k hk), fun h => Bool.noConfusion h,
      fun _ => ⟨waiting, waitList, lines, ?_, ?_⟩⟩ <;> rw [counted]
    · rfl
    · rfl

/-- SET-TENANT's answers by its checks (R177). -/
theorem setTenantRequest_cases (r : Request) (s : State) :
    (63 < r.byte 4 → setTenantRequest r s = r.answer s .badRequest) ∧
    ∀ n : Tenant, r.byte 4 = n.val →
      ((1 < r.byte 5 ∨ 16777215 < r.word 8) → setTenantRequest r s = r.answer s .badConfig) ∧
      (r.byte 5 ≤ 1 → r.word 8 ≤ 16777215 →
        let t := s.setTenant n (decide (r.byte 5 = 0)) (r.half 6) (r.word 8)
        setTenantRequest r s = r.answer t .ok (leBytes 4 (balanceWord (t.credit.balances.get n)).toNat)) := by
  have metering : r.byte 5 ≤ 1 → r.metering = some (decide (r.byte 5 = 0)) := fun h => by
    unfold Request.metering
    by_cases h0 : r.byte 5 = 0
    · rw [if_pos h0, decide_eq_true h0]
    · rw [if_neg h0, if_pos (by omega), decide_eq_false h0]
  refine ⟨fun h => ?_, fun n hn => ⟨fun h => ?_, fun h5 h8 => ?_⟩⟩
  · simp only [setTenantRequest, Request.tenant, asFin_none h]
  · by_cases h5 : r.byte 5 ≤ 1
    · have ceiling : ¬ r.ceiling ≤ 16777215 := by rw [Request.ceiling]; omega
      simp only [setTenantRequest, Request.tenant, asFin_val _ n hn, metering h5, if_neg ceiling]
    · have none : r.metering = none := by rw [Request.metering, if_neg (by omega), if_neg (by omega)]
      simp only [setTenantRequest, Request.tenant, asFin_val _ n hn, none]
  · have ceiling : r.ceiling ≤ 16777215 := h8
    simp only [setTenantRequest, Request.tenant, asFin_val _ n hn, metering h5, if_pos ceiling]
    rfl

/-- Settles O42: the answers are those of `setTenantRequest_cases`, and the record, the balance and the admitted requests those of
`State.setTenant_sets`. -/
theorem setTenantClamps : Obligations.SetTenantClamps := by
  unfold Obligations.SetTenantClamps
  intro s hr q
  let a := s.taken .management
  have he : exec .setTenant s = .next (setTenantRequest q a) :=
    exec_of_kind s .management kindSetTenant setTenantRequest .setTenant rfl hr
  obtain ⟨badRequest, checked⟩ := setTenantRequest_cases q a
  refine ⟨fun h => onlyAnswered_of_exec (he.trans (congrArg _ (badRequest h))), fun n hn => ?_⟩
  obtain ⟨badConfig, sets⟩ := checked n hn
  refine ⟨fun h => onlyAnswered_of_exec (he.trans (congrArg _ (badConfig h))), fun h5 h8 => ?_⟩
  let u := a.setTenant n (decide (q.byte 5 = 0)) (q.half 6) (q.word 8)
  obtain ⟨hc, ht, hl⟩ := State.examineCredit_same (s := s) (a := a) ⟨s.taken_credit _, s.taken_tenants _, s.taken_lines _⟩ n
  obtain ⟨metered, rate, ceiling, balances, shares, others, kept, admitted⟩ :=
    a.setTenant_sets n (decide (q.byte 5 = 0)) (q.half 6) (q.word 8)
  have entries : (a.examineCredit n).creditEntries n = (s.examineCredit n).creditEntries n := by
    rw [State.creditEntries, State.creditEntries, hc]
  simp only [entries, hc, ht, hl] at balances shares others kept admitted
  have only : a.Only [.tenants, .lines, .credit] u := a.setTenant_only n _ _ _
  have balance : u.credit.balances.get n = min ((s.examineCredit n).credit.balances.get n) (q.word 8) := by
    rw [balances, Table.get_set_self]
  have answered := s.answered u .management (only .masters (by decide)) (only .mport (by decide)) .ok
    (leBytes 4 (balanceWord (u.credit.balances.get n)).toNat) []
  refine ⟨s.examineCredit n, _, rfl, s.examineCredit_only n, s.examineCredit_none n, he.trans (congrArg _ (sets h5 h8)), ?_, ?_⟩
  · rw [balance] at answered ⊢
    exact answered
  · simp only [Request.answer_tenants, Request.answer_credit, Request.answer_lines]
    refine ⟨metered, rate, ceiling, balances, shares.trans (s.examineCredit_admitted n).shares,
      fun k hk => (others k hk).trans (s.examineCredit_tenants_ne n k hk), fun h => kept (decide_eq_true h), fun h => ?_, ?_⟩
    · obtain ⟨waiting, waitList, lines, host, reloc⟩ := admitted (decide_eq_false (by omega))
      simp only [joiningLine, remainingPages, State.creditEntries_ofClass] at lines host reloc
      exact ⟨waiting, fun hd => waitList (((s.examineCredit_lowers n).1.map _).nodup hd), lines, host, reloc⟩
    · exact ((s.taken_only_management.mono (by decide)).andThen only (gs := [.tenants, .lines, .credit, .mport])).andThen
        (q.answer_only_management rfl u _ _ _)

end Sys2Proof.Machine
end

section
/-!
PROOFS. The choice of victims (chapter 5): the score of a unit (R88), the tenant filter (R87), and the search of a group (R86, R89 to
R91).
-/

namespace Sys2Proof.Machine

/-! ## The victim score -/

/-- The score of a unit with valid pages to move is a share of its age, weighted below 2 to the 24th (R88). -/
theorem victimScore_le (p v age : Nat) : victimScore p v age ≤ 16777216 := by
  unfold victimScore
  split
  · exact Nat.zero_le _
  · have hage : min age Config.count16 + 1 ≤ 65536 := Nat.succ_le_succ (Nat.min_le_right _ _)
    refine Nat.div_le_of_le_mul ?_
    calc (min age Config.count16 + 1) * (p - v) * 256
        ≤ 65536 * (p + v) * 256 := by gcongr; omega
      _ = (p + v) * 16777216 := by ring

/-- A unit's age is the epochs since its seal, modulo 2 to the 32nd (R88). -/
theorem State.age_sealed (s : State) (x : UnitRecord) (sealed : Word) (h : x.sealEpoch = some sealed) :
    s.age x = (s.time.epoch.toNat + 4294967296 - sealed.toNat) % 4294967296 := by
  have hlt := sealed.isLt
  simp only [State.age, h, Option.getD_some, BitVec.toNat_sub]
  congr 1
  omega

/-- Settles O8: the bound is that of the formula, whose two branches are the two clauses. -/
theorem victimScoreBounded : Obligations.VictimScoreBounded := by
  unfold Obligations.VictimScoreBounded
  intro s x sealed hs hp hv age
  refine ⟨victimScore_le _ _ _, fun h => ?_, fun h => ?_⟩
  · rw [State.score, victimScore, if_pos h]
  · rw [State.score, victimScore, if_neg h.ne, s.age_sealed x sealed hs]; rfl

/-! ## The tenant filter -/

/-- Two numbers of 6 bits agree in every bit of a mask exactly where no bit of the mask marks a difference (R87). -/
theorem masked_agree_iff (a b m : BitVec 6) :
    (a ^^^ b) &&& m = 0 ↔ ∀ i, i < 6 → m.getLsbD i = true → a.getLsbD i = b.getLsbD i := by
  constructor
  · intro h i hi hm
    have hbit := congrArg (fun v : BitVec 6 => v.getLsbD i) h
    simpa [hm] using hbit
  · intro h
    refine BitVec.eq_of_getLsbD_eq (fun i hi => ?_)
    cases hm : m.getLsbD i with
    | false => simp [hm]
    | true => simp [hm, h i hi hm]

/-- The filter under the mask 0x3F passes one tenant, the compare value (R87). -/
theorem ofNat_six_eq_iff (n : Tenant) (b : BitVec 6) : BitVec.ofNat 6 n.val = b ↔ n.val = b.toNat := by
  rw [← BitVec.toNat_inj, BitVec.toNat_ofNat, Nat.mod_eq_of_lt n.isLt]

/-- What SET-FILTER stores is the low six bits of its byte (R87). -/
theorem ofNat_six_mod (v : Nat) : BitVec.ofNat 6 (v % 64) = BitVec.ofNat 6 v := by
  apply BitVec.eq_of_toNat_eq; simp

theorem State.passesFilter_iff (s : State) (n : Tenant) :
    s.passesFilter n = true ↔ (BitVec.ofNat 6 n.val ^^^ s.reclaim.compare) &&& s.reclaim.care = 0 := by
  simp [State.passesFilter]

/-- Settles O44: the filter is a comparison under a mask, and SET-FILTER stores its two values and wakes every group. -/
theorem setFilterSelectsTenants : Obligations.SetFilterSelectsTenants := by
  unfold Obligations.SetFilterSelectsTenants
  refine ⟨fun s n => (s.passesFilter_iff n).trans (masked_agree_iff _ _ _), fun s n h => ?_, fun s n h => ?_, rfl, rfl, fun s hr => ?_⟩
  · rw [s.passesFilter_iff, h]; exact BitVec.and_zero
  · rw [s.passesFilter_iff, h, show (0x3F : BitVec 6) = BitVec.allOnes 6 from rfl, BitVec.and_allOnes, ← ofNat_six_eq_iff]
    exact BitVec.xor_eq_zero_iff
  · intro q
    let a := s.taken .management
    let f : ReclaimShared := { s.reclaim with compare := BitVec.ofNat 6 (q.byte 4), care := BitVec.ofNat 6 (q.byte 5) }
    let b : State := { a with reclaim := f }
    have he : exec .setFilter s = .next (q.answer b.wakeAll .ok) := exec_of_kind s .management kindSetFilter setFilterRequest _ rfl hr
    have ab : a.Only [.reclaim] b := a.setReclaim_only f
    have bt := (b.wakeAll_only.mono (by decide)).andThen (gs := [.groups, .mport]) (q.answer_only_management rfl b.wakeAll .ok [] [])
    have hg := q.answer_wakeAll_groups s b rfl .ok
    refine ⟨_, he, s.answered b.wakeAll .management rfl rfl .ok [] [], ?_, hg, fun r => ?_,
      ((s.taken_only_management.mono (by decide)).andThen ab).andThen bt⟩
    · rw [ofNat_six_mod, ofNat_six_mod]; exact bt .reclaim (by decide)
    · rw [State.order, (hg r.group).1, State.order]
      cases s.reclaimOf r.group with
      | none => rfl
      | some k => simp only [Option.map_some, Option.bind_some, ReclaimRecord.wake_slots]

/-! ## Victims and candidates -/

theorem UnitRecord.settled_iff (x : UnitRecord) : x.settled = true ↔ x.programmed = x.writePointer ∨ x.retirePending = true := by
  simp [UnitRecord.settled]

/-- A unit's route is usable when its owner's target is OPEN and of the unit's tenant (R37). -/
theorem State.usableRoute_isSome_iff (s : State) (x : UnitRecord) :
    (s.usableRoute x).isSome = true ↔ ∃ st, x.owner = some st ∧ (s.streams.get (s.streams.get st).target).state = .opened ∧
      x.tenant = some (s.streams.get (s.streams.get st).target).tenant := by
  unfold State.usableRoute
  cases x.owner with
  | none => simp
  | some st => simp

/-- The conditions of R86 under which a unit is an eligible victim. -/
theorem State.victimEligible_iff (s : State) (u : Nat) (x : UnitRecord) (h : s.unit? u = some x) :
    s.victimEligible u = true ↔ x.state = .sealed ∧ x.hold = .noHold ∧
      (x.programmed = x.writePointer ∨ x.retirePending = true) ∧ (∀ st, u ∉ (s.streams.get st).young) ∧
      (x.valid < s.pages ∨ x.retirePending = true) ∧ (s.dies.get (s.dieOf u)).state ≠ .faulted ∧
      (∃ st, x.owner = some st ∧ (s.streams.get (s.streams.get st).target).state = .opened ∧
        x.tenant = some (s.streams.get (s.streams.get st).target).tenant) ∧
      ∃ n, x.tenant = some n ∧ s.passesFilter n = true := by
  cases ht : x.tenant with
  | none => simp [State.victimEligible, h, ht]
  | some n =>
    have hroute := s.usableRoute_isSome_iff x
    rw [ht] at hroute
    simp only [State.victimEligible, h, ht, Bool.and_eq_true, Bool.or_eq_true, decide_eq_true_eq, x.settled_iff,
      Option.isNone_iff_eq_none, s.youngOwner_eq_none, hroute, ne_eq, and_assoc, Option.some.injEq, exists_eq_left']

/-- Orders may be issued while the part is RUNNING with PLW_N deasserted (R85). -/
theorem State.mayIssue_iff (s : State) : s.mayIssue = true ↔ s.mgmt.device = .running ∧ s.inputs.plwN = .high := by
  have hlevel : s.inputs.plwN = .high ↔ s.inputs.plwN ≠ .low := by cases s.inputs.plwN <;> simp
  simp [State.mayIssue, State.isRunning, State.plwAsserted, hlevel]

/-- A candidate is still a victim when its unit is eligible and, if scored, does not score 0 (R91). -/
theorem State.stillVictim_iff (s : State) (u : Nat) (x : UnitRecord) (h : s.unit? u = some x) (a b : Nat) :
    (s.stillVictim (.retire u a) = true ↔ s.victimEligible u = true) ∧
    (s.stillVictim (.scored u a b) = true ↔ s.victimEligible u = true ∧ s.score x ≠ 0) := by
  simp [State.stillVictim, Candidate.unit, h, Nat.pos_iff_ne_zero]

/-- The better of two candidates is the new one where it comes before the old (R89). -/
theorem better_some (old new : Candidate) : better (some old) new = if new.before old = true then new else old := rfl

/-! ## The activity of a group -/

/-- The activity of an active group is kept below its high watermark, and ends at it (R84). -/
theorem State.evaluateActivity_active (s : State) (g : GroupId) (c : GroupConfig) (k : ReclaimRecord)
    (h : s.groups.get g = some ⟨c, k⟩) (ha : k.active = true) :
    (s.evaluateActivity g).groups.get g = some ⟨c,
      if s.freeCount c + s.countUnits c .erasing + s.countUnits c .reclaim < c.high then k else k.deactivate⟩ := by
  simp only [State.evaluateActivity, h, State.modReclaim_groups, Table.get_modify_self, Option.map_some, nextActivity, ha, if_true,
    decide_eq_true_eq]
  congr 2
  split
  · rw [← ha]
  · rfl

/-! ## One step of a search -/

/-- A group that may begins its search at its lowest unit, and one that runs goes on at its cursor (R90). -/
theorem exec_searchExamine (g : GroupId) (s : State) (c : GroupConfig) (k : ReclaimRecord) (h : s.groups.get g = some ⟨c, k⟩) :
    (k.active = true → k.search = .idle → k.freeSlot.isSome = true → s.mayIssue = true →
      exec (.searchExamine g) s = .next (s.modReclaim g (fun k => s.searchStep c (k.begin (c.first * s.bpd))))) ∧
    (k.search = .searching → k.chosen = none → exec (.searchExamine g) s = .next (s.modReclaim g (s.searchStep c))) := by
  have he : exec (.searchExamine g) s = execSearchExamine g s := rfl
  constructor
  · intro ha hs hf hm
    simp only [he, execSearchExamine, h, State.startsSearch, ha, hs, hf, hm, decide_true, Bool.and_self, if_true]
  · intro hs hc
    simp [he, execSearchExamine, h, State.startsSearch, hs, hc]

/-- A change of one group's record, and what it leaves of the other groups and of the rest. -/
theorem State.modReclaim_group (s : State) (g : GroupId) (f : ReclaimRecord → ReclaimRecord) (c : GroupConfig) (k : ReclaimRecord)
    (h : s.groups.get g = some ⟨c, k⟩) :
    (s.modReclaim g f).groups.get g = some ⟨c, f k⟩ ∧ (∀ j, j ≠ g → (s.modReclaim g f).groups.get j = s.groups.get j) ∧
    s.Only [.groups] (s.modReclaim g f) :=
  ⟨by simp [h], fun j hj => by simp [hj], s.modReclaim_only g f⟩

/-- The candidate after a unit is examined (R83, R86, R89): the unit is chosen among where it is eligible and is retire-pending or scores
above 0. -/
theorem State.examined_candidate (s : State) (u : Nat) (x : UnitRecord) (k : ReclaimRecord) (h : s.unit? u = some x) :
    (s.victimEligible u = false → (s.examined u k).candidate = k.candidate) ∧
    (s.victimEligible u = true → x.retirePending = true → (s.examined u k).candidate = some (better k.candidate (.retire u (s.age x)))) ∧
    (s.victimEligible u = true → x.retirePending = false → s.score x ≠ 0 →
      (s.examined u k).candidate = some (better k.candidate (.scored u (s.score x) x.eraseCount))) ∧
    (s.victimEligible u = true → x.retirePending = false → s.score x = 0 → (s.examined u k).candidate = k.candidate) := by
  refine ⟨fun he => ?_, fun he hp => ?_, fun he hp hz => ?_, fun he hp hz => ?_⟩
  · simp [State.examined, h, he]
  · simp [State.examined, h, he, State.candidateOf, hp]
  · simp [State.examined, h, he, State.candidateOf, hp, hz]
  · simp [State.examined, h, he, State.candidateOf, hp, hz]

/-- A search that examines a unit below the highest moves its cursor to the next (R90). -/
theorem State.searchStep_moves (s : State) (c : GroupConfig) (k : ReclaimRecord) (u : Nat) (hc : k.cursor = some u)
    (hu : u + 1 < (c.last + 1) * s.bpd) : s.searchStep c k = { s.examined u k with cursor := some (u + 1) } := by
  simp only [State.searchStep, hc, hu, if_true]

/-- A search that examines the highest unit ends with the record as the examination leaves it (R91). -/
theorem State.searchStep_ends (s : State) (c : GroupConfig) (k : ReclaimRecord) (u : Nat) (hc : k.cursor = some u)
    (hu : (c.last + 1) * s.bpd ≤ u + 1) : s.searchStep c k = s.searchEnded (s.examined u k) := by
  simp only [State.searchStep, hc, Nat.not_lt.mpr hu, if_false]

/-- A unit that is not eligible leaves the search as it is (R90). -/
theorem State.examined_ineligible (s : State) (u : Nat) (k : ReclaimRecord) (h : s.victimEligible u = false) : s.examined u k = k := by
  unfold State.examined
  split
  · rfl
  · simp [h]

/-- How a search ends (R84, R85, R91): its result is used where activity and issuing have held since it began. -/
theorem State.searchEnded_cases (s : State) (k : ReclaimRecord) :
    (s.mayUse k = false → s.searchEnded k = k.toIdle) ∧
    (s.mayUse k = true →
      (k.candidate = none → s.searchEnded k = if k.missedChange then k.toIdle else { k.toIdle with search := .waiting }) ∧
      ∀ v, k.candidate = some v →
        (∀ slot, s.stillVictim v = true → k.freeSlot = some slot → s.searchEnded k = { k with cursor := none, chosen := some slot }) ∧
        (s.stillVictim v = false ∨ k.freeSlot = none → s.searchEnded k = k.toIdle)) := by
  refine ⟨fun h => by simp [State.searchEnded, h], fun h => ⟨fun hc => by simp [State.searchEnded, h, hc], fun v hv => ⟨fun slot hs hf => ?_,
    ?_⟩⟩⟩
  · simp [State.searchEnded, h, hv, hs, hf]
  · rintro (hs | hf)
    · simp [State.searchEnded, h, hv, hs]
    · simp [State.searchEnded, h, hv, hf]

/-- A search that ends keeps the activity and the order slots. -/
theorem State.searchEnded_keeps (s : State) (k : ReclaimRecord) :
    (s.searchEnded k).active = k.active ∧ (s.searchEnded k).slots = k.slots := by
  unfold State.searchEnded
  split
  · split
    · split <;> exact ⟨rfl, rfl⟩
    · split <;> exact ⟨rfl, rfl⟩
  · exact ⟨rfl, rfl⟩

/-- A search below the highest unit, from the record it starts from: what it leaves of the group (R83, R86, R89, R90). -/
theorem State.searchStep_examines (s : State) (c : GroupConfig) (k : ReclaimRecord) (u : Nat) (x : UnitRecord) (h : s.unit? u = some x)
    (hc : k.cursor = some u) (hu : u + 1 < (c.last + 1) * s.bpd) :
    ∃ z v, s.searchStep c k = { k with cursor := some (u + 1), zeroScore := z, candidate := v } ∧
      z = (k.zeroScore || s.victimEligible u && decide (s.score x = 0)) ∧ v = (s.examined u k).candidate := by
  refine ⟨_, _, ?_, s.examined_zeroScore u k x h, rfl⟩
  rw [s.searchStep_moves c k u hc hu]
  conv_lhs => rw [s.examined_eq u k]

/-- What a search leaves when it ends (R91), in the terms of the record that it ends with. -/
theorem State.searchEnded_outcome (s : State) (k : ReclaimRecord) (hs : k.search = .searching) :
    ((k.active = false ∨ s.mayIssue = false ∨ k.discard = true) → (s.searchEnded k).search = .idle ∧ (s.searchEnded k).chosen = none) ∧
    (k.active = true → s.mayIssue = true → k.discard = false →
      (k.candidate = none → (s.searchEnded k).search = (if k.missedChange then .idle else .waiting) ∧ (s.searchEnded k).chosen = none) ∧
      ∀ v, k.candidate = some v →
        (∀ slot, s.stillVictim v = true → k.freeSlot = some slot →
          (s.searchEnded k).search = .searching ∧ (s.searchEnded k).candidate = some v ∧ (s.searchEnded k).chosen = some slot ∧
          (s.searchEnded k).cursor = none) ∧
        (s.stillVictim v = false → (s.searchEnded k).search = .idle ∧ (s.searchEnded k).chosen = none)) := by
  obtain ⟨discarded, used⟩ := s.searchEnded_cases k
  refine ⟨fun h => ?_, fun ha hm hd => ?_⟩
  · have hno : s.mayUse k = false := by
      rw [← Bool.not_eq_true, s.mayUse_iff]
      rcases h with h | h | h <;> simp [h]
    rw [discarded hno]; exact ⟨rfl, rfl⟩
  · obtain ⟨unmet, met⟩ := used ((s.mayUse_iff k).mpr ⟨ha, hm, hd⟩)
    refine ⟨fun hn => ?_, fun v hv => ⟨fun slot hv' hf => ?_, fun hv' => ?_⟩⟩
    · rw [unmet hn]; split <;> exact ⟨rfl, rfl⟩
    · rw [(met v hv).1 slot hv' hf]; exact ⟨hs, hv, rfl, rfl⟩
    · rw [(met v hv).2 (.inl hv')]; exact ⟨rfl, rfl⟩

/-- Settles O52: the parts of `State.victimEligible`, `better` and `State.evaluateActivity`, and one step of a search from the record it
starts from, which is `ReclaimRecord.begin` of an IDLE group's. -/
theorem searchExaminesUnit : Obligations.SearchExaminesUnit := by
  unfold Obligations.SearchExaminesUnit
  refine ⟨fun s u x h => s.victimEligible_iff u x h, fun s => ⟨s.mayIssue_iff, fun x n hn => by rw [State.age, hn]; rfl,
    fun u x h a b => s.stillVictim_iff u x h a b⟩, fun c => rfl, fun u v a b => ?_, fun u v a b f => ⟨rfl, rfl⟩, fun u v a b e f => ?_,
    fun g s c k h ha => ?_, fun g s c k u x h hx hu => ?_, fun g s c k u h hs hc hcur hu he => ?_⟩
  · rw [better_some]; simp only [Candidate.before, decide_eq_true_eq]
  · rw [better_some]; simp only [Candidate.before, decide_eq_true_eq]
  · intro sum
    have hact := s.evaluateActivity_active g c k h ha
    refine ⟨fun hsum => ?_, fun hsum => by rw [hact, if_pos hsum]⟩
    rw [hact, if_neg (Nat.not_lt.mpr hsum)]
    rfl
  · intro begins runs hfrom old
    obtain ⟨begun, goes⟩ := exec_searchExamine g s c k h
    rcases hfrom with ⟨⟨ha, hs, hf, hm⟩, hlow⟩ | ⟨hs, hc, hcur⟩
    · obtain ⟨own, others, only⟩ := s.modReclaim_group g (fun k => s.searchStep c (k.begin (c.first * s.bpd))) c k h
      obtain ⟨z, v, hstep, hz, hv⟩ := s.searchStep_examines c (k.begin (c.first * s.bpd)) u x hx (by rw [hlow]; rfl) hu.2
      have hold : old = none := by simp [old, hs]
      have hcand := s.examined_candidate u x (k.begin (c.first * s.bpd)) hx
      rw [← hv] at hcand
      refine ⟨_, _, begun ha hs hf hm, own, others, only, ?_⟩
      rw [hstep, hold]
      exact ⟨rfl, by simp [hs, ReclaimRecord.begin], rfl, rfl, rfl, rfl, by simp [hs, ReclaimRecord.begin],
        by simp [hz, hs, ReclaimRecord.begin], hcand⟩
    · obtain ⟨own, others, only⟩ := s.modReclaim_group g (s.searchStep c) c k h
      obtain ⟨z, v, hstep, hz, hv⟩ := s.searchStep_examines c k u x hx hcur hu.2
      have hold : old = k.candidate := by simp [old, hs]
      have hcand := s.examined_candidate u x k hx
      rw [← hv] at hcand
      refine ⟨_, _, goes hs hc, own, others, only, ?_⟩
      rw [hstep, hold]
      exact ⟨hs, by simp [hs], rfl, rfl, rfl, hc, by simp [hs], by simp [hz, hs], hcand⟩
  · obtain ⟨own, others, only⟩ := s.modReclaim_group g (s.searchStep c) c k h
    have hstep : s.searchStep c k = s.searchEnded k := by rw [s.searchStep_ends c k u hcur hu, s.examined_ineligible u k he]
    obtain ⟨hact, hslots⟩ := s.searchEnded_keeps k
    refine ⟨_, _, (exec_searchExamine g s c k h).2 hs hc, own, others, only, ?_⟩
    rw [hstep]
    exact ⟨hact, hslots, s.searchEnded_outcome k hs⟩

end Sys2Proof.Machine
end

section
/-!
PROOFS. Orders and their notices (R95 to R97): a unit that returns to SEALED, an order that is closed, NOTICE_WRITE and ORDER_EXPIRY.
-/

namespace Sys2Proof.Machine

/-! ## A unit that returns to SEALED -/

/-- The record of a RECLAIM unit that returns to SEALED, before the empty-unit check (R10). -/
def UnitRecord.returned (x : UnitRecord) : UnitRecord := { x with state := .sealed, orderSlot := none }

theorem UnitRecord.returned_leavesSealed (x : UnitRecord) :
    x.returned.leavesSealed = true ↔ x.valid = 0 ∧ x.settled = true ∧ x.hold = .noHold := by
  rw [UnitRecord.leavesSealed_iff]; exact ⟨fun ⟨_, h⟩ => h, fun h => ⟨rfl, h⟩⟩

theorem State.returnToSealed_change (s : State) (u : Nat) : s.UnitChange u (s.returnToSealed u) :=
  (((s.modUnit_change u _).trans (State.wakeUnit_change _ u u)).trans (State.reportCounts_change _ u u)).trans
    (State.checkEmpty_change _ u)

/-- The unit's return as far as the empty-unit check (R10). -/
def State.toSealed (s : State) (u : Nat) : State := ((s.modUnit u UnitRecord.returned).wakeUnit u).reportCounts u

theorem State.returnToSealed_eq (s : State) (u : Nat) : s.returnToSealed u = (s.toSealed u).checkEmpty u := rfl

theorem State.toSealed_only (s : State) (u : Nat) : s.Only [.units, .groups] (s.toSealed u) :=
  (((s.modUnit_only u _).mono (by decide)).andThen (State.wakeUnit_only _ u)).andThen (State.reportCounts_only _ u)

theorem State.toSealed_unit (s : State) (u : Nat) (x : UnitRecord) (h : s.unit? u = some x) :
    (s.toSealed u).unit? u = some x.returned := by
  unfold State.toSealed
  rw [(State.reportCounts_only _ _).unit?, (State.wakeUnit_only _ _).unit?, State.unit?_modUnit_self, h]; rfl

/-- A unit with valid pages, or that is held or not settled, stays SEALED as it returns (R9, R10). -/
theorem State.returnToSealed_stays (s : State) (u : Nat) (x : UnitRecord) (h : s.unit? u = some x)
    (hx : x.returned.leavesSealed = false) : s.returnToSealed u = s.toSealed u :=
  State.checkEmpty_stays _ u _ (s.toSealed_unit u x h) hx

theorem State.returnToSealed_unit (s : State) (u : Nat) (x : UnitRecord) (h : s.unit? u = some x) :
    (s.returnToSealed u).unit? u = some (x.returned.checked s.plwAsserted) := by
  rw [s.returnToSealed_eq, State.checkEmpty_unit _ u _ (s.toSealed_unit u x h), (s.toSealed_only u).plwAsserted]

/-! ## Order slots that hold an order -/

/-- A slot that holds an order takes what is written into it. -/
theorem State.order_setOrder_occupied (s : State) (r : NoticeRef) (o : Order) (v : Option Order) (h : s.order r = some o) :
    (s.setOrder r v).order r = v := by
  obtain ⟨k, hk, ho⟩ := Option.bind_eq_some_iff.mp h
  refine s.order_setOrder_self r v k hk ?_
  by_contra hlen
  rw [List.getElem?_eq_none (Nat.not_lt.mp hlen)] at ho
  cases ho

/-- A notice that is written (R95): the record is in the port's ring, and the order slot it speaks of holds what becomes of its order. -/
theorem State.posted_cases (s : State) (p : MasterId) (r : NoticeRef) (f : Ring → Ring) (o : Order) (v : Option Order)
    (h : s.order r = some o) :
    let t := (s.modRing (.master p) f).setOrder r v
    t.order r = v ∧ (∀ x, x ≠ r → t.order x = s.order x) ∧
    t.masters.get p = { s.masters.get p with ring := f (s.masters.get p).ring } ∧ s.OtherPorts p t ∧ s.Only [.groups, .masters] t := by
  intro t
  let a := s.modRing (.master p) f
  have ha : s.Only [.masters] a := s.modRingMaster_only p f
  refine ⟨a.order_setOrder_occupied r o v h, fun x hx => a.order_setOrder_ne r x v hx, ?_, fun q hq => ?_,
    (ha.mono (by decide)).andThen (a.setOrder_only r v)⟩
  · exact Table.get_modify_self _ _ _
  · exact Table.get_modify_ne _ _ _ _ hq

/-- The rings of a port with the ORDER-EXPIRED notice of an order written (R95). -/
def Ring.expired (q : Ring) (o : Order) (r : NoticeRef) (c : OrderCause) : Ring :=
  q.writeRecord .notice (noticeRecord kindOrderExpired (orderExpiredBody o r c)) []

/-- The ORDER-EXPIRED notice of a CLOSING order is written into the port's ring, and its slot is FREE (R95). -/
theorem State.writeNotice_closing (s : State) (p : MasterId) (r : NoticeRef) (o : Order) (c : OrderCause)
    (h : s.order r = some { o with phase := .closing c }) :
    s.writeNotice p r = (s.modRing (.master p) (fun q => q.expired o r c)).setOrder r none := by
  simp only [State.writeNotice, h]; rfl

/-! ## NOTICE-WRITE -/

/-- Settles O21: the oldest notice leaves the waiting notices of its port, and `State.posted_cases` says what writing it does. -/
theorem noticeWriteSendsOldest : Obligations.NoticeWriteSendsOldest := by
  unfold Obligations.NoticeWriteSendsOldest
  intro p s r rest o hn hplace ho hphase
  let a := s.modNotices p (fun _ => rest)
  have sa : s.Only [.reclaim] a := s.modNotices_only p _
  have he : exec (.noticeWrite p) s = .next (a.writeNotice p r) := by
    show Host.Outcome.next (s.writeOldest p) = _
    simp only [State.writeOldest, hn, hplace, if_true]; rfl
  have hreclaim : a.reclaim = { s.reclaim with notices := s.reclaim.notices.set p rest } := rfl
  cases hc : o.phase with
  | issued n => exact absurd hc (hphase n)
  | pending =>
    obtain ⟨own, others, written, ports, only⟩ := a.posted_cases p r (fun q => q.writeRecord .notice (noticeRecord kindRelocateOrder
      (relocateOrderBody o r (((a.unit? o.unit).map (·.valid)).getD 0))) []) o (some { o with phase := .issued a.orderTicks }) ho
    rw [← a.writeNotice_pending p r o ho hc] at own others written ports only
    exact ⟨_, he, (only .reclaim (by decide)).trans hreclaim, others, ports, fun _ => ⟨own, written⟩, by simp,
      (sa.mono (by decide)).andThen only⟩
  | closing c =>
    have hself : o = { o with phase := .closing c } := by rw [← hc]
    obtain ⟨own, others, written, ports, only⟩ := a.posted_cases p r (fun q => q.expired o r c) o none ho
    rw [← a.writeNotice_closing p r o c (hself ▸ ho)] at own others written ports only
    refine ⟨_, he, (only .reclaim (by decide)).trans hreclaim, others, ports, by simp, fun d hd => ?_,
      (sa.mono (by decide)).andThen only⟩
    cases hd
    exact ⟨own, written⟩

/-! ## An order that is closed -/

/-- An order that has ended, before its ORDER-EXPIRED notice is offered (R96, R97, R103). -/
def State.closed (s : State) (r : NoticeRef) (o : Order) (cause : OrderCause) : State :=
  ((s.returnToSealed o.unit).setOrder r (some { o with phase := .closing cause })).addExpiry o

theorem State.closeOrder_eq (s : State) (r : NoticeRef) (o : Order) (cause : OrderCause) :
    s.closeOrder r o cause = (s.closed r o cause).offerNotice o.port r := rfl

/-- What closing an order does before its notice is offered. -/
theorem State.closed_cases (s : State) (r : NoticeRef) (o : Order) (cause : OrderCause) (h : s.order r = some o) :
    let t := s.closed r o cause
    (∀ v, t.unit? v = (s.returnToSealed o.unit).unit? v) ∧
    t.order r = some { o with phase := .closing cause } ∧ (∀ x, x ≠ r → t.order x = s.order x) ∧
    t.reclaim = { s.reclaim with
      expiry := s.reclaim.expiry.set o.port (((o.unit, o.number) :: s.reclaim.expiry.get o.port).take 8) } ∧
    (s.returnToSealed o.unit).Only [.groups, .reclaim] t := by
  intro t
  let a := s.returnToSealed o.unit
  let b := a.setOrder r (some { o with phase := .closing cause })
  have change : s.UnitChange o.unit a := s.returnToSealed_change o.unit
  have ao : a.order r = some o := (change.order r).trans h
  have only : a.Only [.groups, .reclaim] t := ((a.setOrder_only r _).mono (by decide)).andThen (b.addExpiry_only o)
  refine ⟨only.unit?, a.order_setOrder_occupied r o _ ao, fun x hx => (a.order_setOrder_ne r x _ hx).trans (change.order x), ?_, only⟩
  have hr : a.reclaim = s.reclaim := change.only .reclaim (by decide)
  show { a.reclaim with
    expiry := a.reclaim.expiry.set o.port (((o.unit, o.number) :: a.reclaim.expiry.get o.port).take 8) } = _
  rw [hr]

/-! ## ORDER-EXPIRY -/

/-- Settles O15: the order is closed as `State.closed` says, and its notice is offered to a port where it waits alone or has no place. -/
theorem orderExpiryCloses : Obligations.OrderExpiryCloses := by
  unfold Obligations.OrderExpiryCloses
  intro g k s o x ho hphase hx hv waiting hwait
  have he : exec (.orderExpiry g k) s = .next (s.closeOrder ⟨g, k⟩ o .timer) := by
    show execOrderExpiry g k s = _
    simp only [execOrderExpiry, ho, hphase, if_true]
  obtain ⟨cu, corder, corders, creclaim, conly⟩ := s.closed_cases ⟨g, k⟩ o .timer ho
  have hstays : x.returned.leavesSealed = false := by
    rw [← Bool.not_eq_true, x.returned_leavesSealed]; exact fun h => hv h.1
  have ronly : s.Only [.units, .groups] (s.returnToSealed o.unit) := by
    rw [s.returnToSealed_stays o.unit x hx hstays]; exact s.toSealed_only o.unit
  have hunit : (s.closed ⟨g, k⟩ o .timer).unit? o.unit = some { x with state := .sealed, orderSlot := none } := by
    rw [cu, s.returnToSealed_unit o.unit x hx, UnitRecord.checked, hstays]; rfl
  have hothers : s.OtherUnits o.unit (s.closed ⟨g, k⟩ o .timer) := fun v hne =>
    (cu v).trans ((s.returnToSealed_change o.unit).others v hne)
  have sonly : s.Only [.units, .groups, .reclaim] (s.closed ⟨g, k⟩ o .timer) := (ronly.mono (by decide)).andThen conly
  rw [s.closeOrder_eq] at he
  generalize s.closed ⟨g, k⟩ o .timer = c at corder corders creclaim hunit hothers sonly he
  have cmasters : c.masters = s.masters := sonly .masters (by decide)
  have cplace : c.noticePlace o.port = s.noticePlace o.port := by simp only [State.noticePlace, cmasters]
  refine ⟨_, he, ?_⟩
  cases hplace : s.noticePlace o.port with
  | false =>
    rw [c.offerNotice_waits o.port ⟨g, k⟩ (cplace.trans hplace)]
    have hw := c.modNotices_only o.port (· ++ [(⟨g, k⟩ : NoticeRef)])
    refine ⟨(hw.unit? _).trans hunit, fun v hne => (hw.unit? v).trans (hothers v hne), ?_, corders, fun _ => ⟨corder, cmasters⟩, by simp,
      (sonly.mono (by decide)).andThen hw⟩
    show { c.reclaim with notices := c.reclaim.notices.modify o.port (· ++ [(⟨g, k⟩ : NoticeRef)]) } = _
    rw [creclaim]; rfl
  | true =>
    have hnone : waiting = [] := hwait.resolve_right (by simp [hplace])
    obtain ⟨own, others, written, ports, only⟩ := c.posted_cases o.port ⟨g, k⟩ (fun q => q.expired o ⟨g, k⟩ .timer) _ none corder
    rw [c.offerNotice_written o.port ⟨g, k⟩ (cplace.trans hplace) (by rw [creclaim]; exact hnone),
      c.writeNotice_closing o.port ⟨g, k⟩ o .timer corder]
    refine ⟨(only.unit? _).trans hunit, fun v hne => (only.unit? v).trans (hothers v hne), ?_,
      fun r hr => (others r hr).trans (corders r hr), by simp, fun _ => ⟨own, fun q hq => (ports q hq).trans (by rw [cmasters]), ?_⟩,
      (sonly.mono (by decide)).andThen only⟩
    · rw [only .reclaim (by decide), creclaim, if_pos rfl, Table.set_get _ _ _ hnone]
    · rw [written, cmasters]; rfl

end Sys2Proof.Machine
end

section
/-!
PROOFS. INVALIDATE (R99, R100): one pair, the pairs of a request one after another, and the empty unit that leaves SEALED (R9).
-/

namespace Sys2Proof.Machine

/-! ## One pair -/

/-- The states in which a pair lowers the valid count (R99). -/
theorem UnitState.counted_iff (st : UnitState) : st.counted = true ↔ st = .opened ∨ st = .sealed ∨ st = .reclaim := by
  cases st <;> simp [UnitState.counted]

/-- The record with its valid count lowered, before the empty-unit check (R7, R99). -/
def UnitRecord.lowered (x : UnitRecord) (n : Nat) : UnitRecord := { x with valid := x.valid - n }

/-- A unit that is not SEALED, keeps a valid page, is not settled or is held does not leave SEALED (R9). -/
theorem UnitRecord.lowered_leavesSealed (x : UnitRecord) (n : Nat) : (x.lowered n).leavesSealed = true ↔
    ¬ (x.state ≠ .sealed ∨ n < x.valid ∨ x.settled = false ∨ x.hold ≠ .noHold) := by
  rw [UnitRecord.leavesSealed_iff]
  have hsettled : (x.lowered n).settled = x.settled := rfl
  simp only [UnitRecord.lowered, not_or, not_not, Nat.sub_eq_zero_iff_le, Nat.not_lt, Bool.not_eq_false]
  rw [← hsettled]; rfl

/-- What one pair makes of its unit's record (R99). -/
def UnitRecord.invalidated (x : UnitRecord) (n : Nat) (plw : Bool) : UnitRecord :=
  if x.state.counted then (x.lowered n).checked plw else x

theorem UnitRecord.invalidated_stays (x : UnitRecord) (n : Nat) (plw : Bool) (hc : x.state.counted = true)
    (h : x.state ≠ .sealed ∨ n < x.valid ∨ x.settled = false ∨ x.hold ≠ .noHold) :
    x.invalidated n plw = { x with valid := x.valid - n } := by
  rw [UnitRecord.invalidated, if_pos hc, UnitRecord.checked, if_neg (fun hl => (x.lowered_leavesSealed n).mp hl h)]; rfl

theorem State.invalidateUnit_change (s : State) (u n : Nat) (x : UnitRecord) : s.UnitChange u (s.invalidateUnit u n x) := by
  unfold State.invalidateUnit; dsimp only
  have lower : s.UnitChange u (s.lowerValid u n) := s.modUnit_change u _
  split
  · refine .trans ?_ (State.checkEmpty_change _ u)
    split
    · exact lower.trans (State.wakeUnit_change _ u u)
    · exact lower
  · exact lower

theorem State.invalidateUnit_unit (s : State) (u n : Nat) (x : UnitRecord) (h : s.unit? u = some x) :
    (s.invalidateUnit u n x).unit? u = some ((x.lowered n).checked s.plwAsserted) := by
  have lower : (s.lowerValid u n).unit? u = some (x.lowered n) := by rw [State.lowerValid, State.unit?_modUnit_self, h]; rfl
  unfold State.invalidateUnit; dsimp only
  split
  · split
    · have hw := (s.lowerValid u n).wakeUnit_only u
      rw [State.checkEmpty_unit _ u _ ((hw.unit? u).trans lower), hw.plwAsserted]; rfl
    · rw [State.checkEmpty_unit _ u _ lower]; rfl
  · next hs => rw [lower, UnitRecord.checked, if_neg (fun hl => (x.lowered_leavesSealed n).mp hl (.inl hs))]

theorem State.invalidatePair_change (s : State) (u n : Nat) : s.UnitChange u (s.invalidatePair u n).1 := by
  unfold State.invalidatePair
  split
  · exact .refl s u
  · split
    · exact s.invalidateUnit_change u n _
    · exact .refl s u

/-- A pair that names no unit, or one in no counted state, changes nothing (R99, R100). -/
theorem State.invalidatePair_idle (s : State) (u n : Nat) :
    (s.unit? u = none → s.invalidatePair u n = (s, ⟨.badRequest, 0⟩)) ∧
    ∀ x, s.unit? u = some x → x.state.counted = false → s.invalidatePair u n = (s, ⟨.stale, 0⟩) :=
  ⟨fun h => by simp only [State.invalidatePair, h],
    fun x h hc => by simp only [State.invalidatePair, h, hc, Bool.false_eq_true, if_false]⟩

/-- A pair of a unit in a counted state lowers its valid count, and answers what is left or was missing (R99, R100). -/
theorem State.invalidatePair_counted (s : State) (u n : Nat) (x : UnitRecord) (h : s.unit? u = some x) (hc : x.state.counted = true) :
    s.invalidatePair u n =
      (s.invalidateUnit u n x, if n ≤ x.valid then ⟨.ok, x.valid - n⟩ else ⟨.countSkew, n - x.valid⟩) := by
  simp only [State.invalidatePair, h, hc, if_true]

theorem State.invalidatePair_unit (s : State) (u n : Nat) :
    (s.invalidatePair u n).1.unit? u = (s.unit? u).map (fun x => x.invalidated n s.plwAsserted) := by
  obtain ⟨absent, uncounted⟩ := s.invalidatePair_idle u n
  cases hx : s.unit? u with
  | none => rw [absent hx]; exact hx
  | some x =>
    cases hc : x.state.counted with
    | false => rw [uncounted x hx hc]; simp [hx, UnitRecord.invalidated, hc]
    | true =>
      rw [s.invalidatePair_counted u n x hx hc]
      exact (s.invalidateUnit_unit u n x hx).trans (by simp [UnitRecord.invalidated, hc])

/-- The answer to a pair depends on its unit's record alone. -/
theorem State.invalidatePair_outcome_congr (s t : State) (u n : Nat) (h : t.unit? u = s.unit? u) :
    (t.invalidatePair u n).2 = (s.invalidatePair u n).2 := by
  simp only [State.invalidatePair, h]
  split
  · rfl
  · split <;> rfl

/-! ## The pairs of a request -/

/-- Pairs of several units are each answered and applied as if they stood alone (R99). -/
theorem State.invalidatePairs_cases (l : List (Nat × Nat)) (s : State) (hl : (l.map (·.1)).Nodup) :
    (s.invalidatePairs l).2 = l.map (fun v => (s.invalidatePair v.1 v.2).2) ∧
    (∀ v ∈ l, (s.invalidatePairs l).1.unit? v.1 = (s.unit? v.1).map (fun x => x.invalidated v.2 s.plwAsserted)) ∧
    (∀ u, (∀ v ∈ l, v.1 ≠ u) → (s.invalidatePairs l).1.unit? u = s.unit? u) ∧
    s.Only [.units, .streams, .groups, .dies] (s.invalidatePairs l).1 := by
  induction l generalizing s with
  | nil => exact ⟨rfl, by simp, fun _ _ => rfl, .refl s _⟩
  | cons a l ih =>
    obtain ⟨u, n⟩ := a
    obtain ⟨hnew, hl⟩ := List.nodup_cons.mp hl
    let t := (s.invalidatePair u n).1
    have change : s.UnitChange u t := s.invalidatePair_change u n
    obtain ⟨outcomes, named, unnamed, only⟩ := ih t hl
    have hne : ∀ v ∈ l, v.1 ≠ u := fun v hv e => hnew (List.mem_map.mpr ⟨v, hv, e⟩)
    have others : ∀ v ∈ l, t.unit? v.1 = s.unit? v.1 := fun v hv => change.others v.1 (hne v hv)
    refine ⟨?_, fun v hv => ?_, fun w hw => ?_, change.only.andThen only⟩
    · show (s.invalidatePair u n).2 :: (t.invalidatePairs l).2 = _
      rw [outcomes, List.map_cons]
      congr 1
      exact List.map_congr_left (fun v hv => s.invalidatePair_outcome_congr t v.1 v.2 (others v hv))
    · show (t.invalidatePairs l).1.unit? v.1 = _
      rcases List.mem_cons.mp hv with rfl | hv
      · rw [unnamed u hne]; exact s.invalidatePair_unit u n
      · rw [named v hv, others v hv, change.only.plwAsserted]
    · show (t.invalidatePairs l).1.unit? w = _
      rw [unnamed w (fun v hv => hw v (.tail _ hv)), change.others w (Ne.symm (hw (u, n) (.head _)))]

/-- INVALIDATE with no pair or more than 6 is refused (R99). -/
theorem invalidateRequest_refused (r : Request) (s : State) (h : r.count = 0 ∨ 6 < r.count) :
    invalidateRequest r s = r.answer s .badRequest := by
  rw [invalidateRequest, if_pos h]

/-- INVALIDATE with 1 to 6 pairs answers them all (R99). -/
theorem invalidateRequest_pairs (r : Request) (s : State) (h : 1 ≤ r.count) (h6 : r.count ≤ 6) :
    invalidateRequest r s = r.answer (s.invalidatePairs r.pairs).1 (pairsStatus (s.invalidatePairs r.pairs).2)
      (pairsBody (s.invalidatePairs r.pairs).2) := by
  rw [invalidateRequest, if_neg (by omega)]

/-- A request of one pair. -/
theorem Request.pairs_one (r : Request) (h : r.count = 1) : r.pairs = [(r.half 8, r.half 10)] := by
  rw [Request.pairs, h]; rfl

/-- The answer to a request of one pair, whose status and residual are the pair's (R100). -/
theorem invalidateRequest_one (r : Request) (s : State) (h : r.count = 1) (t : State) (status : Status)
    (residual : Nat) (ho : s.invalidatePair (r.half 8) (r.half 10) = (t, ⟨status, residual⟩)) :
    invalidateRequest r s = r.answer t status (leBytes 1 status.code ++ leBytes 2 residual) := by
  have hpairs : s.invalidatePairs r.pairs = (t, [⟨status, residual⟩]) := by simp only [r.pairs_one h, State.invalidatePairs, ho]
  have hstatus : pairsStatus [⟨status, residual⟩] = status := by
    by_cases hs : status = .ok <;> simp [pairsStatus, hs]
  rw [invalidateRequest_pairs r s (by omega) (by omega), hpairs]
  simp only [hstatus, pairsBody, List.flatMap_cons, List.flatMap_nil, List.append_nil]

/-- The status and body of a reply, from the answers to its pairs given as statuses with residuals (R100, R189). -/
theorem pairs_answer {α : Type} (l : List α) (f : α → PairOutcome) (g : α → Status × Nat)
    (h : ∀ v, g v = ((f v).status, (f v).residual)) :
    pairsStatus (l.map f) = (((l.map g).map (·.1)).find? (fun o => decide (o ≠ .ok))).getD .ok ∧
    pairsBody (l.map f) = (l.map g).flatMap (fun o => leBytes 1 o.1.code ++ leBytes 2 o.2) := by
  obtain rfl : g = fun v => ((f v).status, (f v).residual) := funext h
  constructor
  · simp only [pairsStatus, List.map_map, List.find?_map, Option.map_map, Function.comp_def]
  · simp only [pairsBody, List.flatMap_map]

/-! ## INVALIDATE -/

/-- A master's INVALIDATE acts as `invalidateRequest`. -/
theorem exec_invalidate (p : MasterId) (s : State) (h : s.Ready (.master p) kindInvalidate) :
    exec (.invalidate p) s = .next (invalidateRequest (s.headRequest (.master p)) (s.taken (.master p))) :=
  exec_of_kind s (.master p) kindInvalidate invalidateRequest _ rfl h

/-- The state that INVALIDATE of one pair of a unit in a counted state answers from (R99). -/
theorem exec_invalidate_counted (p : MasterId) (s : State) (x : UnitRecord) (h : s.Ready (.master p) kindInvalidate)
    (h1 : (s.headRequest (.master p)).count = 1) (hx : s.unit? ((s.headRequest (.master p)).half 8) = some x)
    (hc : x.state.counted = true) :
    let q := s.headRequest (.master p)
    let status : Status := if q.half 10 ≤ x.valid then .ok else .countSkew
    ∃ t, exec (.invalidate p) s = .next t ∧
      s.Answered (.master p) status (leBytes 1 status.code ++ leBytes 2
        (if q.half 10 ≤ x.valid then x.valid - q.half 10 else q.half 10 - x.valid)) [] t ∧
      t.unit? (q.half 8) = some ((x.lowered (q.half 10)).checked s.plwAsserted) ∧ s.OtherUnits (q.half 8) t ∧
      s.Only [.units, .streams, .groups, .dies, .masters] t := by
  intro q status
  let a := s.taken (.master p)
  have ao : s.Only [.masters] a := s.taken_only_master p
  have ax : a.unit? (q.half 8) = some x := (ao.unit? _).trans hx
  let b := a.invalidateUnit (q.half 8) (q.half 10) x
  have change : a.UnitChange (q.half 8) b := a.invalidateUnit_change _ _ x
  have hpair : a.invalidatePair (q.half 8) (q.half 10) =
      (b, ⟨status, if q.half 10 ≤ x.valid then x.valid - q.half 10 else q.half 10 - x.valid⟩) := by
    rw [a.invalidatePair_counted _ _ x ax hc]
    simp only [status]; split <;> rfl
  have he := exec_invalidate p s h
  rw [invalidateRequest_one q a h1 b _ _ hpair] at he
  refine ⟨_, he, s.answered b (.master p) (change.only .masters (by decide)) (change.only .mport (by decide)) _ _ [], ?_, fun w hw => ?_, ?_⟩
  · rw [Request.answer_unit?, a.invalidateUnit_unit _ _ x ax, ao.plwAsserted]
  · rw [Request.answer_unit?, change.others w hw, ao.unit?]
  · exact ((ao.mono (by decide)).andThen change.only (gs := [.units, .streams, .groups, .dies, .masters])).andThen
      (q.answer_only_master p rfl b _ _ [])

/-- What the record of a unit that INVALIDATE has emptied keeps and loses (R9, R12, R128). -/
theorem UnitRecord.leftForErase_emptied (r : UnitRecord) (plw : Bool) :
    (r.leftForErase plw).tenant = none ∧ (r.leftForErase plw).owner = none ∧ (r.leftForErase plw).sealEpoch = none ∧
    (r.leftForErase plw).hold = .noHold ∧ (r.leftForErase plw).valid = 0 ∧ (r.leftForErase plw).writePointer = r.writePointer ∧
    (r.leftForErase plw).programmed = r.programmed ∧ (r.leftForErase plw).eraseCount = r.eraseCount ∧
    (r.leftForErase plw).suspendCount = if r.retirePending || plw then none else some 0 := by
  unfold leftForErase
  cases r.retirePending with
  | true => exact ⟨rfl, rfl, rfl, rfl, rfl, rfl, rfl, rfl, rfl⟩
  | false => cases plw <;> exact ⟨rfl, rfl, rfl, rfl, rfl, rfl, rfl, rfl, rfl⟩

/-- Settles O32: one pair acts as `State.invalidatePair`, several as `State.invalidatePairs_cases` says, and a unit that is emptied leaves
SEALED as `UnitRecord.leftForErase` does. -/
theorem invalidateLowersValid : Obligations.InvalidateLowersValid := by
  unfold Obligations.InvalidateLowersValid
  refine ⟨fun p s hr => ?_, fun p s hr => ?_, fun p s x hr => ?_⟩
  · intro q u n body
    have he := exec_invalidate p s hr
    have au : (s.taken (.master p)).unit? u = s.unit? u := s.taken_unit? _ u
    obtain ⟨absent, uncounted⟩ := (s.taken (.master p)).invalidatePair_idle u n
    refine ⟨fun hbad => ?_, fun h1 => ⟨fun hn => ?_, fun x hx => ⟨fun hs => ?_, fun hs => ?_⟩⟩⟩
    · exact onlyAnswered_of_exec (he.trans (congrArg _ (invalidateRequest_refused q _ hbad)))
    · have hone := invalidateRequest_one q _ h1 _ .badRequest 0 (absent (au.trans hn))
      rw [hone] at he
      exact onlyAnswered_of_exec he
    · have hc : x.state.counted = false := by rcases hs with h | h | h | h <;> rw [h] <;> rfl
      have hone := invalidateRequest_one q _ h1 _ .stale 0 (uncounted x (au.trans hx) hc)
      rw [hone] at he
      exact onlyAnswered_of_exec he
    · intro status
      obtain ⟨t, ht, answered, unit, others, only⟩ := exec_invalidate_counted p s x hr h1 hx (x.state.counted_iff.mpr hs)
      refine ⟨t, ht, answered, others, fun hstay => ?_, only⟩
      rw [unit, UnitRecord.checked, if_neg (fun hl => (x.lowered_leavesSealed n).mp hl hstay)]; rfl
  · intro q pairs counted outcome hlow hhigh hnodup
    let a := s.taken (.master p)
    have ao : s.Only [.masters] a := s.taken_only_master p
    obtain ⟨outcomes, named, unnamed, only⟩ := a.invalidatePairs_cases pairs hnodup
    have hout : ∀ v, outcome v = ((a.invalidatePair v.1 v.2).2.status, (a.invalidatePair v.1 v.2).2.residual) := fun v => by
      obtain ⟨absent, uncounted⟩ := a.invalidatePair_idle v.1 v.2
      have hv : a.unit? v.1 = s.unit? v.1 := ao.unit? v.1
      cases hx : s.unit? v.1 with
      | none => rw [absent (hv.trans hx)]; simp only [outcome, hx]
      | some x =>
        by_cases hc : x.state = .opened ∨ x.state = .sealed ∨ x.state = .reclaim
        · rw [a.invalidatePair_counted v.1 v.2 x (hv.trans hx) (x.state.counted_iff.mpr hc)]
          simp only [outcome, hx, if_pos hc]
          split <;> rfl
        · rw [uncounted x (hv.trans hx) (by rw [← Bool.not_eq_true, x.state.counted_iff]; exact hc)]
          simp only [outcome, hx, if_neg hc]
    obtain ⟨hstatus, hbody⟩ := pairs_answer pairs _ outcome hout
    rw [← outcomes] at hstatus hbody
    have he := (exec_invalidate p s hr).trans (congrArg _ (invalidateRequest_pairs q a hlow hhigh))
    rw [show q.pairs = pairs from rfl, hstatus, hbody] at he
    refine ⟨_, he, s.answered _ (.master p) (only .masters (by decide)) (only .mport (by decide)) _ _ [], fun v hv x hx hc hstay => ?_,
      fun u hu => ?_, ?_⟩
    · rw [Request.answer_unit?, named v hv, ao.unit?, hx, Option.map_some, x.invalidated_stays v.2 _ (x.state.counted_iff.mpr hc) hstay]
    · rw [Request.answer_unit?, unnamed u hu, ao.unit?]
    · exact ((ao.mono (by decide)).andThen only (gs := [.units, .streams, .groups, .dies, .masters])).andThen
        (q.answer_only_master p rfl _ _ _ [])
  · intro q u h1 hx hs hset hh hv
    obtain ⟨t, ht, -, unit, others, only⟩ := exec_invalidate_counted p s x hr h1 hx (x.state.counted_iff.mpr (.inr (.inl hs)))
    have hleaves : (x.lowered (q.half 10)).leavesSealed = true :=
      (x.lowered_leavesSealed _).mpr (by simp [hs, hset, hh, hv])
    rw [UnitRecord.checked, if_pos hleaves] at unit
    obtain ⟨htenant, howner, hseal, hhold, hvalid, hwrite, hprog, hcount, hsuspend⟩ :=
      (x.lowered (q.half 10)).leftForErase_emptied s.plwAsserted
    exact ⟨t, _, ht, unit, UnitRecord.leftForErase_state _ _, htenant, howner, hseal, hhold, hvalid, hwrite, hprog, hcount, hsuspend, others,
      only⟩

end Sys2Proof.Machine
end

section
/-!
PROOFS. RUN (R167) and CLEAR_DIE_FAULT (R133): background queues that are filled (R113), SUSPENDED dies that leave the queues alone, and
the examination of waiting work (R55).
-/

namespace Sys2Proof.Machine

/-! ## Queues that are filled -/

/-- A die's queue is filled as far as it can be: no unit waits, or its four places are taken (R113). -/
def DieRecord.filled (r : DieRecord) : Prop := r.waiting = [] ∨ 4 ≤ r.queue.length

theorem State.fillOne_others (s : State) (d : DieId) : s.OtherDies d (s.fillOne d) := fun x hx => by
  unfold State.fillOne; dsimp only; split
  · split
    · rfl
    · exact Table.get_modify_ne _ _ _ _ hx
  · rfl

theorem State.fillQueue_others (s : State) (d : DieId) : s.OtherDies d (s.fillQueue d) := fun x hx => by
  simp only [State.fillQueue, State.fillOne_others _ d x hx]

/-- A queue stays open or closed while background queues are filled. -/
theorem State.UnitChange.queueOpen {s t : State} {u : Nat} (h : s.UnitChange u t) (d : DieId) : t.queueOpen d = s.queueOpen d := by
  have hstate : (t.dies.get d).state = (s.dies.get d).state := by rw [h.dies d]
  simp only [State.queueOpen, State.isRunning, State.plwAsserted, hstate, show t.mgmt = s.mgmt from h.only .mgmt (by decide),
    show t.inputs = s.inputs from h.only .inputs (by decide)]

/-- Each filling of an open queue takes one waiting unit more, while one waits and fewer than four places are taken (R113). -/
theorem State.fillOne_takes (s : State) (d : DieId) (n : Nat) (ho : s.queueOpen d = true) (hn : n < 4)
    (h : (s.dies.get d).waiting = [] ∨ n ≤ (s.dies.get d).queue.length) :
    ((s.fillOne d).dies.get d).waiting = [] ∨ n + 1 ≤ ((s.fillOne d).dies.get d).queue.length := by
  by_cases hl : (s.dies.get d).queue.length < 4
  · cases hw : (s.dies.get d).waiting with
    | nil => left; simp [State.fillOne, hw]
    | cons u rest =>
      right
      have hlen : n ≤ (s.dies.get d).queue.length := h.resolve_left (by simp [hw])
      simpa [State.fillOne, ho, Config.backgroundLimit, hl, hw] using hlen
  · right
    have hs : s.fillOne d = s := by simp [State.fillOne, Config.backgroundLimit, hl]
    rw [hs]; omega

/-- An open queue is filled (R113). -/
theorem State.fillQueue_filled (s : State) (d : DieId) (ho : s.queueOpen d = true) : ((s.fillQueue d).dies.get d).filled := by
  have opened : ∀ t : State, t.queueOpen d = true → (t.fillOne d).queueOpen d = true := fun t ht =>
    ((t.fillOne_change 0 d).queueOpen d).trans ht
  have o1 := opened _ ho
  have o2 := opened _ o1
  exact State.fillOne_takes _ d 3 (opened _ o2) (by decide) (State.fillOne_takes _ d 2 o2 (by decide)
    (State.fillOne_takes _ d 1 o1 (by decide) (State.fillOne_takes s d 0 ho (by decide) (.inr (Nat.zero_le _)))))

/-- The queues of several dies are filled where they are open, and the other dies are left alone (R113). -/
theorem State.fillQueue_fold (l : List DieId) (s : State) (hl : l.Nodup) :
    (∀ d ∈ l, s.queueOpen d = true → ((l.foldl State.fillQueue s).dies.get d).filled) ∧
    ∀ d, d ∉ l → (l.foldl State.fillQueue s).dies.get d = s.dies.get d := by
  induction l generalizing s with
  | nil => exact ⟨by simp, fun _ _ => rfl⟩
  | cons e l ih =>
    obtain ⟨hnew, hl⟩ := List.nodup_cons.mp hl
    obtain ⟨filled, others⟩ := ih (s.fillQueue e) hl
    refine ⟨fun d hd ho => ?_, fun d hd => ?_⟩
    · rcases List.mem_cons.mp hd with rfl | hd
      · rw [List.foldl_cons, others d hnew]; exact s.fillQueue_filled d ho
      · exact filled d hd (((s.fillQueue_change 0 e).queueOpen d).trans ho)
    · simp only [List.mem_cons, not_or] at hd
      obtain ⟨hne, hd⟩ := hd
      rw [List.foldl_cons, others d hd, s.fillQueue_others e d hne]

theorem State.fillQueues_filled (s : State) (d : DieId) (ho : s.queueOpen d = true) : (s.fillQueues.dies.get d).filled :=
  (State.fillQueue_fold _ s (List.nodup_finRange 32)).1 d (List.mem_finRange d) ho

/-! ## Dies that serve leave the queues alone -/

/-- The queues and waiting units of every die are as before. -/
def State.QueuesKept (s t : State) : Prop :=
  ∀ d, (t.dies.get d).queue = (s.dies.get d).queue ∧ (t.dies.get d).waiting = (s.dies.get d).waiting

theorem State.QueuesKept.trans {s t u : State} (h : s.QueuesKept t) (k : t.QueuesKept u) : s.QueuesKept u := fun d =>
  ⟨(k d).1.trans (h d).1, (k d).2.trans (h d).2⟩

theorem State.QueuesKept.of_dies {s t : State} (h : t.dies = s.dies) : s.QueuesKept t := fun d => by rw [h]; exact ⟨rfl, rfl⟩

theorem State.QueuesKept.filled {s t : State} (h : s.QueuesKept t) (d : DieId) (hs : (s.dies.get d).filled) : (t.dies.get d).filled := by
  rw [DieRecord.filled, (h d).1, (h d).2]; exact hs

theorem State.modDie_queuesKept (s : State) (d : DieId) (f : DieRecord → DieRecord)
    (hf : ∀ r, (f r).queue = r.queue ∧ (f r).waiting = r.waiting) : s.QueuesKept (s.modDie d f) := fun x => by
  by_cases hx : x = d
  · subst hx; simp [hf]
  · simp [hx]

theorem State.issueSuspended_queuesKept (s : State) (d : DieId) (l : Level) (k : PageKey) :
    s.QueuesKept (s.issueSuspended d l k) := by
  unfold State.issueSuspended State.issuePage
  refine .trans (.trans (s.modDie_queuesKept d _ ?_) (.of_dies (State.handOver_dies _ _ _ _ _))) (State.modDie_queuesKept _ d _ ?_)
  · exact fun _ => ⟨rfl, rfl⟩
  · exact fun _ => ⟨rfl, rfl⟩

theorem State.resumeErase_queuesKept (s : State) (d : DieId) (u : Nat) : s.QueuesKept (s.resumeErase d u) := by
  unfold State.resumeErase
  refine .trans (s.modDie_queuesKept d _ ?_) (.of_dies (State.handOver_dies _ _ _ _ _))
  exact fun _ => ⟨rfl, rfl⟩

theorem State.serveDie_queuesKept (s : State) (d : DieId) (o : Bool) : s.QueuesKept (s.serveDie d o) := by
  have same : s.QueuesKept s := .of_dies rfl
  have waits : s.QueuesKept (s.joinWaiting d) := .of_dies (s.joinWaiting_dies d)
  unfold State.serveDie; dsimp only
  split
  · split
    · split
      · exact same
      · split
        · exact s.issueSuspended_queuesKept d _ _
        · exact waits
    · split
      · split
        · exact same
        · split
          · exact s.resumeErase_queuesKept d _
          · exact waits
      · exact same
  · exact same

theorem State.serveSuspended_queuesKept (s : State) : s.QueuesKept s.serveSuspended := by
  unfold State.serveSuspended
  generalize s.dies.indices _ = l
  induction l generalizing s with
  | nil => exact .of_dies rfl
  | cons d l ih => exact (s.serveDie_queuesKept d false).trans (ih _)

/-- Where no page waits for a place, an examination finds nothing (R55). -/
theorem State.examineWork_noWork (s : State) (p : StreamId → Bool) (h : s.NoWork) : s.examineWork p = s :=
  s.examineWork_none p (by rw [h.1]; simp) (fun e he hr => absurd hr (h.2 e he))

/-- What waits for a place is in the waiting lists and the credit wait list. -/
theorem State.NoWork.congr {s t : State} (h : s.NoWork) (hw : t.waiters = s.waiters) (hc : t.credit = s.credit) : t.NoWork := by
  rw [State.NoWork, hw, hc]; exact h

/-! ## RUN -/

/-- The part may run when some group is configured and every configured die lies in one (R167). -/
theorem State.allDiesGrouped_iff (s : State) : s.allDiesGrouped = true ↔
    (∃ g, (s.groups.get g).isSome = true) ∧ ∀ d, d < s.dieCount → (s.groupOfDie d).isSome = true := by
  simp [State.allDiesGrouped, Table.mem_items]

theorem State.issueAgain_search (s : State) (hm : s.mayIssue = true) (g : GroupId) (k : ReclaimRecord)
    (h : s.issueAgain.reclaimOf g = some k) : k.search ≠ .waiting := by
  simp only [State.issueAgain, hm, if_true, State.reclaimOf, Table.get_map, Option.map_map] at h
  obtain ⟨r, -, rfl⟩ := Option.map_eq_some_iff.mp h
  by_cases hw : r.reclaim.search = .waiting
  · simp [hw]
  · simp [hw]

/-- The part as it runs, before waiting work is examined (R113, R167). -/
def State.running (s : State) : State := ((s.setDevice .running).fillQueues).issueAgain

theorem State.startRunning_eq (s : State) : s.startRunning = (s.running.examineWork (fun _ => true)).serveSuspended := rfl

/-- What a part that begins to run does before waiting work is examined (R85, R113, R167). -/
theorem State.running_cases (s : State) :
    s.running.mgmt = { s.mgmt with device := .running } ∧
    (s.plwAsserted = false → (∀ d, (s.dies.get d).state ≠ .faulted → (s.running.dies.get d).filled) ∧
      ∀ g k, s.running.reclaimOf g = some k → k.search ≠ .waiting) ∧
    s.Only [.groups, .dies, .mgmt] s.running := by
  let a := s.setDevice .running
  have sa : s.Only [.mgmt] a := s.modMgmt_only _
  have ab : a.Only [.dies] a.fillQueues := a.fillQueues_only
  have bc : a.fillQueues.Only [.groups] s.running := a.fillQueues.issueAgain_only
  have running : a.fillQueues.isRunning = true := by
    simp only [State.isRunning, show a.fillQueues.mgmt = a.mgmt from ab .mgmt (by decide)]; rfl
  refine ⟨(bc .mgmt (by decide)).trans (ab .mgmt (by decide)), fun hp => ⟨fun d hd => ?_, fun g k hk => ?_⟩,
    ((sa.mono (by decide)).andThen ab).andThen bc⟩
  · rw [show s.running.dies = a.fillQueues.dies from bc .dies (by decide)]
    refine a.fillQueues_filled d ?_
    simp only [State.queueOpen, sa.plwAsserted, hp]
    simpa [a, State.isRunning, State.setDevice] using hd
  · refine a.fillQueues.issueAgain_search ?_ g k hk
    rw [State.mayIssue, running, ab.plwAsserted, sa.plwAsserted, hp]; rfl

/-- The three answers of RUN, in the order in which R167 tests. -/
theorem runRequest_cases (r : Request) (s : State) :
    (s.mgmt.device ≠ .halted → runRequest r s = r.answer s .wrongState) ∧
    (s.mgmt.device = .halted → s.allDiesGrouped = false → runRequest r s = r.answer s .badConfig) ∧
    (s.mgmt.device = .halted → s.allDiesGrouped = true → runRequest r s = r.answer s.startRunning .ok) := by
  refine ⟨fun h => if_pos h, fun h hg => ?_, fun h hg => ?_⟩
  · simp [runRequest, h, hg]
  · simp [runRequest, h, hg]

/-- Settles O47: `State.running_cases` gives the part before its waiting work is examined, and the SUSPENDED dies that decide again leave
the queues and the groups alone. -/
theorem runStartsPart : Obligations.RunStartsPart := by
  unfold Obligations.RunStartsPart
  intro s hr covered
  let q := s.headRequest .management
  let a := s.taken .management
  have he : exec .run s = .next (runRequest q a) := exec_of_kind s .management kindRun runRequest _ rfl hr
  have sa : s.Only [.mport] a := s.taken_only_management
  have hcovered : covered ↔ a.allDiesGrouped = true := (a.allDiesGrouped_iff).symm
  obtain ⟨wrong, bad, ok⟩ := runRequest_cases q a
  let m := a.running
  let n := m.examineWork (fun _ => true)
  let t := q.answer n.serveSuspended .ok
  obtain ⟨device, fills, am⟩ := a.running_cases
  have mn := m.examineWork_only (fun _ => true)
  have nu := n.serveSuspended_only
  have ut : n.serveSuspended.Only [.mport] t := q.answer_only_management rfl _ .ok [] []
  have an : a.Only [.units, .freeLists, .streams, .contexts, .lines, .pool, .waiters, .credit, .groups, .dies, .link, .mgmt] n :=
    (am.mono (by decide)).andThen mn
  have answered : s.Answered .management .ok [] [] t :=
    s.answered n.serveSuspended .management ((nu .masters (by decide)).trans (an .masters (by decide)))
      ((nu .mport (by decide)).trans (an .mport (by decide))) .ok [] []
  have sm : s.Only [.groups, .dies, .mport, .mgmt] m := (sa.mono (by decide)).andThen am
  have runs : s.mgmt.device = .halted → covered → exec .run s = .next t := fun hd hc => he.trans (congrArg _ (ok hd (hcovered.mp hc)))
  refine ⟨fun hd => onlyAnswered_of_exec (he.trans (congrArg _ (wrong hd))), fun hd hc => ?_, fun hd hc => ?_, fun hd hc hw => ?_⟩
  · have hg : a.allDiesGrouped = false := by rw [← Bool.not_eq_true, ← hcovered]; exact hc
    exact onlyAnswered_of_exec (he.trans (congrArg _ (bad hd hg)))
  · exact ⟨m, n, t, runs hd hc, answered, device,
      (ut .mgmt (by decide)).trans ((nu .mgmt (by decide)).trans (mn .mgmt (by decide))), fills, sm, m.examineWork_examined _, ut⟩
  · have hn : n = m := m.examineWork_noWork _ (hw.congr (sm .waiters (by decide)) (sm .credit (by decide)))
    have mt : m.Only [.dies, .link, .mport] t := by
      rw [← hn]; exact (nu.mono (by decide)).andThen ut
    have kept : m.QueuesKept t := by
      rw [← hn]; exact n.serveSuspended_queuesKept.trans (.of_dies (ut .dies (by decide)))
    refine ⟨t, runs hd hc, answered, (mt .mgmt (by decide)).trans device, fun hp => ⟨fun d hf => kept.filled d ((fills hp).1 d hf), ?_⟩,
      (sm.mono (by decide)).andThen mt⟩
    have hg : t.reclaimOf = m.reclaimOf := by
      funext g; simp only [State.reclaimOf, show t.groups = m.groups from mt .groups (by decide)]
    rw [hg]; exact (fills hp).2

/-! ## CLEAR-DIE-FAULT -/

/-- A die as CLEAR-DIE-FAULT leaves it before its queue is filled (R133). -/
def DieRecord.cleared (r : DieRecord) : DieRecord :=
  { r with state := .idle, backlogs := Table.replicate 7 [], passOver := Table.replicate 7 0, queue := [] }

/-- The part with a die's fault cleared and its queue filled (R113, R133). -/
def State.dieCleared (s : State) (d : DieId) : State := (s.modDie d DieRecord.cleared).fillQueue d

/-- The same with the die's group woken, before the group's waiting work is examined (R92). -/
def State.faultCleared (s : State) (d : DieId) : State :=
  (s.groupOfDie d.val).elim (s.dieCleared d) (s.dieCleared d).wakeGroup

/-- The group of a die depends on the groups' configurations alone. -/
theorem State.groupOfDie_congr {s t : State} (h : ∀ g, t.config g = s.config g) (d : Nat) : t.groupOfDie d = s.groupOfDie d := by
  simp only [State.groupOfDie, funext h]

theorem State.dieCleared_groupOfDie (s : State) (d : DieId) (n : Nat) : (s.dieCleared d).groupOfDie n = s.groupOfDie n :=
  State.groupOfDie_congr (fun g => ((s.modDie d DieRecord.cleared).fillQueue_change 0 d).config g) n

/-- Clearing a fault ends with the examination of the die's group, if it lies in one, after which SUSPENDED dies decide again (R55, R133). -/
theorem State.clearFault_eq (s : State) (d : DieId) :
    (∀ g, s.groupOfDie d.val = some g → s.clearFault d = ((s.faultCleared d).examineGroup g).serveSuspended) ∧
    (s.groupOfDie d.val = none → s.clearFault d = s.faultCleared d) := by
  have hgroup := s.dieCleared_groupOfDie d d.val
  constructor
  · intro g h
    rw [State.faultCleared, h, Option.elim_some]
    unfold State.clearFault; dsimp only
    split
    · next j hj => rw [← Option.some.inj ((hj.symm.trans hgroup).trans h)]; rfl
    · next hj => cases (hj.symm.trans hgroup).trans h
  · intro h
    rw [State.faultCleared, h, Option.elim_none]
    unfold State.clearFault; dsimp only
    split
    · next j hj => cases (hj.symm.trans hgroup).trans h
    · rfl

/-- What clearing a fault does before waiting work is examined (R92, R113, R133). -/
theorem State.faultCleared_cases (s : State) (d : DieId) :
    let m := s.faultCleared d
    (m.dies.get d).state = .idle ∧ (∀ l, (m.dies.get d).backlogs.get l = [] ∧ (m.dies.get d).passOver.get l = 0) ∧
    (s.isRunning = true → s.plwAsserted = false → (m.dies.get d).filled) ∧
    (s.isRunning = false ∨ s.plwAsserted = true → (m.dies.get d).queue = []) ∧ s.OtherDies d m ∧
    (∀ g, m.config g = s.config g ∧ m.reclaimOf g = if s.groupOfDie d.val = some g
      then (s.reclaimOf g).map ReclaimRecord.wake else s.reclaimOf g) ∧
    s.Only [.groups, .dies] m := by
  intro m
  let a := s.modDie d DieRecord.cleared
  let b := s.dieCleared d
  have sa : s.Only [.dies] a := s.modDie_only d _
  have own : a.dies.get d = (s.dies.get d).cleared := Table.get_modify_self _ _ _
  have change : a.UnitChange 0 b := a.fillQueue_change 0 d
  have bgroups : b.groups = s.groups := a.fillQueue_only d .groups (by decide)
  have bm : b.Only [.groups] m := by
    show b.Only _ ((s.groupOfDie d.val).elim b b.wakeGroup)
    cases s.groupOfDie d.val with
    | none => exact .refl b _
    | some g => exact b.wakeGroup_only g
  have mdies : m.dies = b.dies := bm .dies (by decide)
  have hopen : a.queueOpen d = (s.isRunning && !s.plwAsserted) := by
    simp only [State.queueOpen, own]; exact Bool.and_true _
  refine ⟨?_, fun l => ?_, fun hrun hp => ?_, fun h => ?_, fun x hx => ?_, fun g => ?_, ?_⟩
  · rw [mdies, change.dies d, own]; rfl
  · rw [mdies, change.dies d, own]; exact ⟨Table.get_replicate _ _, Table.get_replicate _ _⟩
  · rw [mdies]; exact a.fillQueue_filled d (by rw [hopen, hrun, hp]; rfl)
  · have hclosed : a.queueOpen d = false := by
      rw [hopen]; rcases h with h | h <;> simp [h]
    rw [mdies, show b = a from a.fillQueue_closed d hclosed, own]; rfl
  · rw [mdies]; exact (a.fillQueue_others d x hx).trans (Table.get_modify_ne _ _ _ _ hx)
  · show ((s.groupOfDie d.val).elim b b.wakeGroup).config g = _ ∧ ((s.groupOfDie d.val).elim b b.wakeGroup).reclaimOf g = _
    cases hg : s.groupOfDie d.val with
    | none => simp only [Option.elim_none, State.config, State.reclaimOf, bgroups, reduceCtorEq, if_false, and_self]
    | some j =>
      by_cases hj : g = j
      · subst hj
        simp [State.wakeGroup, State.config, State.reclaimOf, bgroups, Option.map_map, Function.comp_def]
      · simp [State.wakeGroup, State.config, State.reclaimOf, bgroups, hj, Ne.symm hj]
  · exact ((sa.mono (by decide)).andThen (a.fillQueue_only d)).andThen bm

/-- The answers of CLEAR-DIE-FAULT (R133). -/
theorem clearDieFaultRequest_cases (r : Request) (s : State) :
    (s.configuredDie r.first = none → clearDieFaultRequest r s = r.answer s .badRequest) ∧
    ∀ d, s.configuredDie r.first = some d →
      ((s.dies.get d).state ≠ .faulted → clearDieFaultRequest r s = r.answer s .wrongState) ∧
      ((s.dies.get d).state = .faulted → clearDieFaultRequest r s = r.answer (s.clearFault d) .ok) :=
  ⟨fun h => by simp only [clearDieFaultRequest, h], fun d h => ⟨fun hf => by simp only [clearDieFaultRequest, h, hf, if_false],
    fun hf => by simp only [clearDieFaultRequest, h, hf, if_true]⟩⟩

/-- Settles O50: `State.faultCleared_cases` gives the die and its group before the group's waiting work is examined. -/
theorem clearDieFaultRestoresDie : Obligations.ClearDieFaultRestoresDie := by
  unfold Obligations.ClearDieFaultRestoresDie
  intro s hr q
  let a := s.taken .management
  have he : exec .clearDieFault s = .next (clearDieFaultRequest q a) :=
    exec_of_kind s .management kindClearDieFault clearDieFaultRequest _ rfl hr
  have sa : s.Only [.mport] a := s.taken_only_management
  obtain ⟨absent, found⟩ := clearDieFaultRequest_cases q a
  refine ⟨fun hlow => onlyAnswered_of_exec (he.trans (congrArg _ (absent (a.configuredDie_none _ hlow)))), fun d hd hlt => ?_⟩
  obtain ⟨other, faulted⟩ := found d (a.configuredDie_some d _ hd hlt)
  obtain ⟨idle, backlogs, fills, closed, others, groups, am⟩ := a.faultCleared_cases d
  obtain ⟨examines, alone⟩ := a.clearFault_eq d
  let m := a.faultCleared d
  have sm : s.Only [.groups, .dies, .mport] m := (sa.mono (by decide)).andThen am
  have answers : ∀ n : State, a.clearFault d = n → a.Only [.units, .freeLists, .streams, .contexts, .lines, .pool, .waiters, .credit, .groups,
      .dies, .link] n → (s.dies.get d).state = .faulted →
      exec .clearDieFault s = .next (q.answer n .ok) ∧ s.Answered .management .ok [] [] (q.answer n .ok) := by
    rintro n rfl hn hf
    exact ⟨he.trans (congrArg _ (faulted hf)), s.answered _ .management (hn .masters (by decide)) (hn .mport (by decide)) .ok [] []⟩
  refine ⟨fun hf => onlyAnswered_of_exec (he.trans (congrArg _ (other hf))), fun hf => ?_, fun hf hw hsus => ?_⟩
  · cases hg : s.groupOfDie d.val with
    | none =>
      obtain ⟨ht, answered⟩ := answers m (alone hg) (am.mono (by decide)) hf
      exact ⟨m, m, _, ht, answered, idle, backlogs, fills, closed, others, hg ▸ groups, sm, by simp,
        fun _ => q.answer_only_management rfl m .ok [] []⟩
    | some g =>
      let n := m.examineGroup g
      have hn : n = m.examineWork (s.ofGroup g) := by
        have hof : (fun st => decide ((m.streams.get st).group = some g)) = s.ofGroup g := by
          funext st; simp only [State.ofGroup, show m.streams = s.streams from sm .streams (by decide)]
        simp only [n, State.examineGroup, hof]
      have mn : m.Only [.units, .freeLists, .streams, .contexts, .lines, .pool, .waiters, .credit, .groups, .dies, .link] n :=
        m.examineWork_only _
      obtain ⟨ht, answered⟩ := answers n.serveSuspended (examines g hg) (((am.mono (by decide)).andThen mn).andThen n.serveSuspended_only) hf
      refine ⟨m, n, _, ht, answered, idle, backlogs, fills, closed, others, hg ▸ groups, sm, fun j hj => ?_, by simp⟩
      obtain rfl : g = j := Option.some.inj hj
      exact ⟨hn ▸ m.examineWork_examined _, q.answer_only_management rfl n.serveSuspended .ok [] []⟩
  · have hrest : a.clearFault d = m := by
      cases hg : s.groupOfDie d.val with
      | none => exact alone hg
      | some g =>
        rw [examines g hg, State.examineGroup, m.examineWork_noWork _ (hw.congr (sm .waiters (by decide)) (sm .credit (by decide)))]
        refine m.serveSuspended_none (fun x => ?_)
        by_cases hx : x = d
        · rw [hx, idle]; decide
        · rw [others x hx]; exact hsus x
    obtain ⟨ht, answered⟩ := answers m hrest (am.mono (by decide)) hf
    have mt := q.answer_only_management rfl m .ok [] []
    have tdies : (q.answer m .ok).dies = m.dies := mt .dies (by decide)
    have tgroups : (q.answer m .ok).groups = m.groups := mt .groups (by decide)
    refine ⟨_, ht, answered, ?_⟩
    simp only [tdies, State.OtherDies, State.config, State.reclaimOf, tgroups]
    exact ⟨idle, backlogs, fills, closed, others, groups, (sm.mono (by decide)).andThen mt⟩

end Sys2Proof.Machine
end

section
/-!
PROOFS. Orders that end one slot after another: what one slot's end does to the unit, the notices and the expiry memory (R97, R103, R105),
and SET_GROUP (R172).
-/

namespace Sys2Proof.Machine

/-! ## Things done one after another -/

/-- What holds at the start and is kept as each thing of a list is done once holds when all are done; `P` is told which are done. -/
theorem foldl_done {α : Type} (P : List α → State → Prop) (f : State → α → State) (l : List α) (hl : l.Nodup) (s : State) (start : P [] s)
    (step : ∀ done t a, a ∉ done → P done t → P (done ++ [a]) (f t a)) : P l (l.foldl f s) := by
  induction l using List.reverseRecOn with
  | nil => exact start
  | append_singleton l a ih =>
    obtain ⟨hl, -, hne⟩ := List.nodup_append.mp hl
    rw [List.foldl_append]
    exact step l _ a (fun h => hne a h a (.head _) rfl) (ih hl)

/-! ## Expiry memories -/

/-- An expiry memory after entries are made, the last in front (R97). -/
def remembered (entries old : List (Nat × Half)) : List (Nat × Half) := if entries = [] then old else (entries ++ old).take 8

theorem remembered_cons (v : Nat × Half) (l old : List (Nat × Half)) : remembered (v :: l) old = (v :: (l ++ old)).take 8 := rfl

theorem take_append_take {α : Type} (l m : List α) (n : Nat) : (l ++ m.take n).take n = (l ++ m).take n := by
  rw [List.take_append, List.take_append, List.take_take, Nat.min_eq_left (Nat.sub_le _ _)]

/-- Entries made in two goes are made in one. -/
theorem remembered_append (l m old : List (Nat × Half)) : remembered l (remembered m old) = remembered (l ++ m) old := by
  cases l with
  | nil => rfl
  | cons v l =>
    cases m with
    | nil => rw [List.append_nil]; rfl
    | cons w m =>
      rw [remembered_cons, List.cons_append, remembered_cons]
      have h := take_append_take (v :: l) ((w :: m) ++ old) 8
      simpa [remembered] using h

theorem mem_remembered (v : Nat × Half) (l old : List (Nat × Half)) (h : v ∈ remembered l old) : v ∈ l ∨ v ∈ old := by
  unfold remembered at h
  split at h
  · exact .inr h
  · exact List.mem_append.mp (List.mem_of_mem_take h)

/-- The entry that an order makes in a port's expiry memory when it ends: an ISSUED order of the port makes one (R97). -/
def Order.entry (p : MasterId) (o : Order) : Option (Nat × Half) :=
  if o.port = p ∧ orderSlotCode (some o) = 2 then some (o.unit, o.number) else none

/-- The entries that the orders of several slots make, the last in front. -/
def State.entries (s : State) (p : MasterId) (l : List NoticeRef) : List (Nat × Half) :=
  l.reverse.filterMap (fun r => (s.order r).bind (Order.entry p))

theorem State.entries_append (s : State) (p : MasterId) (l : List NoticeRef) (r : NoticeRef) :
    s.entries p (l ++ [r]) = ((s.order r).bind (Order.entry p)).toList ++ s.entries p l := by
  simp only [State.entries, List.reverse_append, List.reverse_singleton, List.singleton_append, List.filterMap_cons]
  cases (s.order r).bind (Order.entry p) <;> rfl

/-- The codes of an order's three phases (R93). -/
theorem orderSlotCode_pending (o : Order) : orderSlotCode (some o) = 1 ↔ o.phase = .pending := by
  simp only [orderSlotCode]; cases o.phase <;> simp
theorem orderSlotCode_issued (o : Order) : orderSlotCode (some o) = 2 ↔ ∃ n, o.phase = .issued n := by
  simp only [orderSlotCode]; cases o.phase <;> simp

theorem Order.entry_issued (p : MasterId) (o : Order) (n : Nat) (h : o.phase = .issued n) :
    o.entry p = if o.port = p then some (o.unit, o.number) else none := by
  simp [Order.entry, (orderSlotCode_issued o).mpr ⟨n, h⟩]

theorem Order.entry_other (p : MasterId) (o : Order) (h : ∀ n, o.phase ≠ .issued n) : o.entry p = none := by
  have hcode : orderSlotCode (some o) ≠ 2 := fun e => by
    obtain ⟨n, hn⟩ := (orderSlotCode_issued o).mp e
    exact h n hn
  simp [Order.entry, hcode]

theorem State.addExpiry_get (s : State) (o : Order) (p : MasterId) (n : Nat) (h : o.phase = .issued n) :
    (s.addExpiry o).reclaim.expiry.get p = remembered (o.entry p).toList (s.reclaim.expiry.get p) := by
  rw [o.entry_issued p n h]
  by_cases hp : o.port = p
  · subst hp
    rw [if_pos rfl]
    exact Table.get_modify_self _ _ _
  · rw [if_neg hp]
    exact Table.get_modify_ne _ _ _ _ (Ne.symm hp)

/-! ## The end of one slot's order without a notice (R104, R105) -/

theorem State.config_modReclaim (s : State) (g h : GroupId) (f : ReclaimRecord → ReclaimRecord) : (s.modReclaim g f).config h = s.config h := by
  by_cases hg : h = g
  · subst hg; simp [State.config, Option.map_map, Function.comp_def]
  · simp [State.config, hg]

theorem State.dropNotice_notices (s : State) (p q : MasterId) (r : NoticeRef) :
    (s.dropNotice p r).reclaim.notices.get q =
      if p = q then (s.reclaim.notices.get q).filter (fun x => decide (x ≠ r)) else s.reclaim.notices.get q :=
  Table.get_modify _ _ _ _

/-- What ending an order with its unit returned to SEALED, its slot FREE and its notice withdrawn does (R103, R105). -/
theorem State.withdrawOrder_cases (s : State) (r : NoticeRef) (o : Order) :
    let t := s.withdrawOrder r o
    (∀ v, t.unit? v = (s.returnToSealed o.unit).unit? v) ∧ t.order r = none ∧ (∀ x, x ≠ r → t.order x = s.order x) ∧
    (∀ g, t.config g = s.config g) ∧
    (∀ q, t.reclaim.notices.get q =
      if o.port = q then (s.reclaim.notices.get q).filter (fun x => decide (x ≠ r)) else s.reclaim.notices.get q) ∧
    t.reclaim = { s.reclaim with notices := t.reclaim.notices } := by
  intro t
  let a := s.returnToSealed o.unit
  let b := a.dropNotice o.port r
  have change : s.UnitChange o.unit a := s.returnToSealed_change o.unit
  have areclaim : a.reclaim = s.reclaim := change.only .reclaim (by decide)
  have ab : a.Only [.reclaim] b := a.dropNotice_only o.port r
  have bt : b.Only [.groups] t := b.setOrder_only r none
  refine ⟨fun v => (bt.unit? v).trans (ab.unit? v), b.order_setOrder_none r,
    fun x hx => (b.order_setOrder_ne r x none hx).trans (change.order x),
    fun g => (b.config_modReclaim _ g _).trans (change.config g), fun q => ?_, ?_⟩
  · show b.reclaim.notices.get q = _
    rw [a.dropNotice_notices, areclaim]
  · show b.reclaim = { s.reclaim with notices := b.reclaim.notices }
    rw [← areclaim]; rfl

/-- What one slot's order leaves as SET-GROUP ends it (R105): `o` is the order. -/
structure State.SlotReset (s : State) (r : NoticeRef) (o : Order) (t : State) : Prop where
  kept : (∃ c, o.phase = .closing c) → ∀ v, t.unit? v = s.unit? v
  returned : (∀ c, o.phase ≠ .closing c) → ∀ v, t.unit? v = (s.returnToSealed o.unit).unit? v
  orders : ∀ x, x ≠ r → t.order x = s.order x
  config : ∀ g, t.config g = s.config g
  notices : ∀ q x, x ∈ t.reclaim.notices.get q ↔
    x ∈ s.reclaim.notices.get q ∧ ¬ (x = r ∧ o.port = q ∧ orderSlotCode (some o) ≠ 2)
  expiry : ∀ q, t.reclaim.expiry.get q = remembered (o.entry q).toList (s.reclaim.expiry.get q)
  shared : t.reclaim = { s.reclaim with notices := t.reclaim.notices, expiry := t.reclaim.expiry }
  only : s.Only [.units, .streams, .groups, .reclaim, .dies] t

/-- A notice that is dropped waits for its port no longer. -/
theorem mem_dropped (l : List NoticeRef) (r x : NoticeRef) (p q : MasterId) :
    x ∈ (if p = q then l.filter (fun y => decide (y ≠ r)) else l) ↔ x ∈ l ∧ ¬ (x = r ∧ p = q) := by
  by_cases hq : p = q <;> simp [hq]

theorem State.resetSlot_cases (s : State) (r : NoticeRef) :
    (s.order r = none → s.resetSlot r = s) ∧ ∀ o, s.order r = some o → s.SlotReset r o (s.resetSlot r) := by
  refine ⟨fun h => by simp only [State.resetSlot, h], fun o h => ?_⟩
  have only := s.resetSlot_only r
  cases hp : o.phase with
  | pending =>
    have hopen : ¬ ∃ c, o.phase = .closing c := by simp [hp]
    have hcode : orderSlotCode (some o) = 1 := (orderSlotCode_pending o).mpr hp
    have he : s.resetSlot r = s.withdrawOrder r o := by simp only [State.resetSlot, h, hp]
    rw [he] at only ⊢
    obtain ⟨unit, -, orders, config, notices, shared⟩ := s.withdrawOrder_cases r o
    have expiry : (s.withdrawOrder r o).reclaim.expiry = s.reclaim.expiry := by rw [shared]
    refine ⟨fun e => absurd e hopen, fun _ => unit, orders, config, fun q x => ?_, fun q => ?_, ?_, only⟩
    · rw [notices, mem_dropped]; simp [hcode]
    · rw [expiry, o.entry_other q (by simp [hp])]; rfl
    · rw [expiry]; exact shared
  | issued n =>
    have hopen : ¬ ∃ c, o.phase = .closing c := by simp [hp]
    have hcode : orderSlotCode (some o) = 2 := (orderSlotCode_issued o).mpr ⟨n, hp⟩
    have he : s.resetSlot r = ((s.returnToSealed o.unit).addExpiry o).setOrder r none := by simp only [State.resetSlot, h, hp]
    rw [he] at only ⊢
    let a := s.returnToSealed o.unit
    let b := a.addExpiry o
    have change : s.UnitChange o.unit a := s.returnToSealed_change o.unit
    have areclaim : a.reclaim = s.reclaim := change.only .reclaim (by decide)
    have ab : a.Only [.reclaim] b := a.addExpiry_only o
    have bt : b.Only [.groups] (b.setOrder r none) := b.setOrder_only r none
    refine ⟨fun e => absurd e hopen, fun _ v => (bt.unit? v).trans (ab.unit? v),
      fun x hx => (b.order_setOrder_ne r x none hx).trans (change.order x),
      fun g => (b.config_modReclaim _ g _).trans (change.config g), fun q x => ?_, fun q => ?_, ?_, only⟩
    · show x ∈ a.reclaim.notices.get q ↔ _
      rw [areclaim]; simp [hcode]
    · rw [← areclaim]; exact a.addExpiry_get o q n hp
    · rw [← areclaim]; rfl
  | closing c =>
    have hcode : orderSlotCode (some o) ≠ 2 := fun e => by
      obtain ⟨n, hn⟩ := (orderSlotCode_issued o).mp e
      rw [hp] at hn; cases hn
    have he : s.resetSlot r = (s.dropNotice o.port r).setOrder r none := by simp only [State.resetSlot, h, hp]
    rw [he] at only ⊢
    let b := s.dropNotice o.port r
    have sb : s.Only [.reclaim] b := s.dropNotice_only o.port r
    have bt : b.Only [.groups] (b.setOrder r none) := b.setOrder_only r none
    refine ⟨fun _ v => (bt.unit? v).trans (sb.unit? v), fun e => absurd hp (e c),
      fun x hx => b.order_setOrder_ne r x none hx, fun g => b.config_modReclaim _ g _, fun q x => ?_, fun q => ?_, rfl, only⟩
    · show x ∈ b.reclaim.notices.get q ↔ _
      rw [s.dropNotice_notices, mem_dropped]; simp [hcode]
    · rw [o.entry_other q (by simp [hp])]; rfl

/-! ## The end of a group's orders (R105) -/

/-- An order that is not CLOSING holds a unit in RECLAIM. -/
abbrev State.Holds (s : State) (r : NoticeRef) (u : Nat) : Prop :=
  ∃ o, s.order r = some o ∧ (∀ c, o.phase ≠ .closing c) ∧ o.unit = u

/-- What the orders of the slots in `done` leave as they have ended one after another without notices (R105), from the state `s`. -/
structure State.Resetting (s : State) (done : List NoticeRef) (t : State) : Prop where
  orders : ∀ x, x ∉ done → t.order x = s.order x
  unheld : ∀ u, (∀ r ∈ done, ¬ s.Holds r u) → t.unit? u = s.unit? u
  held : ∀ r ∈ done, ∀ u x, s.Holds r u → (∀ k ∈ done, s.Holds k u → k = r) → s.unit? u = some x →
    t.unit? u = some (x.returned.checked s.plwAsserted)
  config : ∀ g, t.config g = s.config g
  notices : ∀ q x, x ∈ t.reclaim.notices.get q ↔ x ∈ s.reclaim.notices.get q ∧
    ¬ (x ∈ done ∧ ∃ o, s.order x = some o ∧ o.port = q ∧ orderSlotCode (some o) ≠ 2)
  expiry : ∀ q, t.reclaim.expiry.get q = remembered (s.entries q done) (s.reclaim.expiry.get q)
  shared : t.reclaim = { s.reclaim with notices := t.reclaim.notices, expiry := t.reclaim.expiry }
  only : s.Only [.units, .streams, .groups, .reclaim, .dies] t

theorem State.Resetting.start (s : State) : s.Resetting [] s where
  orders _ _ := rfl
  unheld _ _ := rfl
  held r hr := by cases hr
  config _ := rfl
  notices q x := by simp
  expiry q := rfl
  shared := rfl
  only := .refl s _

/-- A slot that holds no order changes nothing as it is ended. -/
theorem State.Resetting.idle {s t : State} {done : List NoticeRef} (h : s.Resetting done t) (r : NoticeRef) (hr : s.order r = none) :
    s.Resetting (done ++ [r]) t where
  orders x hx := h.orders x (fun e => hx (List.mem_append_left _ e))
  unheld u hu := h.unheld u (fun k hk => hu k (List.mem_append_left _ hk))
  held k hk u x hu hone hx := by
    rcases List.mem_append.mp hk with hk | hk
    · exact h.held k hk u x hu (fun j hj => hone j (List.mem_append_left _ hj)) hx
    · obtain rfl := List.mem_singleton.mp hk
      obtain ⟨o, ho, -⟩ := hu
      rw [hr] at ho; cases ho
  config := h.config
  notices q x := by
    rw [h.notices]
    by_cases hx : x = r
    · subst hx; simp [hr]
    · simp [hx]
  expiry q := by rw [s.entries_append, hr]; exact h.expiry q
  shared := h.shared
  only := h.only

/-- The end of one order more. -/
theorem State.Resetting.next {s t v : State} {done : List NoticeRef} (h : s.Resetting done t) (r : NoticeRef) (o : Order) (hr : r ∉ done)
    (ho : s.order r = some o) (k : t.SlotReset r o v) : s.Resetting (done ++ [r]) v where
  orders x hx := by
    simp only [List.mem_append, List.mem_singleton, not_or] at hx
    rw [k.orders x hx.2, h.orders x hx.1]
  unheld u hu := by
    have ht := h.unheld u (fun j hj => hu j (List.mem_append_left _ hj))
    by_cases hc : ∃ c, o.phase = .closing c
    · exact (k.kept hc u).trans ht
    · have hp : ∀ c, o.phase ≠ .closing c := fun c hp => hc ⟨c, hp⟩
      rw [k.returned hp, (t.returnToSealed_change o.unit).others u (fun e => hu r (by simp) ⟨o, ho, hp, e.symm⟩), ht]
  held j hj u x hu hone hx := by
    have hplw : t.plwAsserted = s.plwAsserted := h.only.plwAsserted
    by_cases hjr : j = r
    · subst hjr
      obtain ⟨o', ho', hp, rfl⟩ := hu
      obtain rfl : o = o' := Option.some.inj (ho.symm.trans ho')
      have ht : t.unit? o.unit = some x := (h.unheld o.unit (fun i hi hheld =>
        hr (hone i (List.mem_append_left _ hi) hheld ▸ hi))).trans hx
      rw [k.returned hp, t.returnToSealed_unit _ x ht, hplw]
    · have hjd : j ∈ done := by simpa [hjr] using hj
      have ht := h.held j hjd u x hu (fun i hi => hone i (List.mem_append_left _ hi)) hx
      by_cases hc : ∃ c, o.phase = .closing c
      · exact (k.kept hc u).trans ht
      · have hp : ∀ c, o.phase ≠ .closing c := fun c hp => hc ⟨c, hp⟩
        rw [k.returned hp, (t.returnToSealed_change o.unit).others u, ht]
        rintro rfl
        exact hjr (hone r (by simp) ⟨o, ho, hp, rfl⟩).symm
  config g := (k.config g).trans (h.config g)
  notices q x := by
    rw [k.notices, h.notices]
    by_cases hx : x = r
    · subst hx; simp [ho, hr]
    · simp [hx]
  expiry q := by rw [k.expiry, h.expiry, remembered_append, s.entries_append, ho]; rfl
  shared := by
    rw [k.shared]
    have := h.shared
    generalize v.reclaim.notices = n
    generalize v.reclaim.expiry = e
    rw [this]
  only := h.only.andThen k.only

/-- The slots of a group. -/
def groupSlots (g : GroupId) : List NoticeRef := (List.finRange 4).map (fun k => ⟨g, k⟩)

theorem mem_groupSlots (g : GroupId) (r : NoticeRef) : r ∈ groupSlots g ↔ r.group = g := by
  simp only [groupSlots, List.mem_map, List.mem_finRange, true_and]
  exact ⟨fun ⟨_, h⟩ => h ▸ rfl, fun h => ⟨r.slot, h ▸ rfl⟩⟩

/-- What the end of a group's orders leaves (R105). -/
theorem State.resetOrders_resetting (s : State) (g : GroupId) : s.Resetting (groupSlots g) (s.resetOrders g) := by
  have hnodup : (groupSlots g).Nodup := (List.nodup_finRange 4).map (fun i j h => by cases h; rfl)
  have hfold : s.resetOrders g = (groupSlots g).foldl State.resetSlot s := by rw [groupSlots, List.foldl_map]; rfl
  rw [hfold]
  refine foldl_done s.Resetting State.resetSlot _ hnodup s (.start s) (fun done t r hr h => ?_)
  obtain ⟨idle, ends⟩ := t.resetSlot_cases r
  have hsame : t.order r = s.order r := h.orders r hr
  cases ho : s.order r with
  | none => rw [idle (hsame.trans ho)]; exact h.idle r ho
  | some o => exact h.next r o hr ho (ends o (hsame.trans ho))

/-! ## SET-GROUP -/

theorem asFin_of_val {n : Nat} (i : Fin n) (v : Nat) (h : i.val = v) : asFin n v = some i := by
  subst h; simp [asFin]

/-- The ranges that R172 tests of a request. -/
theorem GroupRequest.inRange_iff (q : GroupRequest) (dies bpd : Nat) : q.inRange dies bpd = true ↔
    q.first ≤ q.last ∧ q.last < dies ∧ q.last + 1 - q.first ≤ 8 ∧ 1 ≤ q.reserve ∧ q.reserve ≤ 64 ∧
    q.reserve < q.low ∧ q.low < q.high ∧ q.high ≤ (q.last + 1 - q.first) * bpd ∧ q.low ≤ 16383 ∧ q.high ≤ 16384 ∧
    1 ≤ q.orderSlots ∧ q.orderSlots ≤ 4 ∧ q.suspendLimit ≤ 15 ∧ 1 ≤ q.allowance ∧ q.allowance ≤ 32 ∧ q.relocLevel ≤ 7 := by
  simp only [GroupRequest.inRange, Bool.and_eq_true, decide_eq_true_eq, and_assoc]

/-- A range is shared when another configured group has a die of it (R172). -/
theorem State.rangeShared_iff (s : State) (g : GroupId) (first last : Nat) : s.rangeShared g first last = true ↔
    ∃ (h : GroupId) (c : GroupConfig), h.val ≠ g.val ∧ s.config h = some c ∧ c.first ≤ last ∧ first ≤ c.last := by
  simp only [State.rangeShared, List.any_eq_true, List.mem_finRange, true_and, Bool.and_eq_true, decide_eq_true_eq]
  refine exists_congr (fun h => ?_)
  cases s.config h with
  | none => simp
  | some c => simp [Fin.ext_iff]

/-- A group's range is held when a stream of the group is not CLOSED and the new range is another (R172). -/
theorem State.rangeHeld_iff (s : State) (g : GroupId) (first last : Nat) : s.rangeHeld g first last = true ↔
    ∃ (c : GroupConfig) (st : StreamId), s.config g = some c ∧ ¬ (c.first = first ∧ c.last = last) ∧
      (s.streams.get st).group = some g ∧ (s.streams.get st).state ≠ .closed := by
  unfold State.rangeHeld
  cases s.config g with
  | none => simp
  | some c => simp [Table.mem_items, imp_iff_not_or]

/-- The answers of SET-GROUP, in the order in which R172 tests. -/
theorem setGroupRequest_cases (r : Request) (s : State) :
    (s.mgmt.device ≠ .halted → setGroupRequest r s = r.answer s .wrongState) ∧
    (s.mgmt.device = .halted → 7 < r.groupRequest.group → setGroupRequest r s = r.answer s .badConfig) ∧
    ∀ g : GroupId, g.val = r.groupRequest.group → s.mgmt.device = .halted →
      let fits := r.groupRequest.inRange s.dieCount s.bpd && !s.rangeShared g r.groupRequest.first r.groupRequest.last
      let held := s.rangeHeld g r.groupRequest.first r.groupRequest.last
      (fits = false → setGroupRequest r s = r.answer s .badConfig) ∧
      (fits = true → held = true → setGroupRequest r s = r.answer s .wrongState) ∧
      (fits = true → held = false → setGroupRequest r s = r.answer (s.setGroup g r.groupRequest.config) .ok r.groupRequest.body) := by
  refine ⟨fun h => if_pos h, fun h hg => ?_, fun g hg h => ?_⟩
  · have hnone : asFin 8 r.groupRequest.group = none := by simp [asFin]; omega
    simp only [setGroupRequest, h, hnone, ne_eq, not_true_eq_false, if_false]
  · intro fits held
    have he : setGroupRequest r s = if fits then
        if held then r.answer s .wrongState else r.answer (s.setGroup g r.groupRequest.config) .ok r.groupRequest.body
      else r.answer s .badConfig := by
      simp only [setGroupRequest, h, asFin_of_val g _ hg, ne_eq, not_true_eq_false, if_false]; rfl
    exact ⟨fun hf => by simp [he, hf], fun hf hh => by simp [he, hf, hh], fun hf hh => by simp [he, hf, hh]⟩

/-- Without orders a group's end of orders changes nothing (R105). -/
theorem State.resetOrders_none (s : State) (g : GroupId) (h : ∀ k, s.order ⟨g, k⟩ = none) : s.resetOrders g = s :=
  List.foldl_fixed' (fun k => (s.resetSlot_cases ⟨g, k⟩).1 (h k)) _

/-- What a group's watermarks are compared with is in the free lists, the units and the geometry (R84). -/
theorem State.watermarked_congr {s t : State} (c : GroupConfig) (hf : t.freeLists = s.freeLists) (hu : t.units = s.units)
    (hm : t.mgmt = s.mgmt) : t.freeCount c = s.freeCount c ∧ ∀ st, t.countUnits c st = s.countUnits c st :=
  ⟨by simp only [State.freeCount, hf], fun st => s.countUnits_congr t c st hu (congrArg Management.geometry hm)⟩

/-- The group as SET-GROUP builds it, its activity by its watermarks (R84, R105). -/
theorem State.setGroup_group (s : State) (g : GroupId) (c : GroupConfig) :
    (s.setGroup g c).groups.get g = some ⟨c, { ReclaimRecord.fresh c.orderSlots with
      active := decide ((s.setGroup g c).freeCount c ≤ c.low ∧
        (s.setGroup g c).freeCount c + (s.setGroup g c).countUnits c .erasing + (s.setGroup g c).countUnits c .reclaim < c.high) }⟩ ∧
    (∀ h, h ≠ g → (s.setGroup g c).groups.get h = (s.resetOrders g).groups.get h) ∧
    (s.resetOrders g).Only [.groups] (s.setGroup g c) := by
  let a := s.resetOrders g
  let b : State := { a with groups := a.groups.set g (some ⟨c, ReclaimRecord.fresh c.orderSlots⟩) }
  have ab : a.Only [.groups] b := a.setGroups_only _
  have bt : b.Only [.groups] (s.setGroup g c) := b.evaluateActivity_only g
  have hb : b.groups.get g = some ⟨c, ReclaimRecord.fresh c.orderSlots⟩ := Table.get_set_self _ _ _
  obtain ⟨hfree, hcount⟩ := State.watermarked_congr c (bt .freeLists (by decide)) (bt .units (by decide)) (bt .mgmt (by decide))
  refine ⟨?_, fun h hne => ?_, ab.andThen bt⟩
  · rw [hfree, hcount, hcount]
    show (b.evaluateActivity g).groups.get g = _
    simp only [State.evaluateActivity, hb, State.modReclaim_groups, Table.get_modify_self, Option.map_some, nextActivity]
    congr 2
    by_cases hnow : b.freeCount c ≤ c.low ∧ b.freeCount c + b.countUnits c .erasing + b.countUnits c .reclaim < c.high
    · simp [ReclaimRecord.fresh, hnow]
    · simp [ReclaimRecord.fresh, hnow, ReclaimRecord.deactivate]
  · have hne' : (b.evaluateActivity g).groups.get h = b.groups.get h := by
      simp only [State.evaluateActivity, hb, State.modReclaim_groups, Table.get_modify_ne _ _ _ _ hne]
    exact hne'.trans (Table.get_set_ne _ _ _ _ hne)

/-- Settles O40: the group's orders end as `State.Resetting` says, and the group is built on what they leave. -/
theorem setGroupConfigures : Obligations.SetGroupConfigures := by
  unfold Obligations.SetGroupConfigures
  intro s hr q ranges shared held
  let r := s.headRequest .management
  let a := s.taken .management
  have he : exec .setGroup s = .next (setGroupRequest r a) := exec_of_kind s .management kindSetGroup setGroupRequest _ rfl hr
  have sa : s.Only [.mport] a := s.taken_only_management
  obtain ⟨wrong, outside, named⟩ := setGroupRequest_cases r a
  have hshared : ∀ g : GroupId, g.val = q.group → (shared ↔ a.rangeShared g q.first q.last = true) := fun g hg => by
    rw [a.rangeShared_iff, hg]; exact .rfl
  have hheld : ∀ g : GroupId, g.val = q.group → (held ↔ a.rangeHeld g q.first q.last = true) := fun g hg => by
    rw [a.rangeHeld_iff]
    constructor
    · rintro ⟨h, c, st, hh, hrest⟩
      obtain rfl : g = h := Fin.ext (hg.trans hh.symm)
      exact ⟨c, st, hrest⟩
    · rintro ⟨c, st, hrest⟩
      exact ⟨g, c, st, hg, hrest⟩
  have hranges : ranges ↔ q.group ≤ 7 ∧ q.inRange a.dieCount a.bpd = true := by
    rw [q.inRange_iff]; exact .rfl
  have accepted : ∀ g : GroupId, g.val = q.group → s.mgmt.device = .halted → ranges → ¬ shared → ¬ held →
      exec .setGroup s = .next (r.answer (a.setGroup g q.config) .ok q.body) := fun g hg hd hra hs hh => by
    refine he.trans (congrArg _ ((named g hg hd).2.2 ?_ ?_))
    · rw [(hranges.mp hra).2, Bool.true_and, Bool.not_eq_true', ← Bool.not_eq_true, ← hshared g hg]; exact hs
    · rw [← Bool.not_eq_true, ← hheld g hg]; exact hh
  refine ⟨fun hd => onlyAnswered_of_exec (he.trans (congrArg _ (wrong hd))), fun hd hbad => ?_, fun hd hra hs hh => ?_,
    fun g hg hd hra hs hh hnone => ?_, fun g hg hd hra hs hh => ?_⟩
  · by_cases hg : 7 < q.group
    · exact onlyAnswered_of_exec (he.trans (congrArg _ (outside hd hg)))
    · let g : GroupId := ⟨q.group, by omega⟩
      refine onlyAnswered_of_exec (he.trans (congrArg _ ((named g rfl hd).1 ?_)))
      rw [← Bool.not_eq_true, Bool.and_eq_true, Bool.not_eq_true']
      rintro ⟨hin, hsh⟩
      rcases hbad with h | h
      · exact h (hranges.mpr ⟨by omega, hin⟩)
      · rw [(hshared g rfl).mp h] at hsh; cases hsh
  · obtain ⟨hg, hin⟩ := hranges.mp hra
    let g : GroupId := ⟨q.group, by omega⟩
    refine onlyAnswered_of_exec (he.trans (congrArg _ ((named g rfl hd).2.1 ?_ ((hheld g rfl).mp hh))))
    rw [hin, Bool.true_and, Bool.not_eq_true', ← Bool.not_eq_true, ← hshared g rfl]; exact hs
  · intro c
    let t := r.answer (a.setGroup g c) .ok q.body
    have hreset : a.resetOrders g = a := a.resetOrders_none g (fun k => (State.order_congr (sa .groups (by decide)) _).trans (hnone k))
    obtain ⟨own, others, only⟩ := a.setGroup_group g c
    rw [hreset] at others only
    have st : s.Only [.groups, .mport] t :=
      ((sa.mono (by decide)).andThen only (gs := [.groups, .mport])).andThen (r.answer_only_management rfl _ _ _ [])
    have bt : (a.setGroup g c).Only [.mport] t := r.answer_only_management rfl _ _ _ []
    refine ⟨t, accepted g hg hd hra hs hh,
      s.answered _ .management (only .masters (by decide)) (only .mport (by decide)) .ok q.body [], ?_, fun h hne => ?_, st⟩
    · have sb : s.Only [.groups, .mport] (a.setGroup g c) := (sa.mono (by decide)).andThen only
      obtain ⟨hfree, hcount⟩ := State.watermarked_congr c (sb .freeLists (by decide)) (sb .units (by decide)) (sb .mgmt (by decide))
      rw [bt .groups (by decide), own, hfree, hcount, hcount]
    · rw [bt .groups (by decide), others h hne, sa .groups (by decide)]
  · intro c entered
    let b := a.resetOrders g
    let t := r.answer (a.setGroup g c) .ok q.body
    have ended : a.Resetting (groupSlots g) b := a.resetOrders_resetting g
    obtain ⟨own, others, only⟩ := a.setGroup_group g c
    have after : (a.setGroup g c).Only [.mport] t := r.answer_only_management rfl _ _ _ []
    have bt : b.Only [.groups, .mport] t := (only.mono (by decide)).andThen after
    have ab : a.Only [.units, .streams, .groups, .reclaim, .dies, .mport] b := ended.only.mono (by decide)
    have sb : s.Only [.units, .streams, .groups, .reclaim, .dies, .mport] b := (sa.mono (by decide)).andThen ab
    have aorder : ∀ x, a.order x = s.order x := fun x => State.order_congr (sa .groups (by decide)) x
    have areclaim : a.reclaim = s.reclaim := sa .reclaim (by decide)
    have tgroups : t.groups = (a.setGroup g c).groups := after .groups (by decide)
    have treclaim : t.reclaim = b.reclaim := bt .reclaim (by decide)
    have hentered : ∀ p, a.entries p (groupSlots g) = entered p := fun p => by
      simp only [State.entries, groupSlots, ← List.map_reverse, List.filterMap_map, Function.comp_def, aorder]; rfl
    have hholds : ∀ k u, a.Holds k u ↔ s.Holds k u := fun k u => by simp only [State.Holds, aorder]
    refine ⟨t, accepted g hg hd hra hs hh, s.answered _ .management ?_ ?_ .ok q.body [], ?_, fun k o x ho hp hx hone => ?_,
      fun v hv => ?_, fun p => ⟨fun hnil => ?_, fun hne => ?_, fun x => ?_⟩, ?_, fun h k hne => ⟨?_, ?_⟩, sb.andThen bt⟩
    · rw [only .masters (by decide), ended.only .masters (by decide)]
    · rw [only .mport (by decide), ended.only .mport (by decide)]
    · obtain ⟨hfree, hcount⟩ := State.watermarked_congr c (after .freeLists (by decide)) (after .units (by decide)) (after .mgmt (by decide))
      rw [tgroups, own, hfree, hcount, hcount]
    · have hu : t.unit? o.unit = some (x.returned.checked s.plwAsserted) := by
        rw [bt.unit?, ended.held ⟨g, k⟩ ((mem_groupSlots g _).mpr rfl) o.unit x ((hholds _ _).mpr ⟨o, ho, hp, rfl⟩)
          (fun j hj hheld => ?_) ((sa.unit? _).trans hx), sa.plwAsserted]
        obtain ⟨y, hy, -, hyu⟩ := (hholds _ _).mp hheld
        obtain rfl := (mem_groupSlots g j).mp hj
        exact congrArg (NoticeRef.mk j.group) (hone j.slot y hy hyu)
      refine ⟨fun hstay => ?_, fun hv hse hho => ?_⟩
      · rw [hu, UnitRecord.checked, if_neg]; · rfl
        rw [x.returned_leavesSealed]
        rintro ⟨hv, hse, hho⟩
        simp [hv, hse, hho] at hstay
      · rw [State.unitState, hu, Option.map_some, UnitRecord.checked, if_pos (x.returned_leavesSealed.mpr ⟨hv, hse, hho⟩),
          UnitRecord.leftForErase_state]; rfl
    · rw [bt.unit?, ended.unheld v (fun k hk hheld => ?_), sa.unit?]
      obtain ⟨o, ho, hp, hu⟩ := (hholds _ _).mp hheld
      obtain rfl := (mem_groupSlots g k).mp hk
      exact hv k.slot o ho hp hu
    · rw [treclaim, ended.expiry, hentered, hnil, areclaim]; rfl
    · rw [treclaim, ended.expiry, hentered, areclaim, remembered, if_neg hne]
    · rw [treclaim, ended.notices, areclaim, mem_groupSlots]; simp only [aorder]
    · have := ended.shared
      rw [areclaim] at this
      rw [treclaim]; exact this
    · have hb : t.groups.get h = b.groups.get h := by rw [tgroups]; exact others h hne
      have hc : t.config h = b.config h := by simp only [State.config, hb]
      have hs : a.config h = s.config h := by simp only [State.config, show a.groups = s.groups from sa .groups (by decide)]
      rw [hc, ended.config h, hs]
    · have hb : t.groups.get h = b.groups.get h := by rw [tgroups]; exact others h hne
      have hk : (⟨h, k⟩ : NoticeRef) ∉ groupSlots g := fun e => hne ((mem_groupSlots g _).mp e)
      have ho : t.order ⟨h, k⟩ = b.order ⟨h, k⟩ := by simp only [State.order, State.reclaimOf, hb]
      rw [ho, ended.orders _ hk, aorder]

end Sys2Proof.Machine
end

section
/-!
PROOFS. Notices that are written while a port has slots free (R95, R158), and CANCEL_ORDERS (R103), which ends every order, one slot after
another, and offers the notices of the ISSUED ones.
-/

namespace Sys2Proof.Machine

/-! ## Notices that are written -/

/-- What writing its notice makes of an order slot (R95). -/
inductive OrderWritten : Option Order → Option Order → Prop
  | sent (o : Order) (n : Nat) (h : o.phase = .pending) : OrderWritten (some o) (some { o with phase := .issued n })
  | expired (o : Order) (c : OrderCause) (h : o.phase = .closing c) : OrderWritten (some o) none

/-- A slot's notice is written once. -/
theorem OrderWritten.once {a b c : Option Order} (h : OrderWritten a b) : ¬ OrderWritten b c := by
  cases h with
  | sent o n _ => intro k; cases k with
    | sent _ _ h => cases h
    | expired _ _ h => cases h
  | expired => exact nofun

theorem State.noticePlace_congr {s t : State} (p : MasterId) (h : t.masters.get p = s.masters.get p) : t.noticePlace p = s.noticePlace p := by
  simp only [State.noticePlace, h]

/-- Writing a notice writes its order's slot and its port's ring, where there is an order that has a notice. -/
theorem State.writeNotice_cases (s : State) (p : MasterId) (r : NoticeRef) :
    let t := s.writeNotice p r
    (t.order r = s.order r ∨ OrderWritten (s.order r) (t.order r)) ∧ (∀ x, x ≠ r → t.order x = s.order x) ∧ s.OtherPorts p t := by
  cases ho : s.order r with
  | none =>
    have he : s.writeNotice p r = s := by simp only [State.writeNotice, ho]
    rw [he]; exact ⟨.inl ho, fun _ _ => rfl, fun _ _ => rfl⟩
  | some o =>
    cases hp : o.phase with
    | issued n =>
      have he : s.writeNotice p r = s := by simp only [State.writeNotice, ho, hp]
      rw [he]; exact ⟨.inl ho, fun _ _ => rfl, fun _ _ => rfl⟩
    | pending =>
      rw [s.writeNotice_pending p r o ho hp]
      obtain ⟨own, others, -, ports, -⟩ := s.posted_cases p r _ o (some { o with phase := .issued s.orderTicks }) ho
      exact ⟨.inr (by rw [own]; exact .sent o _ hp), others, ports⟩
    | closing c =>
      have hself : o = { o with phase := .closing c } := by rw [← hp]
      rw [s.writeNotice_closing p r o c (hself ▸ ho)]
      obtain ⟨own, others, -, ports, -⟩ := s.posted_cases p r (fun q => q.expired o r c) o none ho
      exact ⟨.inr (by rw [own]; exact .expired o c hp), others, ports⟩

/-- What writing some of a port's waiting notices leaves, the oldest first. -/
structure State.Flushed (s : State) (p : MasterId) (t : State) : Prop where
  ports : s.OtherPorts p t
  place : ∀ q, t.noticePlace q = true → s.noticePlace q = true
  notices : t.reclaim.notices.get p <:+ s.reclaim.notices.get p
  others : ∀ q, q ≠ p → t.reclaim.notices.get q = s.reclaim.notices.get q
  expiry : t.reclaim.expiry = s.reclaim.expiry
  orders : ∀ x, t.order x = s.order x ∨
    ((x ∈ s.reclaim.notices.get p ∧ s.noticePlace p = true) ∧ OrderWritten (s.order x) (t.order x))
  only : s.Only [.groups, .reclaim, .masters] t

theorem State.Flushed.refl (s : State) (p : MasterId) : s.Flushed p s where
  ports _ _ := rfl
  place _ h := h
  notices := List.suffix_rfl
  others _ _ := rfl
  expiry := rfl
  orders _ := .inl rfl
  only := .refl s _

theorem State.Flushed.trans {s t v : State} {p : MasterId} (h : s.Flushed p t) (k : t.Flushed p v) : s.Flushed p v where
  ports q hq := (k.ports q hq).trans (h.ports q hq)
  place q hq := h.place q (k.place q hq)
  notices := k.notices.trans h.notices
  others q hq := (k.others q hq).trans (h.others q hq)
  expiry := k.expiry.trans h.expiry
  orders x := by
    rcases k.orders x with hk | ⟨⟨hmem, hplace⟩, hk⟩
    · rw [hk]; exact h.orders x
    · rcases h.orders x with hs | ⟨-, hs⟩
      · rw [hs] at hk; exact .inr ⟨⟨h.notices.subset hmem, h.place p hplace⟩, hk⟩
      · exact absurd hk hs.once
  only := h.only.andThen k.only

theorem State.writeOldest_flushed (s : State) (p : MasterId) : s.Flushed p (s.writeOldest p) := by
  cases hn : s.reclaim.notices.get p with
  | nil =>
    have he : s.writeOldest p = s := by simp only [State.writeOldest, hn]
    rw [he]; exact .refl s p
  | cons r rest =>
    cases hplace : s.noticePlace p with
    | false =>
      have he : s.writeOldest p = s := by simp [State.writeOldest, hn, hplace]
      rw [he]; exact .refl s p
    | true =>
      let a := s.modNotices p (fun _ => rest)
      have he : s.writeOldest p = a.writeNotice p r := by simp [State.writeOldest, hn, hplace, a]
      have only := s.writeOldest_only p
      rw [he] at only ⊢
      obtain ⟨own, others, ports⟩ := a.writeNotice_cases p r
      have treclaim : (a.writeNotice p r).reclaim = a.reclaim := a.writeNotice_only p r .reclaim (by decide)
      have hself : a.reclaim.notices.get p = rest := Table.get_modify_self _ _ _
      refine ⟨ports, fun q hq => ?_, ?_, fun q hq => ?_, by rw [treclaim]; rfl, fun x => ?_, only⟩
      · by_cases hp : q = p
        · exact hp ▸ hplace
        · rwa [State.noticePlace_congr q (ports q hp)] at hq
      · rw [treclaim, hself, hn]; exact List.suffix_cons r rest
      · rw [treclaim]; exact Table.get_modify_ne _ _ _ _ hq
      · by_cases hx : x = r
        · subst hx
          exact own.imp id (fun h => ⟨⟨by rw [hn]; exact .head _, hplace⟩, h⟩)
        · exact .inl (others x hx)

theorem State.flushNotices_flushed (n : Nat) (s : State) (p : MasterId) : s.Flushed p (State.flushNotices n s p) := by
  induction n generalizing s with
  | zero => exact .refl s p
  | succ n ih => exact (s.writeOldest_flushed p).trans (ih _)

/-- A notice that is offered is the last of those that wait as they are written. -/
theorem State.offerNotice_flushed (s : State) (p : MasterId) (r : NoticeRef) :
    (s.modNotices p (· ++ [r])).Flushed p (s.offerNotice p r) := State.flushNotices_flushed _ _ p

/-! ## CANCEL-ORDERS on one slot -/

/-- A slot's notice may be written because notices of its port, or of another port with it among its notices, are. -/
def State.Flips (s : State) (x : NoticeRef) : Prop := ∃ w, x ∈ s.reclaim.notices.get w ∧ s.noticePlace w = true

/-- What CANCEL-ORDERS on one slot leaves (R103). -/
structure State.SlotCancelled (s : State) (r : NoticeRef) (t : State) : Prop where
  place : ∀ q, t.noticePlace q = true → s.noticePlace q = true
  waiting : ∀ q x, x ∈ t.reclaim.notices.get q → x ∈ s.reclaim.notices.get q ∨ (x = r ∧ ∃ o, s.order r = some o ∧ o.port = q)
  withdrawn : ∀ o, s.order r = some o → o.phase = .pending → t.order r = none ∧ r ∉ t.reclaim.notices.get o.port
  ended : ∀ o, t.order r = some o → ∃ c, o.phase = .closing c
  others : ∀ x, x ≠ r → t.order x = s.order x ∨
    ((∃ o, s.order r = some o ∧ x ∈ s.reclaim.notices.get o.port ∧ s.noticePlace o.port = true) ∧ OrderWritten (s.order x) (t.order x))
  elsewhere : ∀ p, (∀ o, s.order r = some o → o.port ≠ p) →
    t.reclaim.notices.get p = s.reclaim.notices.get p ∧ t.masters.get p = s.masters.get p
  units : ∀ u x, s.unit? u = some x → x.valid ≠ 0 → t.unit? u = some x.returned ∨ (t.unit? u = some x ∧ ¬ s.Holds r u)
  expiry : ∀ p, t.reclaim.expiry.get p = remembered ((s.order r).bind (Order.entry p)).toList (s.reclaim.expiry.get p)
  only : s.Only [.units, .streams, .groups, .reclaim, .dies, .masters] t

/-- A slot without an order, and one whose order is CLOSING, is left alone. -/
theorem State.SlotCancelled.idle (s : State) (r : NoticeRef) (h : ∀ o, s.order r = some o → ∃ c, o.phase = .closing c) :
    s.SlotCancelled r s where
  place _ hq := hq
  waiting _ _ hx := .inl hx
  withdrawn o ho hp := by
    obtain ⟨c, hc⟩ := h o ho
    rw [hp] at hc; cases hc
  ended := h
  others _ _ := .inl rfl
  elsewhere _ _ := ⟨rfl, rfl⟩
  units u x hx _ := .inr ⟨hx, fun ⟨o, ho, hp, _⟩ => by
    obtain ⟨c, hc⟩ := h o ho
    exact hp c hc⟩
  expiry p := by
    cases ho : s.order r with
    | none => rfl
    | some o =>
      obtain ⟨c, hc⟩ := h o ho
      show _ = remembered (o.entry p).toList _
      rw [o.entry_other p (by simp [hc])]; rfl
  only := .refl s _

/-- A unit with valid pages is SEALED once it returns, and others are left alone (R9, R10). -/
theorem State.returnToSealed_valid (s : State) (u v : Nat) (x : UnitRecord) (hx : s.unit? v = some x) (hv : x.valid ≠ 0) :
    (s.returnToSealed u).unit? v = some (if v = u then x.returned else x) := by
  by_cases h : v = u
  · subst h
    rw [s.returnToSealed_unit v x hx, UnitRecord.checked, if_neg (fun hl => hv (x.returned_leavesSealed.mp hl).1), if_pos rfl]
  · rw [(s.returnToSealed_change u).others v h, if_neg h, hx]

/-- The end of a slot's order that holds a unit in RECLAIM leaves the unit SEALED. -/
theorem State.cancelled_units {s t : State} {r : NoticeRef} {o : Order} (ho : s.order r = some o)
    (unit : ∀ v, t.unit? v = (s.returnToSealed o.unit).unit? v) (u : Nat) (x : UnitRecord) (hx : s.unit? u = some x) (hv : x.valid ≠ 0) :
    t.unit? u = some x.returned ∨ (t.unit? u = some x ∧ ¬ s.Holds r u) := by
  rw [unit, s.returnToSealed_valid o.unit u x hx hv]
  by_cases h : u = o.unit
  · exact .inl (by rw [if_pos h])
  · refine .inr ⟨by rw [if_neg h], fun ⟨o', ho', _, hu⟩ => h ?_⟩
    rw [← hu, Option.some.inj (ho.symm.trans ho')]

theorem State.withdrawOrder_cancelled (s : State) (r : NoticeRef) (o : Order) (ho : s.order r = some o) (hp : o.phase = .pending) :
    s.SlotCancelled r (s.withdrawOrder r o) := by
  obtain ⟨unit, own, orders, -, notices, shared⟩ := s.withdrawOrder_cases r o
  have only := s.withdrawOrder_only r o
  have hm : (s.withdrawOrder r o).masters = s.masters := only .masters (by decide)
  have expiry : (s.withdrawOrder r o).reclaim.expiry = s.reclaim.expiry := by rw [shared]
  refine ⟨fun q hq => ?_, fun q x hx => ?_, fun o' ho' _ => ⟨own, ?_⟩, by simp [own], fun x hx => .inl (orders x hx), fun p hne => ⟨?_, by rw [hm]⟩,
    State.cancelled_units ho unit, fun p => ?_, only.mono (by decide)⟩
  · exact (State.noticePlace_congr q (by rw [hm])).symm.trans hq
  · rw [notices, mem_dropped] at hx; exact .inl hx.1
  · obtain rfl : o = o' := Option.some.inj (ho.symm.trans ho')
    rw [notices, mem_dropped]; simp
  · rw [notices, if_neg (hne o ho)]
  · rw [expiry, ho, Option.bind_some, o.entry_other p (by simp [hp])]; rfl

/-- An entry is made in the expiry memory of one port (R97). -/
theorem remembered_set (t : Table 4 (List (Nat × Half))) (p q : MasterId) (v : Nat × Half) :
    (t.set q ((v :: t.get q).take 8)).get p = remembered (if q = p then some v else none).toList (t.get p) := by
  by_cases h : q = p
  · subst h; rw [Table.get_set_self, if_pos rfl]; rfl
  · rw [Table.get_set_ne _ _ _ _ (Ne.symm h), if_neg h]; rfl

theorem State.closeOrder_cancelled (s : State) (r : NoticeRef) (o : Order) (n : Nat) (ho : s.order r = some o) (hp : o.phase = .issued n) :
    s.SlotCancelled r (s.closeOrder r o .cancelled) := by
  have only := s.closeOrder_only r o .cancelled
  rw [s.closeOrder_eq] at only ⊢
  obtain ⟨unit, own, orders, reclaim, conly⟩ := s.closed_cases r o .cancelled ho
  generalize s.closed r o .cancelled = c at unit own orders reclaim conly only ⊢
  have cmasters : c.masters = s.masters :=
    (conly .masters (by decide)).trans ((s.returnToSealed_change o.unit).only .masters (by decide))
  have flushed := c.offerNotice_flushed o.port r
  let a := c.modNotices o.port (· ++ [r])
  have place : ∀ q, a.noticePlace q = s.noticePlace q := fun q => State.noticePlace_congr q (congrArg (Table.get · q) cmasters)
  have cnotices : c.reclaim.notices = s.reclaim.notices := by rw [reclaim]
  have anotices : ∀ q, a.reclaim.notices.get q = if o.port = q then s.reclaim.notices.get q ++ [r] else s.reclaim.notices.get q :=
    fun q => by rw [← cnotices]; exact Table.get_modify _ _ _ _
  have aorder : ∀ x, a.order x = c.order x := fun _ => rfl
  have tonly : c.Only [.groups, .reclaim, .masters] (c.offerNotice o.port r) := c.offerNotice_only o.port r
  refine ⟨fun q hq => by rw [← place]; exact flushed.place q hq, fun q x hx => ?_, fun o' ho' hp' => ?_, fun o' ho' => ?_, fun x hx => ?_,
    fun p hne => ⟨?_, ?_⟩, State.cancelled_units ho (fun v => (tonly.unit? v).trans (unit v)), fun p => ?_, only⟩
  · have ha : x ∈ a.reclaim.notices.get q := by
      by_cases hq : q = o.port
      · subst hq; exact flushed.notices.subset hx
      · rwa [flushed.others q hq] at hx
    rw [anotices] at ha
    by_cases hq : o.port = q
    · rw [if_pos hq] at ha
      exact (List.mem_append.mp ha).imp id (fun h => ⟨List.mem_singleton.mp h, o, ho, hq⟩)
    · rw [if_neg hq] at ha; exact .inl ha
  · obtain rfl : o = o' := Option.some.inj (ho.symm.trans ho')
    rw [hp] at hp'; cases hp'
  · rcases flushed.orders r with h | ⟨-, h⟩
    · rw [h, aorder, own] at ho'
      obtain rfl := Option.some.inj ho'
      exact ⟨_, rfl⟩
    · rw [ho', aorder, own] at h
      cases h with
      | sent _ _ h => cases h
  · rw [← orders x hx]
    refine (flushed.orders x).imp id (fun ⟨⟨hmem, hplace⟩, h⟩ => ⟨⟨o, ho, ?_, (place o.port).symm.trans hplace⟩, h⟩)
    rw [anotices, if_pos rfl] at hmem
    exact (List.mem_append.mp hmem).resolve_right (fun h => hx (List.mem_singleton.mp h))
  · rw [flushed.others p (Ne.symm (hne o ho)), anotices, if_neg (hne o ho)]
  · rw [flushed.ports p (Ne.symm (hne o ho))]
    show c.masters.get p = _
    rw [cmasters]
  · rw [flushed.expiry, ho, Option.bind_some, o.entry_issued p n hp]
    show c.reclaim.expiry.get p = _
    rw [reclaim]
    exact remembered_set _ p o.port _

theorem State.cancelSlot_cancelled (s : State) (r : NoticeRef) : s.SlotCancelled r (s.cancelSlot r) := by
  cases ho : s.order r with
  | none =>
    have he : s.cancelSlot r = s := by simp only [State.cancelSlot, ho]
    rw [he]; exact .idle s r (by simp [ho])
  | some o =>
    cases hp : o.phase with
    | pending =>
      have he : s.cancelSlot r = s.withdrawOrder r o := by simp only [State.cancelSlot, ho, hp]
      rw [he]; exact s.withdrawOrder_cancelled r o ho hp
    | issued n =>
      have he : s.cancelSlot r = s.closeOrder r o .cancelled := by simp only [State.cancelSlot, ho, hp]
      rw [he]; exact s.closeOrder_cancelled r o n ho hp
    | closing c =>
      have he : s.cancelSlot r = s := by simp only [State.cancelSlot, ho, hp]
      rw [he]; exact .idle s r (fun o' ho' => ⟨c, by rw [← Option.some.inj (ho.symm.trans ho'), hp]⟩)

/-! ## CANCEL-ORDERS on one slot after another -/

/-- An order that is not CLOSING, and its notice where it is written. -/
theorem OrderWritten.holds {s t : State} {r : NoticeRef} {u : Nat} (h : OrderWritten (s.order r) (t.order r)) (hs : s.Holds r u) :
    t.Holds r u := by
  obtain ⟨o, ho, hp, hu⟩ := hs
  unfold State.Holds
  rw [ho] at h
  cases ht : t.order r with
  | none =>
    rw [ht] at h
    cases h with
    | expired _ c hc => exact absurd hc (hp c)
  | some o' =>
    rw [ht] at h
    cases h with
    | sent _ n _ => exact ⟨_, rfl, nofun, hu⟩

/-- An order keeps its port, its unit and its number as its notice is written. -/
theorem OrderWritten.kept {a : Option Order} {o' : Order} (h : OrderWritten a (some o')) :
    ∃ o, a = some o ∧ o.phase = .pending ∧ o'.port = o.port ∧ o'.unit = o.unit ∧ o'.number = o.number := by
  cases h with
  | sent o n hp => exact ⟨o, rfl, hp, rfl, rfl, rfl⟩

/-- What the orders of the slots in `done` leave as CANCEL-ORDERS has ended them one after another (R103), from the state `s`. -/
structure State.Cancelling (s : State) (done : List NoticeRef) (t : State) : Prop where
  place : ∀ q, t.noticePlace q = true → s.noticePlace q = true
  waiting : ∀ q x, x ∈ t.reclaim.notices.get q →
    x ∈ s.reclaim.notices.get q ∨ (x ∈ done ∧ ∃ o, s.order x = some o ∧ o.port = q)
  todo : ∀ x, x ∉ done → t.order x = s.order x ∨ (s.Flips x ∧ OrderWritten (s.order x) (t.order x))
  ended : ∀ x ∈ done, ∀ o, t.order x = some o → ∃ c, o.phase = .closing c
  withdrawn : ∀ x ∈ done, ∀ o, s.order x = some o → o.phase = .pending → ¬ s.Flips x →
    t.order x = none ∧ x ∉ t.reclaim.notices.get o.port
  units : ∀ u x, s.unit? u = some x → x.valid ≠ 0 →
    t.unit? u = some x.returned ∨ (t.unit? u = some x ∧ ∀ r ∈ done, ¬ s.Holds r u)
  remembers : ∀ p, ∀ v ∈ t.reclaim.expiry.get p, v ∈ s.reclaim.expiry.get p ∨ ∃ r ∈ done, ∃ o, s.order r = some o ∧ o.port = p ∧
    v = (o.unit, o.number) ∧ (orderSlotCode (some o) = 2 ∨ (o.phase = .pending ∧ s.Flips r))
  expiry : ∀ p, (∀ r o, s.order r = some o → o.port = p → o.phase = .pending → ¬ s.Flips r) →
    t.reclaim.expiry.get p = remembered (s.entries p done) (s.reclaim.expiry.get p)
  only : s.Only [.units, .streams, .groups, .reclaim, .dies, .masters] t

theorem State.Cancelling.start (s : State) : s.Cancelling [] s where
  place _ h := h
  waiting _ _ h := .inl h
  todo _ _ := .inl rfl
  ended x hx := by cases hx
  withdrawn x hx := by cases hx
  units u x hx _ := .inr ⟨hx, fun r hr => by cases hr⟩
  remembers _ _ h := .inl h
  expiry _ _ := rfl
  only := .refl s _

/-- The order of a slot that is still to be done, as it was at the start or with its notice written. -/
theorem State.Cancelling.found {s t : State} {done : List NoticeRef} (h : s.Cancelling done t) {r : NoticeRef} (hr : r ∉ done) {o' : Order}
    (ho' : t.order r = some o') : s.order r = some o' ∨ (s.Flips r ∧ ∃ o, s.order r = some o ∧ o.phase = .pending ∧
      o'.port = o.port ∧ o'.unit = o.unit ∧ o'.number = o.number) := by
  rcases h.todo r hr with e | ⟨flips, w⟩
  · exact .inl (e ▸ ho')
  · rw [ho'] at w; exact .inr ⟨flips, w.kept⟩

/-- The entry that the order of a slot makes is that of the order it held at the start, unless its notice is written. -/
theorem State.Cancelling.entry {s t : State} {done : List NoticeRef} (h : s.Cancelling done t) {r : NoticeRef} (hr : r ∉ done) (p : MasterId)
    (hp : ∀ o, s.order r = some o → o.port = p → o.phase = .pending → ¬ s.Flips r) :
    (t.order r).bind (Order.entry p) = (s.order r).bind (Order.entry p) := by
  rcases h.todo r hr with e | ⟨flips, w⟩
  · rw [e]
  · generalize t.order r = b at w
    generalize hs : s.order r = a at w hp
    cases w with
    | sent o n hpend =>
      have hport : o.port ≠ p := fun e => hp o rfl e hpend flips
      simp [Order.entry, hport]
    | expired o c hc => simp [o.entry_other p (by simp [hc])]

/-- CANCEL-ORDERS on one slot more. -/
theorem State.Cancelling.next {s t v : State} {done : List NoticeRef} (h : s.Cancelling done t) (r : NoticeRef) (hr : r ∉ done)
    (k : t.SlotCancelled r v) : s.Cancelling (done ++ [r]) v where
  place q hq := h.place q (k.place q hq)
  waiting q x hx := by
    rcases k.waiting q x hx with hx | ⟨rfl, o', ho', hport⟩
    · exact (h.waiting q x hx).imp id (fun ⟨hd, ho⟩ => ⟨List.mem_append_left _ hd, ho⟩)
    · refine .inr ⟨by simp, ?_⟩
      rcases h.found hr ho' with ho | ⟨-, o, ho, -, hp, -⟩
      · exact ⟨o', ho, hport⟩
      · exact ⟨o, ho, hp ▸ hport⟩
  todo x hx := by
    simp only [List.mem_append, List.mem_singleton, not_or] at hx
    rcases k.others x hx.2 with e | ⟨⟨o, -, hmem, hplace⟩, w⟩
    · rw [e]; exact h.todo x hx.1
    · rcases h.todo x hx.1 with e | ⟨-, w'⟩
      · rw [e] at w
        exact .inr ⟨⟨o.port, (h.waiting _ x hmem).resolve_right (fun e => hx.1 e.1), h.place _ hplace⟩, w⟩
      · exact absurd w w'.once
  ended x hx o ho := by
    by_cases hxr : x = r
    · subst hxr; exact k.ended o ho
    · have hd : x ∈ done := by simpa [hxr] using hx
      rcases k.others x hxr with e | ⟨-, w⟩
      · exact h.ended x hd o (e ▸ ho)
      · rw [ho] at w
        obtain ⟨o₀, ho₀, hp, -⟩ := w.kept
        obtain ⟨c, hc⟩ := h.ended x hd o₀ ho₀
        rw [hp] at hc; cases hc
  withdrawn x hx o ho hp hf := by
    by_cases hxr : x = r
    · subst hxr
      have ht : t.order x = some o := ((h.todo x hr).resolve_right (fun e => hf e.1)).trans ho
      exact k.withdrawn o ht hp
    · have hd : x ∈ done := by simpa [hxr] using hx
      obtain ⟨hnone, hnot⟩ := h.withdrawn x hd o ho hp hf
      refine ⟨?_, fun hmem => ?_⟩
      · rcases k.others x hxr with e | ⟨-, w⟩
        · rw [e, hnone]
        · rw [hnone] at w; cases w
      · exact (k.waiting _ x hmem).elim hnot (fun e => hxr e.1)
  units u x hx hv := by
    rcases h.units u x hx hv with e | ⟨e, hnone⟩
    · exact .inl ((k.units u x.returned e hv).elim id (·.1))
    · refine (k.units u x e hv).imp id (fun ⟨hu, hheld⟩ => ⟨hu, fun j hj hs => ?_⟩)
      rcases List.mem_append.mp hj with hj | hj
      · exact hnone j hj hs
      · obtain rfl := List.mem_singleton.mp hj
        rcases h.todo j hr with e | ⟨-, w⟩
        · exact hheld (by unfold State.Holds; rw [e]; exact hs)
        · exact hheld (w.holds hs)
  remembers p e he := by
    rw [k.expiry] at he
    rcases mem_remembered _ _ _ he with he | he
    · rw [Option.mem_toList] at he
      obtain ⟨o', ho', hentry⟩ := Option.bind_eq_some_iff.mp he
      rw [Order.entry] at hentry
      split at hentry
      · next hcode =>
        obtain ⟨hport, hcode⟩ := hcode
        refine .inr ⟨r, by simp, ?_⟩
        rcases h.found hr ho' with ho | ⟨flips, o, ho, hp, eport, eunit, enumber⟩
        · exact ⟨o', ho, hport, (Option.some.inj hentry).symm, .inl hcode⟩
        · exact ⟨o, ho, eport ▸ hport, by rw [← eunit, ← enumber]; exact (Option.some.inj hentry).symm, .inr ⟨hp, flips⟩⟩
      · cases hentry
    · exact (h.remembers p e he).imp id (fun ⟨j, hj, hrest⟩ => ⟨j, List.mem_append_left _ hj, hrest⟩)
  expiry p hp := by
    rw [k.expiry, h.expiry p hp, remembered_append, s.entries_append, h.entry hr p (hp r)]
  only := h.only.andThen k.only

end Sys2Proof.Machine
end

section
/-!
PROOFS. CANCEL_ORDERS (R103) and the notices of one port: which of its ISSUED orders' notices are written and which wait (R95).
-/

namespace Sys2Proof.Machine

/-! ## The notices of one port's orders -/

/-- Whether a slot holds an order of a port in a phase, given by its slot code. -/
def State.heldBy (s : State) (p : MasterId) (code : Nat) (r : NoticeRef) : Bool :=
  (s.order r).any (fun o => decide (o.port = p ∧ orderSlotCode (some o) = code))

theorem State.heldBy_iff (s : State) (p : MasterId) (code : Nat) (r : NoticeRef) :
    s.heldBy p code r = true ↔ ∃ o, s.order r = some o ∧ o.port = p ∧ orderSlotCode (some o) = code := by
  simp only [State.heldBy, Option.any_eq_true, decide_eq_true_eq]

/-- The notices that a port still takes (R158). -/
def State.noticeRoom (s : State) (p : MasterId) : Nat := if s.noticePlace p then 8 - (s.masters.get p).ring.noticeHoldings else 0

/-- A port's rings with the ORDER-EXPIRED notices of several slots' orders written one after another (R95). -/
def State.expiredRing (s : State) (l : List NoticeRef) (q : Ring) : Ring :=
  l.foldl (fun ring r => match s.order r with
    | some o => ring.expired o r .cancelled
    | none => ring) q

theorem State.expiredRing_append (s : State) (l : List NoticeRef) (r : NoticeRef) (o : Order) (q : Ring) (h : s.order r = some o) :
    s.expiredRing (l ++ [r]) q = (s.expiredRing l q).expired o r .cancelled := by
  simp only [State.expiredRing, List.foldl_append, List.foldl_cons, List.foldl_nil, h]

theorem State.expiredRing_holdings (s : State) (l : List NoticeRef) (q : Ring) (h : ∀ r ∈ l, ∃ o, s.order r = some o) :
    (s.expiredRing l q).noticeHoldings = q.noticeHoldings + l.length := by
  induction l using List.reverseRecOn with
  | nil => rfl
  | append_singleton l r ih =>
    obtain ⟨o, ho⟩ := h r (by simp)
    rw [s.expiredRing_append l r o q ho]
    show (s.expiredRing l q).noticeHoldings + 1 = _
    rw [ih (fun x hx => h x (List.mem_append_left _ hx)), List.length_append]; rfl

/-- No notice of an order of the port is written before its own order has ended: no other port has one among its notices, and the port has
none or does not write them. -/
structure State.NoneSent (s : State) (p : MasterId) : Prop where
  apart : ∀ r o w, s.order r = some o → o.port = p → w ≠ p → r ∉ s.reclaim.notices.get w
  blocked : s.reclaim.notices.get p = [] ∨ s.noticePlace p = false

theorem State.NoneSent.not_flips {s : State} {p : MasterId} (h : s.NoneSent p) {r : NoticeRef} {o : Order} (ho : s.order r = some o)
    (hp : o.port = p) : ¬ s.Flips r := by
  rintro ⟨w, hmem, hplace⟩
  by_cases hw : w = p
  · subst hw
    rcases h.blocked with e | e
    · rw [e] at hmem; cases hmem
    · rw [hplace] at e; cases e
  · exact h.apart r o w ho hp hw hmem

/-- What CANCEL-ORDERS leaves of one port's rings, notices and ISSUED orders when it has ended the orders of the slots in `done` (R95, R103). -/
structure State.Offered (s : State) (p : MasterId) (done : List NoticeRef) (t : State) : Prop where
  notices : t.reclaim.notices.get p = (s.reclaim.notices.get p).filter (fun x => decide (x ∉ done.filter (s.heldBy p 1))) ++
    (done.filter (s.heldBy p 2)).drop (s.noticeRoom p)
  master : t.masters.get p = { s.masters.get p with
    ring := s.expiredRing ((done.filter (s.heldBy p 2)).take (s.noticeRoom p)) (s.masters.get p).ring }
  written : ∀ r ∈ (done.filter (s.heldBy p 2)).take (s.noticeRoom p), t.order r = none
  waits : ∀ r ∈ (done.filter (s.heldBy p 2)).drop (s.noticeRoom p), ∀ o, s.order r = some o →
    t.order r = some { o with phase := .closing .cancelled }

theorem State.Offered.start (s : State) (p : MasterId) : s.Offered p [] s where
  notices := by simp
  master := by simp [State.expiredRing]
  written r hr := by simp at hr
  waits r hr := by simp at hr

/-- The port takes a notice more as long as fewer have been written than it had room for. -/
theorem State.Offered.place_iff {s t : State} {p : MasterId} {done : List NoticeRef} (h : s.Offered p done t) :
    t.noticePlace p = true ↔ (done.filter (s.heldBy p 2)).length < s.noticeRoom p := by
  have held : ∀ r ∈ (done.filter (s.heldBy p 2)).take (s.noticeRoom p), ∃ o, s.order r = some o := fun r hr => by
    obtain ⟨o, ho, -⟩ := (s.heldBy_iff p 2 r).mp (List.mem_filter.mp (List.mem_of_mem_take hr)).2
    exact ⟨o, ho⟩
  have hholdings := s.expiredRing_holdings _ (s.masters.get p).ring held
  rw [List.length_take] at hholdings
  have hroom : s.noticeRoom p = if s.noticePlace p then 8 - (s.masters.get p).ring.noticeHoldings else 0 := rfl
  cases hplace : s.noticePlace p with
  | false =>
    have hzero : s.noticeRoom p = 0 := by rw [hroom, hplace]; rfl
    have hm : t.masters.get p = s.masters.get p := by rw [h.master, hzero]; rfl
    rw [State.noticePlace_congr p hm, hplace, hzero]; simp
  | true =>
    rw [hplace, if_pos rfl] at hroom
    simp only [State.noticePlace, Bool.and_eq_true, decide_eq_true_eq] at hplace ⊢
    rw [h.master]
    show (_ ∧ (s.expiredRing _ _).noticeHoldings < 8) ↔ _
    have hlimit : (s.masters.get p).ring.noticeHoldings < 8 := hplace.2
    rw [hholdings, hroom]
    constructor
    · rintro ⟨-, hlt⟩; omega
    · exact fun hlt => ⟨hplace.1, by omega⟩

/-- A slot that holds no PENDING and no ISSUED order of the port changes nothing for it. -/
theorem State.Offered.skip {s t v : State} {p : MasterId} {done : List NoticeRef} (h : s.Offered p done t) (r : NoticeRef)
    (h1 : s.heldBy p 1 r = false) (h2 : s.heldBy p 2 r = false) (notices : v.reclaim.notices.get p = t.reclaim.notices.get p)
    (master : v.masters.get p = t.masters.get p) (orders : ∀ x ∈ done.filter (s.heldBy p 2), v.order x = t.order x) :
    s.Offered p (done ++ [r]) v := by
  have e1 : (done ++ [r]).filter (s.heldBy p 1) = done.filter (s.heldBy p 1) := by simp [List.filter_append, h1]
  have e2 : (done ++ [r]).filter (s.heldBy p 2) = done.filter (s.heldBy p 2) := by simp [List.filter_append, h2]
  constructor
  · rw [e1, e2, notices, h.notices]
  · rw [e2, master, h.master]
  · rw [e2]; exact fun x hx => (orders x (List.mem_of_mem_take hx)).trans (h.written x hx)
  · rw [e2]; exact fun x hx o ho => (orders x (List.mem_of_mem_drop hx)).trans (h.waits x hx o ho)

/-- A PENDING order of the port is withdrawn with its notice. -/
theorem State.Offered.withdraw {s t : State} {p : MasterId} {done : List NoticeRef} (h : s.Offered p done t) (r : NoticeRef) (hr : r ∉ done)
    (o : Order) (ho : s.order r = some o) (hp : o.port = p) (hpend : o.phase = .pending) :
    s.Offered p (done ++ [r]) (t.withdrawOrder r o) := by
  obtain ⟨-, -, orders, -, notices, -⟩ := t.withdrawOrder_cases r o
  have h1 : s.heldBy p 1 r = true := (s.heldBy_iff p 1 r).mpr ⟨o, ho, hp, (orderSlotCode_pending o).mpr hpend⟩
  have h2 : s.heldBy p 2 r = false := by simp [State.heldBy, ho, (orderSlotCode_pending o).mpr hpend]
  have e1 : (done ++ [r]).filter (s.heldBy p 1) = done.filter (s.heldBy p 1) ++ [r] := by simp [List.filter_append, h1]
  have e2 : (done ++ [r]).filter (s.heldBy p 2) = done.filter (s.heldBy p 2) := by simp [List.filter_append, h2]
  have hne : ∀ x ∈ done.filter (s.heldBy p 2), x ≠ r := fun x hx e => hr (e ▸ (List.mem_filter.mp hx).1)
  have hm : (t.withdrawOrder r o).masters = t.masters := t.withdrawOrder_only r o .masters (by decide)
  constructor
  · rw [e1, e2, notices, if_pos hp, h.notices, List.filter_append, List.filter_filter]
    congr 1
    · refine List.filter_congr (fun x _ => ?_)
      simp [and_comm]
    · exact List.filter_eq_self.mpr (fun x hx => decide_eq_true (hne x (List.mem_of_mem_drop hx)))
  · rw [e2, hm, h.master]
  · rw [e2]; exact fun x hx => (orders x (hne x (List.mem_of_mem_take hx))).trans (h.written x hx)
  · rw [e2]; exact fun x hx y hy => (orders x (hne x (List.mem_of_mem_drop hx))).trans (h.waits x hx y hy)

/-- The notice of an ISSUED order of the port is written while it has room, and waits otherwise. -/
theorem State.Offered.expire {s t : State} {p : MasterId} {done : List NoticeRef} (h : s.Offered p done t) (sent : s.NoneSent p)
    (r : NoticeRef) (hr : r ∉ done) (o : Order) (n : Nat) (ho : s.order r = some o) (hp : o.port = p) (hissued : o.phase = .issued n)
    (ht : t.order r = some o) : s.Offered p (done ++ [r]) (t.closeOrder r o .cancelled) := by
  subst hp
  have hcode : orderSlotCode (some o) = 2 := (orderSlotCode_issued o).mpr ⟨n, hissued⟩
  have h1 : s.heldBy o.port 1 r = false := by simp [State.heldBy, ho, hcode]
  have h2 : s.heldBy o.port 2 r = true := (s.heldBy_iff o.port 2 r).mpr ⟨o, ho, rfl, hcode⟩
  have e1 : (done ++ [r]).filter (s.heldBy o.port 1) = done.filter (s.heldBy o.port 1) := by simp [List.filter_append, h1]
  have e2 : (done ++ [r]).filter (s.heldBy o.port 2) = done.filter (s.heldBy o.port 2) ++ [r] := by simp [List.filter_append, h2]
  have hne : ∀ x ∈ done.filter (s.heldBy o.port 2), x ≠ r := fun x hx e => hr (e ▸ (List.mem_filter.mp hx).1)
  obtain ⟨-, own, orders, reclaim, conly⟩ := t.closed_cases r o .cancelled ht
  have cmasters : (t.closed r o .cancelled).masters = t.masters :=
    (conly .masters (by decide)).trans ((t.returnToSealed_change o.unit).only .masters (by decide))
  rw [t.closeOrder_eq]
  generalize t.closed r o .cancelled = c at own orders reclaim cmasters ⊢
  have cnotices : c.reclaim.notices = t.reclaim.notices := by rw [reclaim]
  have cplace : c.noticePlace o.port = t.noticePlace o.port := State.noticePlace_congr _ (by rw [cmasters])
  by_cases hlt : (done.filter (s.heldBy o.port 2)).length < s.noticeRoom o.port
  · have hplace : c.noticePlace o.port = true := cplace.trans (h.place_iff.mpr hlt)
    have hdrop : (done.filter (s.heldBy o.port 2)).drop (s.noticeRoom o.port) = [] := List.drop_eq_nil_of_le (Nat.le_of_lt hlt)
    have htake : (done.filter (s.heldBy o.port 2)).take (s.noticeRoom o.port) = done.filter (s.heldBy o.port 2) :=
      List.take_of_length_le (Nat.le_of_lt hlt)
    have hdrop' : (done.filter (s.heldBy o.port 2) ++ [r]).drop (s.noticeRoom o.port) = [] :=
      List.drop_eq_nil_of_le (by rw [List.length_append]; exact hlt)
    have htake' : (done.filter (s.heldBy o.port 2) ++ [r]).take (s.noticeRoom o.port) = done.filter (s.heldBy o.port 2) ++ [r] :=
      List.take_of_length_le (by rw [List.length_append]; exact hlt)
    have hempty : s.reclaim.notices.get o.port = [] := sent.blocked.resolve_right (fun hf => by
      rw [State.noticeRoom, hf] at hlt; exact Nat.not_lt_zero _ hlt)
    have tempty : t.reclaim.notices.get o.port = [] := by rw [h.notices, hempty, hdrop]; rfl
    obtain ⟨none, others, master, -, only⟩ := c.posted_cases o.port r (fun q => q.expired o r .cancelled) _ none own
    rw [c.offerNotice_written o.port r hplace (by rw [cnotices]; exact tempty), c.writeNotice_closing o.port r o .cancelled own]
    constructor
    · rw [e2, hdrop', only .reclaim (by decide), cnotices, tempty, hempty]; rfl
    · rw [e2, htake', master, cmasters, s.expiredRing_append _ r o _ ho, h.master, htake]
    · rw [e2, htake']
      intro x hx
      rcases List.mem_append.mp hx with hx | hx
      · exact ((others x (hne x hx)).trans (orders x (hne x hx))).trans (h.written x (by rw [htake]; exact hx))
      · rw [List.mem_singleton.mp hx]; exact none
    · rw [e2, hdrop']; exact nofun
  · have hplace : c.noticePlace o.port = false := by
      rw [cplace, ← Bool.not_eq_true, h.place_iff]; exact hlt
    have hle : s.noticeRoom o.port ≤ (done.filter (s.heldBy o.port 2)).length := Nat.le_of_not_lt hlt
    have hdrop' : (done.filter (s.heldBy o.port 2) ++ [r]).drop (s.noticeRoom o.port) =
        (done.filter (s.heldBy o.port 2)).drop (s.noticeRoom o.port) ++ [r] := List.drop_append_of_le_length hle
    have htake' : (done.filter (s.heldBy o.port 2) ++ [r]).take (s.noticeRoom o.port) =
        (done.filter (s.heldBy o.port 2)).take (s.noticeRoom o.port) := List.take_append_of_le_length hle
    rw [c.offerNotice_waits o.port r hplace]
    constructor
    · rw [e1, e2, hdrop', ← List.append_assoc, ← h.notices, ← cnotices]; exact Table.get_modify_self _ _ _
    · rw [e2, htake', ← h.master, ← cmasters]; rfl
    · rw [e2, htake']
      exact fun x hx => (orders x (hne x (List.mem_of_mem_take hx))).trans (h.written x hx)
    · rw [e2, hdrop']
      intro x hx y hy
      rcases List.mem_append.mp hx with hx | hx
      · exact (orders x (hne x (List.mem_of_mem_drop hx))).trans (h.waits x hx y hy)
      · rw [List.mem_singleton.mp hx] at hy ⊢
        rw [← Option.some.inj (ho.symm.trans hy)]; exact own

/-- CANCEL-ORDERS on one slot more, for one port. -/
theorem State.Offered.next {s t : State} {p : MasterId} {done : List NoticeRef} (h : s.Offered p done t) (all : s.Cancelling done t)
    (sent : s.NoneSent p) (r : NoticeRef) (hr : r ∉ done) : s.Offered p (done ++ [r]) (t.cancelSlot r) := by
  by_cases hport : ∃ o, s.order r = some o ∧ o.port = p
  · obtain ⟨o, ho, hp⟩ := hport
    have ht : t.order r = some o := ((all.todo r hr).resolve_right (fun e => sent.not_flips ho hp e.1)).trans ho
    cases hphase : o.phase with
    | pending =>
      have he : t.cancelSlot r = t.withdrawOrder r o := by simp only [State.cancelSlot, ht, hphase]
      rw [he]; exact h.withdraw r hr o ho hp hphase
    | issued n =>
      have he : t.cancelSlot r = t.closeOrder r o .cancelled := by simp only [State.cancelSlot, ht, hphase]
      rw [he]; exact h.expire sent r hr o n ho hp hphase ht
    | closing c =>
      have he : t.cancelSlot r = t := by simp only [State.cancelSlot, ht, hphase]
      rw [he]
      exact h.skip r (by simp [State.heldBy, ho, orderSlotCode, hphase]) (by simp [State.heldBy, ho, orderSlotCode, hphase]) rfl rfl
        (fun _ _ => rfl)
  · have unheld : ∀ code, s.heldBy p code r = false := fun code => by
      rw [← Bool.not_eq_true, s.heldBy_iff]
      exact fun ⟨o, ho, hp, _⟩ => hport ⟨o, ho, hp⟩
    have tport : ∀ o, t.order r = some o → o.port ≠ p := fun o' ho' hp => by
      rcases all.found hr ho' with ho | ⟨-, o, ho, -, e, -⟩
      · exact hport ⟨o', ho, hp⟩
      · exact hport ⟨o, ho, e ▸ hp⟩
    have k := t.cancelSlot_cancelled r
    obtain ⟨notices, master⟩ := k.elsewhere p tport
    refine h.skip r (unheld 1) (unheld 2) notices master (fun x hx => ?_)
    obtain ⟨hd, hx2⟩ := List.mem_filter.mp hx
    obtain ⟨o, ho, hp, -⟩ := (s.heldBy_iff p 2 x).mp hx2
    refine (k.others x (fun e => hr (e ▸ hd))).resolve_right ?_
    rintro ⟨⟨y, hy, hmem, -⟩, -⟩
    rcases all.waiting y.port x hmem with hmem | ⟨-, o', ho', hp'⟩
    · exact sent.apart x o y.port ho hp (tport y hy) hmem
    · obtain rfl := Option.some.inj (ho.symm.trans ho')
      exact tport y hy (hp'.symm.trans hp)

/-- The slots that CANCEL-ORDERS goes through are all slots, each once. -/
theorem mem_allSlots (r : NoticeRef) : r ∈ allSlots := by
  simp only [allSlots, List.mem_flatMap, List.mem_finRange, List.mem_map, true_and]
  exact ⟨r.group, r.slot, rfl⟩

theorem allSlots_nodup : allSlots.Nodup := by decide

/-- What CANCEL-ORDERS leaves of every order, notice and unit, and of the notices of a port for which none is written early. -/
theorem State.cancelAll_cases (s : State) :
    let t := allSlots.foldl State.cancelSlot s
    s.Cancelling allSlots t ∧ ∀ p, s.NoneSent p → s.Offered p allSlots t := by
  refine foldl_done (fun done t => s.Cancelling done t ∧ ∀ p, s.NoneSent p → s.Offered p done t) State.cancelSlot allSlots allSlots_nodup s
    ⟨.start s, fun p _ => .start s p⟩ (fun done t r hr ⟨all, each⟩ => ⟨all.next r hr (t.cancelSlot_cancelled r), fun p sent => ?_⟩)
  exact (each p sent).next all sent r hr

/-- The entries of a port's ISSUED orders are those that its orders make. -/
theorem State.entries_eq (s : State) (p : MasterId) (l : List NoticeRef) :
    s.entries p l = (l.filter (s.heldBy p 2)).reverse.filterMap (fun r => (s.order r).map (fun o => (o.unit, o.number))) := by
  rw [State.entries, ← List.filter_reverse, List.filterMap_filter]
  refine List.filterMap_congr (fun r _ => ?_)
  cases ho : s.order r with
  | none => simp
  | some o => simp [State.heldBy, ho, Order.entry]

theorem State.entries_nil_iff (s : State) (p : MasterId) (l : List NoticeRef) :
    s.entries p l = [] ↔ l.filter (s.heldBy p 2) = [] := by
  rw [s.entries_eq, List.filterMap_eq_nil_iff, List.eq_nil_iff_forall_not_mem]
  refine ⟨fun h r hr => ?_, fun h r hr => absurd (List.mem_reverse.mp hr) (h r)⟩
  obtain ⟨o, ho, -⟩ := (s.heldBy_iff p 2 r).mp (List.mem_filter.mp hr).2
  have := h r (List.mem_reverse.mpr hr)
  rw [ho] at this; cases this

/-- Settles O51: the orders end as `State.Cancelling` says, and the notices of a port as `State.Offered` says. -/
theorem cancelOrdersEndsOrders : Obligations.CancelOrdersEndsOrders := by
  unfold Obligations.CancelOrdersEndsOrders
  intro s hr q held issued free entered apart
  let a := s.taken .management
  have he : exec .cancelOrders s = .next (cancelOrdersRequest q a) :=
    exec_of_kind s .management kindCancelOrders cancelOrdersRequest _ rfl hr
  have sa : s.Only [.mport] a := s.taken_only_management
  refine ⟨fun hd => onlyAnswered_of_exec (he.trans (congrArg _ (if_pos hd))), fun hd => ?_⟩
  let body := leBytes 1 (a.countOrders 1) ++ leBytes 1 (a.countOrders 2)
  have ht : exec .cancelOrders s = .next (q.answer (allSlots.foldl State.cancelSlot a) .ok body) := he.trans (congrArg _ (if_neg hd))
  obtain ⟨all, each⟩ := a.cancelAll_cases
  generalize allSlots.foldl State.cancelSlot a = b at ht all each
  let t := q.answer b .ok body
  have bt : b.Only [.mport] t := q.answer_only_management rfl _ _ _ []
  have aorder : ∀ x, a.order x = s.order x := fun x => State.order_congr (sa .groups (by decide)) x
  have areclaim : a.reclaim = s.reclaim := sa .reclaim (by decide)
  have amasters : a.masters = s.masters := sa .masters (by decide)
  have aplace : ∀ p, a.noticePlace p = s.noticePlace p := fun p => State.noticePlace_congr p (by rw [amasters])
  have torder : ∀ x, t.order x = b.order x := fun x => State.order_congr (bt .groups (by decide)) x
  have treclaim : t.reclaim = b.reclaim := bt .reclaim (by decide)
  have tmasters : t.masters = b.masters := bt .masters (by decide)
  have hheld : ∀ p code, allSlots.filter (a.heldBy p code) = held p code := fun p code =>
    List.filter_congr (fun r _ => by rw [State.heldBy, aorder])
  have hissued : ∀ p, allSlots.filter (a.heldBy p 2) = issued p := fun p => hheld p 2
  have hroom : ∀ p, a.noticeRoom p = free p := fun p => by simp only [State.noticeRoom, aplace, amasters]; rfl
  have hentered : ∀ p, a.entries p allSlots = entered p := fun p => by rw [a.entries_eq, hissued]; simp only [aorder]; rfl
  have offered : ∀ p, apart p → (s.reclaim.notices.get p = [] ∨ s.noticePlace p = false) →
      t.reclaim.notices.get p = (s.reclaim.notices.get p).filter (fun x => decide (x ∉ held p 1)) ++ (issued p).drop (free p) ∧
      t.masters.get p = { s.masters.get p with ring := s.expiredRing ((issued p).take (free p)) (s.masters.get p).ring } ∧
      (∀ r ∈ (issued p).take (free p), t.order r = none) ∧
      ∀ r ∈ (issued p).drop (free p), ∀ o, s.order r = some o → t.order r = some { o with phase := .closing .cancelled } := by
    intro p hapart hblocked
    have sent : a.NoneSent p := ⟨by simpa only [aorder, areclaim] using hapart, by rw [areclaim, aplace]; exact hblocked⟩
    obtain ⟨notices, master, written, waits⟩ := each p sent
    rw [hissued, hroom] at master written waits
    rw [hissued, hheld, hroom, areclaim] at notices
    refine ⟨by rw [treclaim]; exact notices, ?_, fun r hr => (torder r).trans (written r hr),
      fun r hr o ho => (torder r).trans (waits r hr o ((aorder r).trans ho))⟩
    rw [tmasters, master, amasters]
    simp only [State.expiredRing, aorder]
  have exact_expiry : ∀ p, (∀ r o w, s.order r = some o → o.port = p → o.phase = .pending → r ∈ s.reclaim.notices.get w →
      s.noticePlace w = false) → b.reclaim.expiry.get p = remembered (a.entries p allSlots) (a.reclaim.expiry.get p) := fun p hp =>
    all.expiry p (fun r o ho hport hpend ⟨w, hmem, hw⟩ => by
      have := hp r o w ((aorder r).symm.trans ho) hport hpend (areclaim ▸ hmem)
      rw [← aplace, hw] at this; cases this)
  refine ⟨t, ht, ?_, fun r o ho => ?_, fun r o x ho hp hx hv => ?_, fun p v hv => ?_, fun r o ho hp hplace hnot => ?_,
    fun p hp => ⟨fun hnil => ?_, fun hne => ?_⟩, fun p hapart hempty => ?_, fun p hapart hplace => ?_, ?_⟩
  · have hkind : q.kind = kindCancelOrders := hr.2
    have hmport : b.mport = s.mport.take := all.only .mport (by decide)
    have hcount : ∀ code, a.countOrders code = s.countOrders code := fun code => by simp only [State.countOrders, aorder]
    show b.mport.writeReply s.mport.freeSlot (replyRecord q.kind q.tag .ok body) [] = _
    rw [hmport, hkind, show body = leBytes 1 (s.countOrders 1) ++ leBytes 1 (s.countOrders 2) by simp only [body, hcount]]; rfl
  · exact all.ended r (mem_allSlots r) o ((torder r).symm.trans ho)
  · have hsealed : t.unit? o.unit = some x.returned := by
      rw [bt.unit?]
      exact (all.units o.unit x ((sa.unit? _).trans hx) hv).resolve_right
        (fun h => h.2 r (mem_allSlots r) ⟨o, (aorder r).trans ho, hp, rfl⟩)
    rw [State.unitState, hsealed]; rfl
  · rw [treclaim] at hv
    have := all.remembers p v hv
    simpa only [aorder, areclaim, aplace, State.Flips] using this
  · have hflips : ¬ a.Flips r := by
      rintro ⟨w, hmem, hw⟩
      rw [areclaim] at hmem
      rw [aplace] at hw
      by_cases hwo : w = o.port
      · rw [hwo, hplace] at hw; cases hw
      · exact hnot w hwo hmem
    obtain ⟨hnone, hgone⟩ := all.withdrawn r (mem_allSlots r) o ((aorder r).trans ho) hp hflips
    exact ⟨(torder r).trans hnone, by rw [treclaim]; exact hgone⟩
  · rw [treclaim, exact_expiry p hp, areclaim, remembered, if_pos]
    rw [a.entries_nil_iff, hissued]; exact hnil
  · rw [treclaim, exact_expiry p hp, areclaim, remembered, if_neg, hentered]
    rw [a.entries_nil_iff, hissued]; exact hne
  · obtain ⟨notices, master, written, waits⟩ := offered p hapart (.inl hempty)
    rw [hempty] at notices
    exact ⟨notices, written, waits, master⟩
  · obtain ⟨notices, master, -, waits⟩ := offered p hapart (.inr hplace)
    have hzero : free p = 0 := if_neg (by simp [hplace])
    rw [hzero, List.drop_zero] at notices waits
    rw [hzero] at master
    exact ⟨notices, waits, master⟩
  · exact ((sa.mono (by decide)).andThen all.only (gs := [.units, .streams, .groups, .reclaim, .dies, .masters, .mport])).andThen bt

end Sys2Proof.Machine
end

section
/-!
PROOFS. What a command does to the dies and the link, cut into single changes: a change of other parts of the state, of die records within their
limits (R113, R117), of a line, a link that loses entries, and a descriptor that is handed over to a free place (R138). `exec_evolves` follows
the calls of the definitions once for every command; a law of the dies or of the link is then proved of the single changes.
-/

namespace Sys2Proof.Machine

set_option Elab.async false

/-! ## Single changes -/

/-- A die record within its limits: the background queue, the waiting units in ascending number, and the pass-over counts (R113, R117). -/
def DieRecord.Legal (r : DieRecord) : Prop :=
  r.queue.length ≤ Config.backgroundLimit ∧ r.waiting.Pairwise (· < ·) ∧ ∀ l, r.passOver.get l ≤ Config.passOverLimit

/-- What a tag entry says of its operation, whatever phase it is in (R139). -/
def TagEntry.job (e : TagEntry) : Byte × DescriptorKind × DieId × Nat := (e.tag, e.kind, e.die, e.unit)

/-- The kinds of descriptor that start a background operation (R113). -/
def DescriptorKind.startsBackground (k : DescriptorKind) : Prop := k = .erase ∨ k = .check

/-- One of the changes that the commands make, as far as the dies, the link and PLW_N go. An ERASE or a CHECK is handed over only while PLW_N
is deasserted (R116), and PLW_N stays asserted. -/
inductive State.Change (s : State) : State → Prop where
  | aside {t : State} : s.Only [.units, .freeLists, .streams, .tenants, .contexts, .lines, .pool, .waiters, .credit, .groups, .reclaim,
      .masters, .mport, .time, .limits, .mgmt, .pending] t → Change s t
  | dies (r : Table 32 DieRecord) : (∀ d, (s.dies.get d).Legal → (r.get d).Legal) → Change s { s with dies := r }
  | lines (i : InputLines) : (s.plwAsserted = true → i.plwN = .low) → Change s { s with inputs := i }
  | link (l : Link) : (l.tags.map TagEntry.job).Sublist (s.link.tags.map TagEntry.job) → l.queue.length ≤ s.link.queue.length →
      Change s { s with link := l }
  | handOver (kind : DescriptorKind) (d : DieId) (u : Nat) (page : Option PageKey) : s.link.hasPlace = true →
      (kind.startsBackground → s.plwAsserted = false) → Change s (s.handOver kind d u page)

/-- A state goes over into another by single changes, made one after another. -/
def State.Evolves (s t : State) : Prop := Relation.ReflTransGen State.Change s t

theorem State.Evolves.refl (s : State) : s.Evolves s := Relation.ReflTransGen.refl

theorem State.Evolves.trans {s t u : State} (h : s.Evolves t) (k : t.Evolves u) : s.Evolves u := Relation.ReflTransGen.trans h k

theorem State.Change.evolves {s t : State} (h : s.Change t) : s.Evolves t := Relation.ReflTransGen.single h

theorem State.Only.evolves {s t : State} {fs : List Field} (h : s.Only fs t) (hf : fs ⊆ [.units, .freeLists, .streams, .tenants, .contexts,
    .lines, .pool, .waiters, .credit, .groups, .reclaim, .masters, .mport, .time, .limits, .mgmt, .pending] := by decide) : s.Evolves t :=
  (State.Change.aside (h.mono hf)).evolves

theorem State.Evolves.foldl {α : Type} {f : State → α → State} (h : ∀ (s : State) (a : α), s.Evolves (f s a)) (l : List α) (s : State) :
    s.Evolves (l.foldl f s) := by
  induction l generalizing s with
  | nil => exact .refl s
  | cons a l ih => exact (h s a).trans (ih (f s a))

theorem State.Evolves.ite {s t u : State} {c : Prop} [Decidable c] (h : c → s.Evolves t) (k : ¬ c → s.Evolves u) :
    s.Evolves (if c then t else u) := by
  split
  · next hc => exact h hc
  · next hc => exact k hc

/-- A further change that is made in one case only. -/
theorem State.Evolves.thenIf {s t u : State} {c : Prop} [Decidable c] (h : s.Evolves t) (k : t.Evolves u) :
    s.Evolves (if c then u else t) := .ite (fun _ => h.trans k) (fun _ => h)

/-- A change of one die record; by default one that leaves its limits alone. -/
theorem State.modDie_evolves (s : State) (d : DieId) (f : DieRecord → DieRecord)
    (hf : (s.dies.get d).Legal → (f (s.dies.get d)).Legal := by exact fun h => h) : s.Evolves (s.modDie d f) := by
  refine (State.Change.dies (s.dies.modify d f) (fun x hx => ?_)).evolves
  by_cases he : x = d
  · subst he; simpa using hf hx
  · simpa [he] using hx

/-- A die record that keeps its queue, its waiting units and its pass-over counts stays within its limits. -/
theorem DieRecord.Legal.of_eq {r r' : DieRecord} (h : r.Legal) (hq : r'.queue = r.queue) (hw : r'.waiting = r.waiting)
    (hp : r'.passOver = r.passOver) : r'.Legal := by rw [Legal, hq, hw, hp]; exact h

/-! ## Waiting units and background queues -/

theorem mem_insertNat (u v : Nat) (l : List Nat) : v ∈ insertNat u l ↔ v = u ∨ v ∈ l := by
  induction l with
  | nil => simp [insertNat]
  | cons x xs ih =>
    unfold insertNat; split
    · simp
    · split
      · next h => subst h; simp
      · simp only [List.mem_cons, ih]; tauto

theorem insertNat_ascending (u : Nat) (l : List Nat) (h : l.Pairwise (· < ·)) : (insertNat u l).Pairwise (· < ·) := by
  induction l with
  | nil => simp [insertNat]
  | cons x xs ih =>
    obtain ⟨first, rest⟩ := List.pairwise_cons.mp h
    unfold insertNat; split
    · next hlt => exact List.pairwise_cons.mpr ⟨fun y hy => (List.mem_cons.mp hy).elim (· ▸ hlt) (fun hy => hlt.trans (first y hy)), h⟩
    · split
      · exact h
      · refine List.pairwise_cons.mpr ⟨fun y hy => ?_, ih rest⟩
        rcases (mem_insertNat u y xs).mp hy with rfl | hy
        · omega
        · exact first y hy

theorem foldr_insertNat_ascending (us l : List Nat) (h : l.Pairwise (· < ·)) : (us.foldr insertNat l).Pairwise (· < ·) := by
  induction us with
  | nil => exact h
  | cons u us ih => exact insertNat_ascending u _ ih

theorem mem_foldr_insertNat (us l : List Nat) (v : Nat) : v ∈ us.foldr insertNat l ↔ v ∈ us ∨ v ∈ l := by
  induction us with
  | nil => simp
  | cons u us ih => rw [List.foldr_cons, mem_insertNat, ih, List.mem_cons, or_assoc]

/-- A queue with a free place takes the first waiting unit (R113). -/
theorem State.fillOne_evolves (s : State) (d : DieId) : s.Evolves (s.fillOne d) := by
  unfold State.fillOne; dsimp only; split
  · next ho =>
    split
    · exact .refl s
    · next u rest hw =>
      refine s.modDie_evolves d _ (fun h => ?_)
      obtain ⟨-, ascending, counts⟩ := h
      have place : (s.dies.get d).queue.length < Config.backgroundLimit := by
        simp only [Bool.and_eq_true, decide_eq_true_eq] at ho; exact ho.2
      rw [hw] at ascending
      exact ⟨by simpa using place, (List.pairwise_cons.mp ascending).2, counts⟩
  · exact .refl s

theorem State.fillQueue_evolves (s : State) (d : DieId) : s.Evolves (s.fillQueue d) :=
  (((s.fillOne_evolves d).trans (State.fillOne_evolves _ d)).trans (State.fillOne_evolves _ d)).trans (State.fillOne_evolves _ d)

theorem State.fillQueues_evolves (s : State) : s.Evolves s.fillQueues := .foldl State.fillQueue_evolves _ s

theorem State.addWaiting_evolves (s : State) (u : Nat) : s.Evolves (s.addWaiting u) :=
  s.modDie_evolves _ _ (fun ⟨queue, ascending, counts⟩ => ⟨queue, insertNat_ascending u _ ascending, counts⟩)

theorem State.dropBackground_evolves (s : State) (u : Nat) : s.Evolves (s.dropBackground u) :=
  s.modDie_evolves _ _ (fun ⟨queue, ascending, counts⟩ =>
    ⟨(List.length_filter_le _ _).trans queue, ascending.sublist List.erase_sublist, counts⟩)

theorem State.handBackground_evolves (s : State) (u : Nat) : s.Evolves (s.handBackground u) := by
  unfold State.handBackground
  exact ((State.Evolves.thenIf (.refl s) (s.modUnit_only u _).evolves).trans (State.fillQueue_evolves _ _)).trans
    ((State.addWaiting_evolves _ u).trans (State.fillQueue_evolves _ _))

/-! ## Transitions of units -/

theorem State.enterErasing_evolves (s : State) (u : Nat) : s.Evolves (s.enterErasing u) :=
  (((s.leaveYoung_only u).evolves.trans (State.modUnit_only _ _ _).evolves).trans (State.handBackground_evolves _ u)).trans
    (State.reportCounts_only _ _).evolves

theorem State.leaveForErase_evolves (s : State) (u : Nat) : s.Evolves (s.leaveForErase u) := by
  unfold State.leaveForErase; split
  · exact .refl s
  · exact .ite (fun _ => (s.enterRetired_only u).evolves) (fun _ => s.enterErasing_evolves u)

theorem State.checkEmpty_evolves (s : State) (u : Nat) : s.Evolves (s.checkEmpty u) := by
  unfold State.checkEmpty; split
  · exact .refl s
  · exact .thenIf (.refl s) (s.leaveForErase_evolves u)

/-- A wake event of a unit's group and the empty-unit check, with which most transitions end. -/
theorem State.wakeCheck_evolves (s : State) (u : Nat) : s.Evolves ((s.wakeUnit u).checkEmpty u) :=
  (s.wakeUnit_only u).evolves.trans (State.checkEmpty_evolves _ u)

theorem State.sealUnit_evolves (s : State) (u : Nat) : s.Evolves (s.sealUnit u) := by
  unfold State.sealUnit; split
  · exact .refl s
  · refine .trans ?_ (State.wakeCheck_evolves _ u)
    split
    · exact (s.modUnit_only u _).evolves.trans (State.pushYoung_only _ _ u).evolves
    · exact (s.modUnit_only u _).evolves

theorem State.failUnit_evolves (s : State) (u p : Nat) : s.Evolves (s.failUnit u p) :=
  (s.modUnit_only u _).evolves.trans (State.wakeCheck_evolves _ u)

theorem State.returnToSealed_evolves (s : State) (u : Nat) : s.Evolves (s.returnToSealed u) :=
  (((s.modUnit_only u _).evolves.trans (State.wakeUnit_only _ _).evolves).trans (State.reportCounts_only _ _).evolves).trans
    (State.checkEmpty_evolves _ u)

theorem State.checkOutcome_evolves (s : State) (u kind : Nat) : s.Evolves (s.checkOutcome u kind) := by
  unfold State.checkOutcome; split
  · exact .refl s
  · exact .ite (fun _ => (s.enterFree_only _ _).evolves) (fun _ => .ite (fun _ => s.enterErasing_evolves u)
      (fun _ => (s.enterRetired_only u).evolves))

/-! ## The link -/

/-- A descriptor that starts no background operation is handed over to a free place. -/
theorem State.handOver_evolves (s : State) (kind : DescriptorKind) (d : DieId) (u : Nat) (page : Option PageKey)
    (hp : s.link.hasPlace = true) (hk : kind.startsBackground → s.plwAsserted = false := by rintro (h | h) <;> cases h) :
    s.Evolves (s.handOver kind d u page) := (State.Change.handOver kind d u page hp hk).evolves

theorem State.mayHandOver_place (s : State) (o : Bool) (h : s.mayHandOver o = true) : s.link.hasPlace = true :=
  (Bool.and_eq_true _ _ ▸ h).1

/-- A link whose queue and table are among those of another. -/
def Link.Within (l l' : Link) : Prop :=
  (l'.tags.map TagEntry.job).Sublist (l.tags.map TagEntry.job) ∧ l'.queue.length ≤ l.queue.length

theorem Link.Within.trans {l l' l'' : Link} (h : l.Within l') (k : l'.Within l'') : l.Within l'' :=
  ⟨k.1.trans h.1, k.2.trans h.2⟩

theorem State.setLink_evolves (s : State) (l : Link) (h : s.link.Within l) : s.Evolves { s with link := l } :=
  (State.Change.link l h.1 h.2).evolves

theorem State.joinWaiting_evolves (s : State) (d : DieId) : s.Evolves (s.joinWaiting d) := by
  unfold State.joinWaiting
  exact .ite (fun _ => .refl s) (fun _ => s.setLink_evolves { s.link with waiting := s.link.waiting ++ [d] } ⟨List.Sublist.refl _, le_rfl⟩)

theorem Link.release_within (l : Link) (t : Byte) : l.Within (l.release t) :=
  ⟨List.filter_sublist.map _, List.length_filter_le _ _⟩

theorem Link.endErase_within (l : Link) (d : DieId) (u : Nat) : l.Within (l.endErase d u) := by
  have same : TagEntry.job ∘ (fun e : TagEntry => if e.steers d u then { e with ended := true } else e) = TagEntry.job := by
    funext e; simp only [Function.comp_apply]; split <;> rfl
  refine ⟨?_, List.length_filter_le _ _⟩
  simp only [Link.endErase, List.map_map, same]
  exact List.filter_sublist.map _

theorem Link.releaseErase_within (l : Link) (d : DieId) (u : Nat) : l.Within (l.releaseErase d u) := by
  refine .trans ?_ (Link.endErase_within _ d u)
  generalize (l.tags.filter _).map (·.tag) = own
  induction own generalizing l with
  | nil => exact ⟨List.Sublist.refl _, le_rfl⟩
  | cons t own ih => exact (l.release_within t).trans (ih _)

theorem Link.releaseDie_within (l : Link) (d : DieId) : l.Within (l.releaseDie d) :=
  ⟨List.filter_sublist.map _, List.length_filter_le _ _⟩

theorem State.takeMatched_evolves (s : State) (c : Completion) (e : TagEntry) : s.Evolves (s.takeMatched c e) := by
  refine s.setLink_evolves _ ?_
  split
  · exact s.link.release_within e.tag
  · exact s.link.release_within e.tag

/-! ## The Die Scheduler -/

theorem State.reply_evolves (s : State) (p : PortId) (slot : ReplySlot) (kind : Nat) (tag : Half) (status : Status) (body : List Byte)
    (words : List Word) : s.Evolves (s.reply p slot kind tag status body words) := (s.reply_only p slot kind tag status body words).evolves

theorem State.grantWindow_evolves (s : State) (d : DieId) (p : MasterId) : s.Evolves (s.grantWindow d p) := by
  unfold State.grantWindow; split
  · exact (s.modDie_evolves d _).trans (State.reply_evolves _ _ _ _ _ _ _ _)
  · exact .refl s

theorem State.grantWindows_evolves (s : State) (d : DieId) : s.Evolves (s.grantWindows d) := .foldl (fun s p => s.grantWindow_evolves d p) _ s

/-- No pass-over count of a grant is above 16 (R117). -/
theorem State.passOverAfter_le (s : State) (d : DieId) (l m : Level) : (s.passOverAfter d l).get m ≤ Config.passOverLimit := by
  rw [State.passOverAfter, Table.get_tabulate]
  split
  · exact Nat.zero_le _
  · split
    · exact Nat.min_le_left _ _
    · exact Nat.zero_le _

theorem State.issuePage_evolves (s : State) (d : DieId) (l : Level) (k : PageKey) (hp : s.link.hasPlace = true) :
    s.Evolves (s.issuePage d l k) :=
  (s.modDie_evolves d _ (fun ⟨queue, ascending, _⟩ => ⟨queue, ascending, s.passOverAfter_le d l⟩)).trans
    (State.handOver_evolves _ .program d k.unit (some k) hp)

theorem State.issueProgram_evolves (s : State) (d : DieId) (l : Level) (k : PageKey) (hp : s.link.hasPlace = true) :
    s.Evolves (s.issueProgram d l k) := (s.issuePage_evolves d l k hp).trans (State.modDie_evolves _ d _)

theorem State.issueSuspended_evolves (s : State) (d : DieId) (l : Level) (k : PageKey) (hp : s.link.hasPlace = true) :
    s.Evolves (s.issueSuspended d l k) := (s.issuePage_evolves d l k hp).trans (State.modDie_evolves _ d _)

/-- A background operation starts with PLW_N deasserted (R116). -/
theorem State.issueBackground_evolves (s : State) (d : DieId) (e : BackgroundEntry) (hp : s.link.hasPlace = true)
    (hs : s.plwAsserted = false) : s.Evolves (s.issueBackground d e) := by
  unfold State.issueBackground; dsimp only; split <;>
    exact (s.modDie_evolves d _ (fun ⟨queue, ascending, counts⟩ => ⟨by
      rw [List.length_tail]; exact (Nat.sub_le _ _).trans queue, ascending, counts⟩)).trans
      (State.handOver_evolves _ _ d e.unit none hp (fun _ => hs))

theorem State.arbitration_background (s : State) (d : DieId) (e : BackgroundEntry) (h : s.arbitration d = .background e) :
    s.startable d = some e := by
  unfold State.arbitration at h
  split at h
  · next x hx =>
    split at h
    · cases h; exact hx
    · split at h <;> cases h; exact hx
  · split at h <;> cases h

theorem State.startable_plw (s : State) (d : DieId) (e : BackgroundEntry) (h : s.startable d = some e) : s.plwAsserted = false := by
  unfold State.startable at h; dsimp only at h; split at h
  · next hc => simp only [Bool.and_eq_true, Bool.not_eq_true'] at hc; exact hc.1.2
  · cases h

theorem State.arbitrateDie_evolves (s : State) (d : DieId) (o : Bool) : s.Evolves (s.arbitrateDie d o) := by
  unfold State.arbitrateDie; split
  · exact .refl s
  · exact .ite (fun h => s.issueProgram_evolves d _ _ (s.mayHandOver_place o h)) (fun _ => s.joinWaiting_evolves d)
  · next e he =>
    exact .ite (fun h => s.issueBackground_evolves d e (s.mayHandOver_place o h) (s.startable_plw d e (s.arbitration_background d e he)))
      (fun _ => s.joinWaiting_evolves d)

theorem State.suspendToServe_evolves (s : State) (d : DieId) (u : Nat) (hp : s.link.hasPlace = true) : s.Evolves (s.suspendToServe d u) :=
  ((s.modUnit_only u _).evolves.trans (State.modDie_evolves _ d _)).trans (State.handOver_evolves _ .suspend d u none hp)

theorem State.suspendToAbandon_evolves (s : State) (d : DieId) (u : Nat) (hp : s.link.hasPlace = true) :
    s.Evolves (s.suspendToAbandon d u) := (s.modDie_evolves d _).trans (State.handOver_evolves _ .suspend d u none hp)

theorem State.trigger_evolves (s : State) (d : DieId) (o : Bool) : s.Evolves (s.trigger d o) := by
  unfold State.trigger
  refine .thenIf (.refl s) ?_
  split
  · exact .refl s
  · exact .thenIf (.refl s) (.ite (fun h => s.suspendToServe_evolves d _ (s.mayHandOver_place o h)) (fun _ => s.joinWaiting_evolves d))

theorem State.resumeErase_evolves (s : State) (d : DieId) (u : Nat) (hp : s.link.hasPlace = true) : s.Evolves (s.resumeErase d u) :=
  (s.modDie_evolves d _).trans (State.handOver_evolves _ .resume d u none hp)

theorem State.serveDie_evolves (s : State) (d : DieId) (o : Bool) : s.Evolves (s.serveDie d o) := by
  unfold State.serveDie
  refine .thenIf (.refl s) (.ite (fun _ => ?_) (fun _ => .thenIf (.refl s) ?_))
  · split
    · exact .refl s
    · exact .ite (fun h => s.issueSuspended_evolves d _ _ (s.mayHandOver_place o h)) (fun _ => s.joinWaiting_evolves d)
  · split
    · exact .refl s
    · exact .ite (fun h => s.resumeErase_evolves d _ (s.mayHandOver_place o h)) (fun _ => s.joinWaiting_evolves d)

theorem State.serveSuspended_evolves (s : State) : s.Evolves s.serveSuspended := .foldl (fun s d => s.serveDie_evolves d false) _ s

theorem State.dieAfterErase_evolves (s : State) (d : DieId) : s.Evolves (s.dieAfterErase d) := by
  refine (s.modDie_evolves d _ (fun h => ?_)).trans (State.grantWindows_evolves _ d)
  split <;> exact h

theorem State.abandonErase_evolves (s : State) (d : DieId) : s.Evolves (s.abandonErase d) := by
  unfold State.abandonErase; split
  · exact .refl s
  · next u _ =>
    exact (((((s.modUnit_only u _).evolves.trans (State.setLink_evolves _ _ (Link.releaseErase_within _ d u))).trans
      (State.dieAfterErase_evolves _ d)).trans (State.handBackground_evolves _ u))).trans (State.reportCounts_only _ u).evolves

/-! ## Slots, pages and waiting work -/

theorem State.sealSlot_evolves (s : State) (st : StreamId) (q : Position) : s.Evolves (s.sealSlot st q) := by
  unfold State.sealSlot; split
  · exact .refl s
  · exact ((s.emptySlot_only st q).evolves.trans (State.sealUnit_evolves _ _)).trans (State.applyPending_only _ st).evolves

theorem State.sealAllSlots_evolves (s : State) (st : StreamId) : s.Evolves (s.sealAllSlots st) :=
  (State.Evolves.foldl (fun s q => s.sealSlot_evolves st q) _ s).trans (State.applyPending_only _ st).evolves

theorem State.dueSeal_evolves (s : State) (st : StreamId) (q : Position) : s.Evolves (s.dueSeal st q) := by
  unfold State.dueSeal; split
  · exact .thenIf (.refl s) (s.sealSlot_evolves st q)
  · exact .refl s

theorem State.settleSlots_evolves (s : State) (st : StreamId) : s.Evolves (s.settleSlots st) :=
  .foldl (fun s q => s.dueSeal_evolves st q) _ s

theorem State.pageTrigger_evolves (s : State) (d : DieId) (k : PageKey) : s.Evolves (s.pageTrigger d k) :=
  .thenIf (.refl s) (s.trigger_evolves d false)

theorem State.takePage_evolves (s : State) (st : StreamId) (c : GroupConfig) (q : Position) (x : WriteContext) (n : Nat) :
    s.Evolves (s.takePage st c q x n) := by
  unfold State.takePage; split
  · exact .refl s
  · exact .thenIf ((((((s.modUnit_only _ _).evolves.trans (State.modStream_only _ st _).evolves).trans
      (State.setPool_only _ _).evolves).trans (State.modPage_only _ _ _).evolves).trans (State.modDie_evolves _ _ _)).trans
      ((State.moveCursor_only _ st q).evolves.trans (State.pageTrigger_evolves _ _ _))) (State.sealSlot_evolves _ st q)

theorem State.tryPlace_evolves (s t : State) (st : StreamId) (k : PlaceKind) (x : WriteContext) (n : Nat)
    (h : s.tryPlace st k x n = some t) : s.Evolves t := by
  unfold State.tryPlace at h
  split at h
  · cases h
  · split at h
    · cases h
    · cases h
      exact (State.Evolves.ite (fun _ => .refl s) (fun _ => (s.openUnit_only st _ _).evolves)).trans (State.takePage_evolves _ st _ _ x n)

theorem State.attemptFresh_evolves (s : State) (st : StreamId) (x : WriteContext) : s.Evolves (s.attemptFresh st x).1 := by
  refine (s.applyPending_only st).evolves.trans ?_
  unfold State.attemptFresh; dsimp only; split
  · next h => exact (State.tryPlace_evolves _ _ _ _ _ _ h).trans (State.afterFresh_only _ _ _).evolves
  · exact (State.waitForSpace_only _ _).evolves

theorem State.placeRun_evolves (n : Nat) (s : State) (st : StreamId) (cls : WriteClass) (id : ContextId) :
    s.Evolves (State.placeRun n s st cls id) := by
  induction n generalizing s with
  | zero => exact .refl s
  | succ n ih =>
    unfold State.placeRun; split
    · exact .refl s
    · next x _ =>
      have once := s.attemptFresh_evolves st x
      refine .thenIf (.refl s) ?_
      split
      · next h => rw [h] at once; exact once.trans (ih _)
      · next h => rw [h] at once; exact once

theorem State.attemptReplace_evolves (s : State) (st : StreamId) : s.Evolves (s.attemptReplace st).1 := by
  refine (s.applyPending_only st).evolves.trans ?_
  unfold State.attemptReplace; dsimp only; split
  · exact .refl _
  · split
    · exact (State.dropReplaceHead_only _ _).evolves
    · split
      · next h => exact (State.tryPlace_evolves _ _ _ _ _ _ h).trans (State.dropReplaceHead_only _ _).evolves
      · exact (State.waitReplace_only _ _).evolves

theorem State.replaceRun_evolves (n : Nat) (s : State) (st : StreamId) : s.Evolves (State.replaceRun n s st) := by
  induction n generalizing s with
  | zero => exact .refl s
  | succ n ih =>
    have once := s.attemptReplace_evolves st
    unfold State.replaceRun; split
    · next h => rw [h] at once; exact once.trans (ih _)
    · next h => rw [h] at once; exact once

theorem State.serveList_evolves (s : State) (st : StreamId) : s.Evolves (s.serveList st) :=
  (s.settleSlots_evolves st).trans (State.replaceRun_evolves _ _ st)

theorem State.serveEntry_evolves (s : State) (e : WaitEntry) : s.Evolves (s.serveEntry e) :=
  (s.settleSlots_evolves e.stream).trans (State.placeRun_evolves _ _ _ _ _)

theorem State.examineWork_evolves (s : State) (p : StreamId → Bool) : s.Evolves (s.examineWork p) := by
  unfold State.examineWork State.examineCalled
  have served : ∀ (l : List ReplaceWaiter) (u : State), u.Evolves (l.foldl (fun s w => s.serveList w.stream) u) :=
    .foldl (fun u w => u.serveList_evolves w.stream)
  exact (((s.callWork_only p).evolves.trans (served _ _)).trans (.foldl State.serveEntry_evolves _ _)).trans
    (.foldl State.serveEntry_evolves _ _)

theorem State.examineFreed_evolves (s : State) (u : Nat) : s.Evolves (s.examineFreed u) := by
  unfold State.examineFreed
  refine .thenIf (.refl s) ?_
  split
  · exact s.examineWork_evolves _
  · exact .refl s

/-! ## The end of a page's program -/

theorem State.freeEntry_evolves (s : State) (e : PoolEntry) : s.Evolves (s.freeEntry e) :=
  (s.setPool_only _).evolves.trans (State.modDie_evolves _ e.die _)

theorem State.relocDone_evolves (s : State) (x : WriteContext) : s.Evolves (s.relocDone x) := by
  unfold State.relocDone; split
  · exact .refl s
  · split
    · exact (s.modContext_only _ _).evolves
    · exact .ite (fun _ => .thenIf (s.lowerValid_only _ _).evolves (State.wakeCheck_evolves _ _))
        (fun _ => (s.modContext_only _ _).evolves)

theorem State.settleCheck_evolves (s : State) (u : Nat) : s.Evolves (s.settleCheck u) := by
  unfold State.settleCheck; split
  · exact .refl s
  · exact .thenIf (.refl s) (s.wakeCheck_evolves u)

theorem State.pageDone_evolves (s : State) (k : PageKey) : s.Evolves (s.pageDone k) := by
  unfold State.pageDone; split
  · exact .refl s
  · next e _ =>
    have counted := (((s.freeEntry_evolves e).trans (State.modPage_only _ e.ref (fun p => { p with outcome := .done })).evolves).trans
      (State.modUnit_only _ k.unit (fun r => { r with programmed := r.programmed + 1, valid := r.valid + 1 })).evolves).trans
      (State.slotLower_only _ k.unit).evolves
    refine .trans ?_ (State.settleCheck_evolves _ k.unit)
    split
    · exact counted.trans (State.relocDone_evolves _ _)
    · exact counted

theorem State.withdraw_evolves (s : State) (l : List PoolEntry) : s.Evolves (s.withdraw l) :=
  .foldl (f := fun s x => (s.freeEntry x).modPage x.ref (fun p => { p with outcome := .unplaced }))
    (fun s x => (s.freeEntry_evolves x).trans (State.modPage_only _ _ _).evolves) l s

theorem State.programFailed_evolves (s : State) (k : PageKey) : s.Evolves (s.programFailed k) := by
  unfold State.programFailed; split
  · next e st _ _ =>
    have failed := ((s.failUnit_evolves k.unit k.index).trans (State.freeEntry_evolves _ e)).trans (State.failPage_only _ e.ref).evolves
    have dropped : ∀ (u : State) (l : List PoolEntry) (f : StreamLines → StreamLines), u.Evolves ((u.withdraw l).modLines st f) :=
      fun u l f => (u.withdraw_evolves l).trans (State.modLines_only _ st f).evolves
    dsimp only; split
    · exact (failed.trans (dropped _ _ _)).trans ((State.emptySlot_only _ st _).evolves.trans (State.applyPending_only _ st).evolves)
    · exact failed.trans (dropped _ _ _)
  · exact .refl s

/-! ## Orders, requests, drains and fences that end -/

theorem State.closeOrder_evolves (s : State) (r : NoticeRef) (o : Order) (c : OrderCause) : s.Evolves (s.closeOrder r o c) :=
  (((s.returnToSealed_evolves o.unit).trans (State.setOrder_only _ _ _).evolves).trans (State.addExpiry_only _ _).evolves).trans
    (State.offerNotice_only _ _ _).evolves

theorem State.withdrawOrder_evolves (s : State) (r : NoticeRef) (o : Order) : s.Evolves (s.withdrawOrder r o) :=
  ((s.returnToSealed_evolves o.unit).trans (State.dropNotice_only _ _ _).evolves).trans (State.setOrder_only _ _ _).evolves

theorem State.dropClosing_evolves (s : State) (p : MasterId) (r : NoticeRef) : s.Evolves ((s.dropNotice p r).setOrder r none) :=
  (s.dropNotice_only p r).evolves.trans (State.setOrder_only _ r none).evolves

theorem State.cancelSlot_evolves (s : State) (r : NoticeRef) : s.Evolves (s.cancelSlot r) := by
  unfold State.cancelSlot; split
  · exact .refl s
  · split
    · exact s.withdrawOrder_evolves _ _
    · exact s.closeOrder_evolves _ _ _
    · exact .refl s

theorem State.fenceSlot_evolves (s : State) (p : MasterId) (r : NoticeRef) : s.Evolves (s.fenceSlot p r) := by
  unfold State.fenceSlot; split
  · exact .refl s
  · refine .thenIf (.refl s) ?_
    split
    · exact s.withdrawOrder_evolves _ _
    · exact (s.returnToSealed_evolves _).trans (State.setOrder_only _ _ _).evolves
    · exact s.dropClosing_evolves _ _

theorem State.fenceOrders_evolves (s : State) (p : MasterId) : s.Evolves (s.fenceOrders p) :=
  ((State.Evolves.foldl (fun s r => s.fenceSlot_evolves p r) _ s).trans (State.modNotices_only _ _ _).evolves).trans
    (State.setReclaim_only _ _).evolves

theorem State.resetSlot_evolves (s : State) (r : NoticeRef) : s.Evolves (s.resetSlot r) := by
  unfold State.resetSlot; split
  · exact .refl s
  · split
    · exact s.withdrawOrder_evolves _ _
    · exact ((s.returnToSealed_evolves _).trans (State.addExpiry_only _ _).evolves).trans (State.setOrder_only _ _ _).evolves
    · exact s.dropClosing_evolves _ _

theorem State.requestGone_evolves (s : State) (st : StreamId) : s.Evolves (s.requestGone st) :=
  .thenIf (s.modStream_only st _).evolves (State.sealAllSlots_evolves _ st)

theorem State.endRequest_evolves (s : State) (x : WriteContext) : s.Evolves (s.endRequest x) :=
  (((s.answerWrite_only x).evolves.trans (State.leaveShare_only _ x).evolves).trans (State.dropContext_only _ _).evolves).trans
    (State.requestGone_evolves _ _)

theorem State.endDrain_evolves (s : State) (st : StreamId) : s.Evolves (s.endDrain st) := by
  have ended := (s.sealAllSlots_evolves st).trans (State.modStream_only _ st (fun r => { r with state := .quiesced, drain := none })).evolves
  unfold State.endDrain; dsimp only; split
  · exact ended.trans (State.reply_evolves _ _ _ _ _ _ _ _)
  · exact ended

theorem State.parkStream_evolves (s : State) (st : StreamId) : s.Evolves (s.parkStream st) := by
  have parked := ((s.sealAllSlots_evolves st).trans (State.emptyYoung_only _ st).evolves).trans
    (State.modStream_only _ st (fun r => { r with state := .parked, port := none, drain := none })).evolves
  unfold State.parkStream; dsimp only; split
  · exact parked.trans (State.releaseSlot_only _ _ _).evolves
  · exact parked

theorem State.fenceWindow_evolves (s : State) (p : MasterId) (d : DieId) : s.Evolves (s.fenceWindow p d) := by
  unfold State.fenceWindow; dsimp only; split
  · exact (s.modDie_evolves d _).trans (State.releaseSlot_only _ _ _).evolves
  · exact s.modDie_evolves d _

theorem State.fence_evolves (s : State) (p : MasterId) (c : FenceCause) : s.Evolves (s.fence p c) :=
  ((((((((((s.modMaster_only p _).evolves.trans (State.flagFence_only _ _ _).evolves).trans
    (.foldl State.parkStream_evolves _ _)).trans (State.orphanContexts_only _ _).evolves).trans
    (State.fenceCredit_only _ _).evolves).trans (.foldl State.endRequest_evolves _ _)).trans
    (State.fenceOrders_evolves _ _)).trans (.foldl (fun s d => s.fenceWindow_evolves p d) _ _)).trans
    (State.modRingMaster_only _ _ _).evolves).trans (State.offerManagement_only _ _ _).evolves).trans
    (State.serveSuspended_evolves _)

theorem State.dueFence_evolves (s : State) (p : MasterId) : s.Evolves (s.dueFence p) := .thenIf (.refl s) (s.fence_evolves p _)

theorem State.settlePort_evolves (s : State) (p : PortId) : s.Evolves (s.settlePort p) := by
  cases p with
  | master p => exact s.dueFence_evolves p
  | management => exact .refl s

end Sys2Proof.Machine
end

section
/-!
PROOFS. Every command changes the dies, the link and PLW_N by single changes, and what follows for every step: the background queues, the waiting
units and the pass-over counts within their limits (R113, R117), and no erase or check handed over while PLW_N is asserted (R116, R128).
-/

namespace Sys2Proof.Machine

set_option Elab.async false

/-- A state whose dies, link and lines are another's. -/
theorem State.Evolves.of_eq {s t : State} (hd : t.dies = s.dies := by rfl) (hl : t.link = s.link := by rfl)
    (hi : t.inputs = s.inputs := by rfl) : s.Evolves t := by
  refine (State.Change.aside (fun f hf => ?_)).evolves
  cases f <;> first | exact hd | exact hl | exact hi | simp at hf

/-- New die records that stay within their limits. -/
theorem State.setDies_evolves (s : State) (r : Table 32 DieRecord) (h : ∀ d, (s.dies.get d).Legal → (r.get d).Legal) :
    s.Evolves { s with dies := r } := (State.Change.dies r h).evolves

/-! ## Commands -/

/-- A command that gives a next state changes dies and link by single changes. -/
def State.EvolvesBy (s : State) (r : Result) : Prop := ∀ t, r = .next t → s.Evolves t

theorem State.Evolves.next {s t : State} (h : s.Evolves t) : s.EvolvesBy (.next t) := by
  rintro _ ⟨⟩; exact h

theorem State.Evolves.nextIf {s t u : State} {c : Prop} [Decidable c] (h : s.Evolves t) (k : s.Evolves u) :
    s.EvolvesBy (if c then .next t else .next u) := by
  split
  · exact h.next
  · exact k.next

theorem State.Evolves.answer {s t : State} (h : s.Evolves t) (r : Request) (status : Status) (body : List Byte) (words : List Word) :
    s.Evolves (r.answer t status body words) := h.trans (r.answer_only t status body words).evolves

/-- A request that is answered with no change of dies, link and lines. -/
theorem State.answer_evolves (s t : State) (r : Request) (status : Status) (body : List Byte) (words : List Word)
    (hd : t.dies = s.dies := by rfl) (hl : t.link = s.link := by rfl) (hi : t.inputs = s.inputs := by rfl) :
    s.Evolves (r.answer t status body words) := (State.Evolves.of_eq hd hl hi).answer r status body words

/-- A request command (R152, R169): the fence that is due, the taking of the request and the request's own act. -/
theorem State.onRequest_evolves (s : State) (p : PortId) (accepts : Nat → Bool) (act : Request → State → State)
    (h : ∀ r (u : State), u.Evolves (act r u)) : s.EvolvesBy (s.onRequest p accepts act) := by
  have settled := s.settlePort_evolves p
  unfold State.onRequest
  exact .nextIf ((settled.trans (State.taken_only _ p).evolves).trans (h _ _)) settled

/-- A completion command (R144): the release of the tag and the command's own act. -/
theorem State.onCompletion_evolves (s : State) (c : Completion) (kind : DescriptorKind) (kinds : List Nat)
    (act : TagEntry → State → State) (h : ∀ e (u : State), u.Evolves (act e u)) : s.EvolvesBy (s.onCompletion c kind kinds act) := by
  unfold State.onCompletion; split
  · exact (State.Evolves.refl s).next
  · exact .nextIf ((s.takeMatched_evolves c _).trans (h _ _)) (.refl s)

/-- A stream request after the checks of R24. -/
theorem State.onBoundStream_evolves (s : State) (p : MasterId) (r : Request) (act : StreamId → State → State)
    (h : ∀ st (u : State), u.Evolves (act st u)) : s.Evolves (s.onBoundStream p r act) := by
  unfold State.onBoundStream; split
  · exact State.answer_evolves _ _ _ _ _ _
  · exact ((s.modStream_only _ _).evolves).trans (h _ _)

/-! ### Requests about streams and writes -/

theorem openStreamRequest_evolves (p : MasterId) (r : Request) (s : State) : s.Evolves (openStreamRequest p r s) := by
  unfold openStreamRequest; split
  · exact State.answer_evolves _ _ _ _ _ _
  · dsimp only; split
    · split <;> exact State.answer_evolves _ _ _ _ _ _
    · split
      · exact .answer ((((s.modStream_only _ _).evolves).trans ((State.modStream_only _ _ _).evolves)).trans (State.wakeAll_only _).evolves) _ _ _ _
      · exact State.answer_evolves _ _ _ _ _ _

theorem State.closeStream_evolves (s : State) (st : StreamId) : s.Evolves (s.closeStream st) :=
  ((s.sealAllSlots_evolves st).trans ((State.emptyYoung_only _ st).evolves)).trans ((State.modStream_only _ st _).evolves)

theorem closeStreamRequest_evolves (p : MasterId) (r : Request) (s : State) : s.Evolves (closeStreamRequest p r s) := by
  refine s.onBoundStream_evolves p r _ (fun st u => ?_)
  split
  · exact (u.closeStream_evolves st).answer _ _ _ _
  · exact State.answer_evolves _ _ _ _ _ _

theorem State.startDrain_evolves (s : State) (st : StreamId) (pl : Pledge) : s.Evolves (s.startDrain st pl) :=
  ((s.settleCredit_only _).evolves.trans ((State.modStream_only _ st _).evolves)).trans (State.admitStream_only _ st).evolves

theorem drainStreamRequest_evolves (p : MasterId) (r : Request) (s : State) : s.Evolves (drainStreamRequest p r s) := by
  refine s.onBoundStream_evolves p r _ (fun st u => ?_)
  split
  · exact .thenIf (u.startDrain_evolves st _) (State.endDrain_evolves _ st)
  · exact State.answer_evolves _ _ _ _ _ _

theorem resumeStreamRequest_evolves (p : MasterId) (r : Request) (s : State) : s.Evolves (resumeStreamRequest p r s) := by
  refine s.onBoundStream_evolves p r _ (fun st u => ?_)
  split
  · exact .answer (((u.modStream_only st _).evolves).trans (State.wakeAll_only _).evolves) _ _ _ _
  · exact State.answer_evolves _ _ _ _ _ _

theorem State.setProfile_evolves (s : State) (st : StreamId) (p : Profile) (sealNow : Bool) : s.Evolves (s.setProfile st p sealNow) := by
  unfold State.setProfile; split
  · exact (s.takeProfile_only st p).evolves
  · split
    · exact (((s.modStream_only st _).evolves).trans (State.sealAllSlots_evolves _ st)).trans ((State.takeProfile_only _ st p).evolves)
    · exact (s.modStream_only st _).evolves

theorem setProfileRequest_evolves (p : MasterId) (r : Request) (s : State) : s.Evolves (setProfileRequest p r s) := by
  refine s.onBoundStream_evolves p r _ (fun st u => ?_)
  split
  · exact State.answer_evolves _ _ _ _ _ _
  · next pr _ =>
    refine .answer (.trans (.thenIf ?_ ?_) (State.serveSuspended_evolves _)) _ _ _ _
    · exact u.setProfile_evolves st pr _
    · exact State.examineWork_evolves _ _

theorem setStreamRequest_evolves (r : Request) (s : State) : s.Evolves (setStreamRequest r s) := by
  unfold setStreamRequest; split
  · exact State.answer_evolves _ _ _ _ _ _
  · next st _ =>
    split
    · exact State.answer_evolves _ _ _ _ _ _
    · split
      · exact State.answer_evolves _ _ _ _ _ _
      · next q _ =>
        have taken := ((s.modStream_only st (fun x => { x with tenant := q.tenant, group := q.group, target := q.target })).evolves).trans
          ((State.takeProfile_only _ st q.profile).evolves)
        split
        · exact State.answer_evolves _ _ _ _ _ _
        · refine .answer ?_ _ _ _ _
          unfold State.setStream; dsimp only; split
          · exact taken
          · exact taken.trans (State.wakeAll_only _).evolves

theorem State.acceptWrite_evolves (s : State) (x : WriteContext) : s.Evolves (s.acceptWrite x) :=
  ((((s.setContexts_only _).evolves.trans ((State.modStream_only _ x.stream _).evolves)).trans
    ((State.modStream_only _ x.stream _).evolves)).trans (State.setCredit_only _ _).evolves).trans (State.creditArrival_only _ x).evolves

theorem writeRequest_evolves (p : MasterId) (r : Request) (s : State) : s.Evolves (writeRequest p r s) := by
  unfold writeRequest; split
  · exact State.answer_evolves _ _ _ _ _ _
  · exact s.acceptWrite_evolves _

/-! ### Requests about units -/

theorem State.invalidateUnit_evolves (s : State) (u n : Nat) (r : UnitRecord) : s.Evolves (s.invalidateUnit u n r) := by
  refine .thenIf (s.lowerValid_only u n).evolves ?_
  refine .trans ?_ (State.checkEmpty_evolves _ u)
  exact .thenIf (.refl _) (State.wakeUnit_only _ u).evolves

theorem State.invalidatePair_evolves (s : State) (u n : Nat) : s.Evolves (s.invalidatePair u n).1 := by
  unfold State.invalidatePair; split
  · exact .refl s
  · split
    · exact s.invalidateUnit_evolves u n _
    · exact .refl s

theorem State.invalidatePairs_evolves (l : List (Nat × Nat)) (s : State) : s.Evolves (s.invalidatePairs l).1 := by
  induction l generalizing s with
  | nil => exact .refl s
  | cons x l ih => exact (s.invalidatePair_evolves x.1 x.2).trans (ih _)

theorem invalidateRequest_evolves (r : Request) (s : State) : s.Evolves (invalidateRequest r s) := by
  unfold invalidateRequest; split
  · exact State.answer_evolves _ _ _ _ _ _
  · exact (State.invalidatePairs_evolves r.pairs s).answer _ _ _ _

theorem State.drainUnit_evolves (s : State) (k : NoticeRef) (u : Nat) : s.Evolves (s.drainUnit k u) :=
  ((s.setOrder_only k none).evolves.trans (State.modUnit_only _ u _).evolves).trans (State.leaveForErase_evolves _ u)

theorem unitDrainedRequest_evolves (p : MasterId) (r : Request) (s : State) : s.Evolves (unitDrainedRequest p r s) := by
  unfold unitDrainedRequest; split
  · exact State.answer_evolves _ _ _ _ _ _
  · split
    · exact (s.drainUnit_evolves _ _).answer _ _ _ _
    · split <;> exact State.answer_evolves _ _ _ _ _ _

theorem holdRequest_evolves (f : Hold → Hold) (r : Request) (s : State) : s.Evolves (holdRequest f r s) := by
  unfold holdRequest; split
  · exact State.answer_evolves _ _ _ _ _ _
  · split <;> exact State.answer_evolves _ _ _ _ _ _

theorem State.liftHold_evolves (s : State) (u : Nat) : s.Evolves (s.liftHold u) :=
  (s.modUnit_only u _).evolves.trans (State.wakeCheck_evolves _ u)

/-- The level of RETAIN_N is read (R19, R182). -/
theorem State.setRetain_evolves (s : State) (level : LineLevel) : s.Evolves { s with inputs := { s.inputs with retainN := level } } :=
  (State.Change.lines _ (fun h => by simpa [State.plwAsserted] using h)).evolves

theorem releaseRequest_evolves (level : LineLevel) (r : Request) (s : State) : s.Evolves (releaseRequest level r s) := by
  have read := s.setRetain_evolves level
  have lifted := read.trans (State.liftHold_evolves _ r.unit)
  unfold releaseRequest; dsimp only; split
  · exact read.answer _ _ _ _
  · split
    · exact read.answer _ _ _ _
    · exact lifted.answer _ _ _ _
    · exact lifted.answer _ _ _ _
    all_goals exact read.answer _ _ _ _

theorem queryUnitRequest_evolves (r : Request) (s : State) : s.Evolves (queryUnitRequest r s) := by
  unfold queryUnitRequest; split <;> exact State.answer_evolves _ _ _ _ _ _

/-! ### Read windows -/

theorem readWindowRequest_evolves (p : MasterId) (r : Request) (s : State) : s.Evolves (readWindowRequest p r s) := by
  unfold readWindowRequest; split
  · exact State.answer_evolves _ _ _ _ _ _
  · split
    · split
      · exact (s.modDie_evolves _ _).answer _ _ _ _
      · exact (s.modDie_evolves _ _).trans (State.trigger_evolves _ _ _)
    · exact State.answer_evolves _ _ _ _ _ _

theorem endWindowRequest_evolves (p : MasterId) (r : Request) (s : State) : s.Evolves (endWindowRequest p r s) := by
  unfold endWindowRequest; split
  · exact State.answer_evolves _ _ _ _ _ _
  · split
    · exact ((s.modDie_evolves _ _).trans (State.serveSuspended_evolves _)).answer _ _ _ _
    · exact State.answer_evolves _ _ _ _ _ _
    · split
      · exact (s.modDie_evolves _ _).answer _ _ _ _
      · exact State.answer_evolves _ _ _ _ _ _

/-! ### Requests that configure and restore -/

theorem State.rebuild_evolves (s : State) (g : Geometry) : s.Evolves (s.rebuild g) := by
  refine (s.setDies_evolves (s.dies.map DieRecord.rebuilt) (fun d _ => ?_)).trans .of_eq
  rw [Table.get_map]
  exact ⟨Nat.zero_le _, .nil, fun l => by simp [DieRecord.rebuilt]⟩

theorem setGeometryRequest_evolves (r : Request) (s : State) : s.Evolves (setGeometryRequest r s) := by
  unfold setGeometryRequest; split
  · split
    · exact (s.rebuild_evolves r.geometry).answer _ _ _ _
    · exact State.answer_evolves _ _ _ _ _ _
  · exact State.answer_evolves _ _ _ _ _ _

theorem State.setGroup_evolves (s : State) (g : GroupId) (c : GroupConfig) : s.Evolves (s.setGroup g c) :=
  ((State.Evolves.foldl (fun s k => s.resetSlot_evolves ⟨g, k⟩) _ s).trans (State.setGroups_only _ _).evolves).trans (State.evaluateActivity_only _ g).evolves

theorem setGroupRequest_evolves (r : Request) (s : State) : s.Evolves (setGroupRequest r s) := by
  unfold setGroupRequest; dsimp only; split
  · exact State.answer_evolves _ _ _ _ _ _
  · split
    · exact State.answer_evolves _ _ _ _ _ _
    · split
      · split
        · exact State.answer_evolves _ _ _ _ _ _
        · exact (s.setGroup_evolves _ _).answer _ _ _ _
      · exact State.answer_evolves _ _ _ _ _ _

theorem setTimebaseRequest_evolves (r : Request) (s : State) : s.Evolves (setTimebaseRequest r s) := by
  unfold setTimebaseRequest; split <;> exact State.answer_evolves _ _ _ _ _ _

theorem State.setTenant_evolves (s : State) (t : Tenant) (metered : Bool) (rate ceiling : Nat) :
    s.Evolves (s.setTenant t metered rate ceiling) := by
  have set := ((s.settleCredit_only t).evolves.trans (State.modTenant_only _ t (fun r => { r with
    metered := metered, rate := rate, ceiling := ceiling })).evolves).trans (State.modBalance_only _ t (fun b => min b ceiling)).evolves
  unfold State.setTenant; dsimp only; split
  · exact set
  · exact set.trans (State.admitTenant_only _ t).evolves

theorem setTenantRequest_evolves (r : Request) (s : State) : s.Evolves (setTenantRequest r s) := by
  unfold setTenantRequest; split
  · exact State.answer_evolves _ _ _ _ _ _
  · split
    · exact State.answer_evolves _ _ _ _ _ _
    · split
      · exact (s.setTenant_evolves _ _ _ _).answer _ _ _ _
      · exact State.answer_evolves _ _ _ _ _ _

theorem seekUnitsRequest_evolves (r : Request) (s : State) : s.Evolves (seekUnitsRequest r s) := by
  unfold seekUnitsRequest; split
  · exact State.answer_evolves _ _ _ _ _ _
  · split <;> exact State.answer_evolves _ _ _ _ _ _

theorem State.applyRecord_evolves (s : State) (u : Nat) (r : UnitRecord) : s.Evolves (s.applyRecord u r) := by
  have replaced := (((s.removeFree_only u).evolves.trans (State.leaveYoung_only _ u).evolves).trans
    (State.dropBackground_evolves _ u)).trans (State.replaceUnit_only _ u r).evolves
  refine .trans ?_ (State.reportCounts_only _ u).evolves
  split
  · exact replaced.trans (State.insertFree_only _ u).evolves
  · exact replaced.trans (State.handBackground_evolves _ u)
  · exact replaced

theorem State.advanceCursor_evolves (s : State) : s.Evolves s.advanceCursor := (s.modMgmt_only _).evolves

theorem State.loadRecord_evolves (s : State) (l : LoadedRecord) : s.Evolves (s.loadRecord l).1 := by
  unfold State.loadRecord; dsimp only; split
  · exact s.advanceCursor_evolves
  · split
    · exact s.advanceCursor_evolves
    · exact (s.applyRecord_evolves _ _).trans (State.advanceCursor_evolves _)
  · exact s.advanceCursor_evolves

theorem State.loadRecords_evolves (l : List LoadedRecord) (s : State) : s.Evolves (s.loadRecords l).1 := by
  induction l generalizing s with
  | nil => exact .refl s
  | cons x l ih => exact (s.loadRecord_evolves x).trans (ih _)

theorem loadUnitsRequest_evolves (r : Request) (s : State) : s.Evolves (loadUnitsRequest r s) := by
  unfold loadUnitsRequest; split
  · exact State.answer_evolves _ _ _ _ _ _
  · split
    · exact State.answer_evolves _ _ _ _ _ _
    · exact (State.loadRecords_evolves r.loadedRecords s).answer _ _ _ _

/-! ### Requests that read back and steer -/

theorem readUnitRequest_evolves (r : Request) (s : State) : s.Evolves (readUnitRequest r s) := by
  unfold readUnitRequest; split
  · exact State.answer_evolves _ _ _ _ _ _
  · split <;> exact State.answer_evolves _ _ _ _ _ _

theorem readStreamRequest_evolves (r : Request) (s : State) : s.Evolves (readStreamRequest r s) := by
  unfold readStreamRequest; split <;> exact State.answer_evolves _ _ _ _ _ _

theorem readTenantRequest_evolves (r : Request) (s : State) : s.Evolves (readTenantRequest r s) := by
  unfold readTenantRequest; split <;> exact State.answer_evolves _ _ _ _ _ _

theorem getStatusRequest_evolves (level : LineLevel) (r : Request) (s : State) : s.Evolves (getStatusRequest level r s) := by
  unfold getStatusRequest; dsimp only; split <;> exact (s.setRetain_evolves level).answer _ _ _ _

theorem State.startRunning_evolves (s : State) : s.Evolves s.startRunning :=
  ((((s.modMgmt_only _).evolves.trans (State.fillQueues_evolves _)).trans (State.issueAgain_only _).evolves).trans
    (State.examineWork_evolves _ _)).trans (State.serveSuspended_evolves _)

theorem runRequest_evolves (r : Request) (s : State) : s.Evolves (runRequest r s) := by
  unfold runRequest; split
  · exact State.answer_evolves _ _ _ _ _ _
  · split
    · exact s.startRunning_evolves.answer _ _ _ _
    · exact State.answer_evolves _ _ _ _ _ _

theorem State.endHalt_evolves (s : State) (pl : Pledge) : s.Evolves (s.endHalt pl) :=
  ((s.modMgmt_only _).evolves.trans (State.modMgmt_only _ _).evolves).trans (State.replyManagement_only _ _ _ _ _ _ _).evolves

theorem State.startHalt_evolves (s : State) (pl : Pledge) : s.Evolves (s.startHalt pl) := by
  have halting := (s.stopIssue_only.evolves.trans (State.modMgmt_only _ (fun m => { m with device := .halting })).evolves).trans
    (State.modMgmt_only _ (fun m => { m with haltReply := some pl })).evolves
  unfold State.startHalt; dsimp only; split
  · exact halting.trans (State.endHalt_evolves _ pl)
  · exact halting.trans (State.serveSuspended_evolves _)

theorem haltRequest_evolves (r : Request) (s : State) : s.Evolves (haltRequest r s) := by
  unfold haltRequest; split
  · exact s.startHalt_evolves _
  all_goals exact State.answer_evolves _ _ _ _ _ _

theorem fencePortRequest_evolves (r : Request) (s : State) : s.Evolves (fencePortRequest r s) := by
  unfold fencePortRequest; split
  · exact State.answer_evolves _ _ _ _ _ _
  · next p _ =>
    have due := s.dueFence_evolves p
    dsimp only; split
    · exact due.answer _ _ _ _
    · exact (due.trans (State.fence_evolves _ p _)).answer _ _ _ _

theorem revivePortRequest_evolves (r : Request) (s : State) : s.Evolves (revivePortRequest r s) := by
  unfold revivePortRequest; split
  · exact State.answer_evolves _ _ _ _ _ _
  · next p _ =>
    have due := s.dueFence_evolves p
    dsimp only; split
    · exact due.answer _ _ _ _
    · exact (due.trans (State.modMaster_only _ p _).evolves).answer _ _ _ _

theorem State.clearFault_evolves (s : State) (d : DieId) : s.Evolves (s.clearFault d) := by
  have cleared := (s.modDie_evolves d (fun r => { r with
    state := .idle, backlogs := Table.replicate 7 [], passOver := Table.replicate 7 0, queue := [] })
    (fun ⟨_, ascending, _⟩ => ⟨Nat.zero_le _, ascending, fun l => by simp⟩)).trans
    (State.fillQueue_evolves _ d)
  unfold State.clearFault; dsimp only; split
  · exact ((cleared.trans (State.wakeGroup_only _ _).evolves).trans (State.examineWork_evolves _ _)).trans
      (State.serveSuspended_evolves _)
  · exact cleared

theorem clearDieFaultRequest_evolves (r : Request) (s : State) : s.Evolves (clearDieFaultRequest r s) := by
  unfold clearDieFaultRequest; split
  · exact State.answer_evolves _ _ _ _ _ _
  · split
    · exact (s.clearFault_evolves _).answer _ _ _ _
    · exact State.answer_evolves _ _ _ _ _ _

theorem cancelOrdersRequest_evolves (r : Request) (s : State) : s.Evolves (cancelOrdersRequest r s) := by
  unfold cancelOrdersRequest; split
  · exact State.answer_evolves _ _ _ _ _ _
  · exact (State.Evolves.foldl State.cancelSlot_evolves allSlots s).answer _ _ _ _

/-! ### Notices, settings and the other requests -/

theorem setTimersRequest_evolves (r : Request) (s : State) : s.Evolves (setTimersRequest r s) := State.answer_evolves _ _ _ _ _ _

theorem setFilterRequest_evolves (r : Request) (s : State) : s.Evolves (setFilterRequest r s) := State.answer_evolves _ _ _ _ _ _

theorem clearStatusRequest_evolves (r : Request) (s : State) : s.Evolves (clearStatusRequest r s) :=
  State.answer_evolves _ _ _ _ _ _

/-! ### Completions -/

theorem DieRecord.programEnded_legal (r : DieRecord) (k : PageKey) (h : r.Legal) : (r.programEnded k).Legal := by
  unfold DieRecord.programEnded; split
  · exact h
  · split <;> exact h

theorem State.endProgram_evolves (s : State) (e : TagEntry) (report : PageKey → State → State)
    (h : ∀ k (u : State), u.Evolves (report k u)) : s.Evolves (s.endProgram e report) := by
  unfold State.endProgram; split
  · exact .refl s
  · next k _ =>
    exact ((h _ s).trans (State.modDie_evolves _ _ _ (DieRecord.programEnded_legal _ k))).trans (State.serveSuspended_evolves _)

theorem State.eraseOutcome_evolves (s : State) (u : Nat) (done : Bool) : s.Evolves (s.eraseOutcome u done) :=
  (s.eraseOutcome_only u done).evolves

theorem State.endErase_evolves (s : State) (d : DieId) (u : Nat) (done : Bool) (l : Link → Link) (hl : s.link.Within (l s.link)) :
    s.Evolves (s.endErase d u done l) :=
  ((((s.setLink_evolves _ hl).trans (State.dieAfterErase_evolves _ d)).trans (State.eraseOutcome_evolves _ u done)).trans
    (State.examineFreed_evolves _ u)).trans (State.serveSuspended_evolves _)

theorem State.endCheck_evolves (s : State) (d : DieId) (u kind : Nat) :
    s.Evolves ((((s.dieAfterErase d).checkOutcome u kind).examineFreed u).serveSuspended) :=
  (((s.dieAfterErase_evolves d).trans (State.checkOutcome_evolves _ u kind)).trans (State.examineFreed_evolves _ u)).trans
    (State.serveSuspended_evolves _)

theorem State.holdErase_evolves (s : State) (d : DieId) : s.Evolves (s.holdErase d) :=
  ((s.modDie_evolves d _).trans (State.grantWindows_evolves _ d)).trans (State.serveSuspended_evolves _)

theorem State.takeSuspend_evolves (s : State) (d : DieId) (kind : Nat) : s.Evolves (s.takeSuspend d kind) := by
  unfold State.takeSuspend; split
  · split
    · split
      · exact s.holdErase_evolves d
      · exact (s.abandonErase_evolves d)
    · exact .ite (fun _ => s.modDie_evolves d _) (fun _ => .refl s)
  · exact .refl s

/-! ### The part's own commands -/

theorem execSearchExamine_evolves (g : GroupId) (s : State) : s.EvolvesBy (execSearchExamine g s) := by
  unfold execSearchExamine; split
  · exact (State.Evolves.refl s).next
  · split
    · exact (s.modReclaim_only g _).evolves.next
    · exact .nextIf (s.modReclaim_only g _).evolves (.refl s)

theorem State.issueOrder_evolves (s : State) (g : GroupId) (k : OrderSlotId) (q : IssuePlan) : s.Evolves (s.issueOrder g k q) :=
  ((((s.moveToReclaim_only q.unit k).evolves.trans (State.setReclaim_only _ _).evolves).trans
    (State.modReclaim_only _ g _).evolves).trans (State.setOrder_only _ _ _).evolves).trans (State.offerNotice_only _ _ _).evolves

theorem execOrderIssue_evolves (g : GroupId) (s : State) : s.EvolvesBy (execOrderIssue g s) := by
  have idle := (s.modReclaim_only g ReclaimRecord.toIdle).evolves
  unfold execOrderIssue; split
  · exact (State.Evolves.refl s).next
  · split
    · split
      · split
        · exact (s.issueOrder_evolves g _ _).next
        · exact idle.next
      · exact idle.next
    · exact (State.Evolves.refl s).next

theorem State.offerErase_evolves (s : State) (d : DieId) (hp : s.link.hasPlace = true) : s.Evolves (s.offerErase d) := by
  unfold State.offerErase; dsimp only; split
  · exact s.suspendToAbandon_evolves d _ hp
  · exact .thenIf (.refl s) (s.trigger_evolves d true)

theorem State.offerDie_evolves (s : State) (d : DieId) (hp : s.link.hasPlace = true) : s.Evolves (s.offerDie d) := by
  unfold State.offerDie; split
  · exact s.arbitrateDie_evolves d true
  · exact s.offerErase_evolves d hp
  · exact s.serveDie_evolves d true
  all_goals exact .refl s

theorem execWaitingDieOffer_evolves (s : State) : s.EvolvesBy (execWaitingDieOffer s) := by
  unfold execWaitingDieOffer; split
  · exact (State.Evolves.refl s).next
  · next d rest _ =>
    split
    · next hp => exact ((s.setLink_evolves { s.link with waiting := rest } ⟨List.Sublist.refl _, le_rfl⟩).trans (State.offerDie_evolves _ d hp)).next
    · exact (State.Evolves.refl s).next

theorem Link.markSent_jobs (l : Link) (t : Byte) : (l.markSent t).map TagEntry.job = l.tags.map TagEntry.job := by
  have same : TagEntry.job ∘ (fun e : TagEntry => if e.tag = t then { e with phase := .sent } else e) = TagEntry.job := by
    funext e; simp only [Function.comp_apply]; split <;> rfl
  rw [Link.markSent, List.map_map, same]

theorem execDescriptorSend_evolves (s : State) : s.EvolvesBy (execDescriptorSend s) := by
  unfold execDescriptorSend; split
  · exact (State.Evolves.refl s).next
  · next x rest hq =>
    exact (s.setLink_evolves _ ⟨by rw [Link.markSent_jobs], by rw [hq]; exact Nat.le_succ _⟩).next

theorem execPlacePage_evolves (st : StreamId) (cls : WriteClass) (s : State) : s.EvolvesBy (execPlacePage st cls s) := by
  have settled := s.settleSlots_evolves st
  unfold execPlacePage; dsimp only; split
  · exact settled.next
  · exact .nextIf ((settled.trans (State.attemptFresh_evolves _ st _)).trans (State.serveSuspended_evolves _)) settled

theorem execReplacePage_evolves (st : StreamId) (s : State) : s.EvolvesBy (execReplacePage st s) := by
  have settled := s.settleSlots_evolves st
  unfold execReplacePage; dsimp only; split
  · exact settled.next
  · exact .nextIf ((settled.trans (State.attemptReplace_evolves _ st)).trans (State.serveSuspended_evolves _)) settled

theorem execWriteEnd_evolves (p : MasterId) (slot : ReplySlot) (s : State) : s.EvolvesBy (execWriteEnd p slot s) := by
  unfold execWriteEnd; split
  · exact (State.Evolves.refl s).next
  · exact .nextIf (s.endRequest_evolves _) (.refl s)

/-! ### Port memory -/

theorem execRequestTailWrite_evolves (p : PortId) (w : IndexWrite) (s : State) : s.EvolvesBy (execRequestTailWrite p w s) := by
  have held := (s.settlePort_evolves p).trans (State.modRing_only _ p (fun r => r.holdIndex requestTailOffset w)).evolves
  unfold execRequestTailWrite
  exact .nextIf (held.trans (State.modRing_only _ p _).evolves) held

theorem execReplyHeadWrite_evolves (p : PortId) (w : IndexWrite) (s : State) : s.EvolvesBy (execReplyHeadWrite p w s) := by
  have held := (s.settlePort_evolves p).trans (State.modRing_only _ p (fun r => r.holdIndex replyHeadOffset w)).evolves
  unfold execReplyHeadWrite; dsimp only; split
  · exact .nextIf (held.trans (((State.modRing_only _ p _).evolves.trans (State.heard_only _ p).evolves).trans
      (State.noticesFreed_only _ p).evolves)) (held.trans (State.modRing_only _ p _).evolves)
  · exact held.next

theorem execOtherMemoryWrite_evolves (p : PortId) (offset : Nat) (bytes : List Byte) (s : State) :
    s.EvolvesBy (execOtherMemoryWrite p offset bytes s) := by
  unfold execOtherMemoryWrite; split
  · rintro _ ⟨⟩
  · exact .nextIf (.refl s) (s.modRing_only p _).evolves

/-! ### Lines and time -/

theorem DieRecord.reset_legal : DieRecord.reset.Legal := ⟨Nat.zero_le _, .nil, fun l => by simp [DieRecord.reset]⟩

theorem execDeviceReset_evolves (s : State) : s.EvolvesBy (execDeviceReset s) := by
  have dies := s.setDies_evolves State.reset.dies (fun d _ => by simpa [State.reset] using DieRecord.reset_legal)
  have link := dies.trans (State.setLink_evolves _ Link.reset ⟨by simp [Link.reset], Nat.zero_le _⟩)
  have rest : s.Evolves { State.reset with inputs := s.inputs, pending := s.pending } := link.trans .of_eq
  refine State.Evolves.next ?_
  exact .ite (fun _ => rest.trans (State.flagPlw_only _).evolves) (fun _ => rest)

theorem State.plwDie_evolves (s : State) (d : DieId) : s.Evolves (s.plwDie d) := by
  unfold State.plwDie; dsimp only; split
  · exact .ite (fun h => s.suspendToAbandon_evolves d _ (s.mayHandOver_place false h))
      (fun _ => (s.modDie_evolves d _).trans (State.joinWaiting_evolves _ d))
  · exact s.abandonErase_evolves d
  · exact .refl s

theorem State.plwQueue_evolves (s : State) (d : DieId) : s.Evolves (s.plwQueue d) := by
  refine (s.modDie_evolves d _ (fun ⟨queue, ascending, counts⟩ => ?_)).trans (State.abandonUnits_only _ _).evolves
  exact ⟨(List.length_filter_le _ _).trans queue, foldr_insertNat_ascending _ _ ascending, counts⟩

theorem State.plwDies_evolves (l : List DieId) (s : State) : s.Evolves (l.foldl (fun s d => (s.plwDie d).plwQueue d) s) := by
  refine .foldl ?_ l s
  intro u d
  exact (u.plwDie_evolves d).trans (State.plwQueue_evolves _ d)

theorem execPlwNAsserted_evolves (s : State) : s.EvolvesBy (execPlwNAsserted s) := by
  have low : s.Evolves { s with inputs := { s.inputs with plwN := .low } } := (State.Change.lines _ (fun _ => rfl)).evolves
  have stopped := (low.trans (State.flagPlw_only _).evolves).trans (State.stopIssue_only _).evolves
  exact .nextIf (.refl s) (stopped.trans (State.plwDies_evolves _ _))

theorem DieRecord.tickOn_legal (r : DieRecord) (h : r.Legal) : r.tickOn.Legal := h

theorem execTick_evolves (s : State) : s.EvolvesBy (execTick s) := by
  have ticked := State.setDies_evolves s.settleRefills (s.settleRefills.dies.map DieRecord.tickOn) (fun d h => by
    rw [Table.get_map]; exact DieRecord.tickOn_legal _ h)
  exact State.Evolves.next (s.settleRefills_only.evolves.trans (ticked.trans .of_eq))

theorem execEpochAdvance_evolves (s : State) : s.EvolvesBy (execEpochAdvance s) := by
  unfold execEpochAdvance
  exact .nextIf (.of_eq) (.refl s)

theorem execOrderExpiry_evolves (g : GroupId) (k : OrderSlotId) (s : State) : s.EvolvesBy (execOrderExpiry g k s) := by
  unfold execOrderExpiry; split
  · exact .nextIf (s.closeOrder_evolves _ _ _) (.refl s)
  · exact (State.Evolves.refl s).next

theorem execWindowExpiry_evolves (d : DieId) (p : MasterId) (s : State) : s.EvolvesBy (execWindowExpiry d p s) := by
  unfold execWindowExpiry
  exact .nextIf ((s.modDie_evolves d _).trans (State.serveSuspended_evolves _)) (.refl s)

theorem State.faultUnit_evolves (s : State) (u : Nat) : s.Evolves (s.faultUnit u) := by
  unfold State.faultUnit; split
  · exact s.programFailed_evolves _
  · split
    · split
      · split
        · split
          · exact s.sealSlot_evolves _ _
          · exact .refl s
        · exact .refl s
      · exact .refl s
    · exact .refl s

theorem State.faultBackground_evolves (s : State) (d : DieId) (running : Option Nat) : s.Evolves (s.faultBackground d running) :=
  (s.modDie_evolves d _ (fun ⟨_, ascending, counts⟩ => ⟨Nat.zero_le _, foldr_insertNat_ascending _ _ ascending, counts⟩)).trans
    (State.abandonUnits_only _ _).evolves

theorem State.faultDie_evolves (s : State) (d : DieId) (op : Operation) : s.Evolves (s.faultDie d op) :=
  ((((((s.modDie_evolves d _ (fun ⟨queue, ascending, _⟩ => ⟨queue, ascending, fun l => by simp [DieRecord.fault]⟩)).trans
    (State.setLink_evolves _ _ (Link.releaseDie_within _ d))).trans (.foldl State.faultUnit_evolves _ _)).trans
    (State.faultBackground_evolves _ d _)).trans (State.grantWindows_evolves _ d)).trans
    (State.flagDieFault_only _ d _).evolves).trans (State.offerManagement_only _ _ _).evolves

theorem execDieFault_evolves (d : DieId) (s : State) : s.EvolvesBy (execDieFault d s) := by
  unfold execDieFault; dsimp only; split
  · exact .nextIf (s.faultDie_evolves d _) (.refl s)
  · exact (State.Evolves.refl s).next

theorem execHaltComplete_evolves (s : State) : s.EvolvesBy (execHaltComplete s) := by
  unfold execHaltComplete; split
  · exact .nextIf (s.endHalt_evolves _) (.refl s)
  · exact (State.Evolves.refl s).next

theorem execArbitrate_evolves (d : DieId) (s : State) : s.EvolvesBy (execArbitrate d s) := by
  unfold execArbitrate
  exact .nextIf (s.arbitrateDie_evolves d _) (.refl s)

theorem execWindowGrant_evolves (d : DieId) (s : State) : s.EvolvesBy (execWindowGrant d s) := by
  unfold execWindowGrant
  exact .nextIf (s.grantWindows_evolves d) (.refl s)

theorem execDrainEnd_evolves (st : StreamId) (s : State) : s.EvolvesBy (execDrainEnd st s) := by
  unfold execDrainEnd
  exact .nextIf (s.endDrain_evolves st) (.refl s)

theorem execStrayCompletion_evolves (c : Completion) (s : State) : s.EvolvesBy (execStrayCompletion c s) := by
  unfold execStrayCompletion; split
  · exact (State.Evolves.refl s).next
  · exact (s.flagStray_only.evolves.trans (State.offerManagement_only _ _ _).evolves).next

/-! ### Every command -/

theorem State.onManagement_evolves (s : State) (kind : Nat) (act : Request → State → State)
    (h : ∀ r (u : State), u.Evolves (act r u)) : s.EvolvesBy (s.onManagement kind act) := s.onRequest_evolves _ _ act h

/-- Every command but PLW_N_DEASSERTED changes dies, link and PLW_N by single changes. -/
theorem exec_evolves (c : Instr) (s : State) (hc : c ≠ .plwNDeasserted) : s.EvolvesBy (exec c s) := by
  cases c <;> dsimp only [exec]
  case deviceReset => exact execDeviceReset_evolves s
  case plwNAsserted => exact execPlwNAsserted_evolves s
  case plwNDeasserted => exact absurd rfl hc
  case tick => exact execTick_evolves s
  case epochAdvance => exact execEpochAdvance_evolves s
  case creditAdmission t => exact (s.examineCredit_only t).evolves.next
  case idleSeal st q => exact (s.dueSeal_evolves st q).next
  case orderExpiry g k => exact execOrderExpiry_evolves g k s
  case windowExpiry d p => exact execWindowExpiry_evolves d p s
  case dieFault d => exact execDieFault_evolves d s
  case inactivityFence p => exact (s.dueFence_evolves p).next
  case requestTailWrite p w => exact execRequestTailWrite_evolves p w s
  case replyHeadWrite p w => exact execReplyHeadWrite_evolves p w s
  case otherMemoryWrite p offset bytes => exact execOtherMemoryWrite_evolves p offset bytes s
  case noticeWrite p => exact (s.writeOldest_only p).evolves.next
  case openStream p => exact s.onRequest_evolves _ _ _ (openStreamRequest_evolves p)
  case closeStream p => exact s.onRequest_evolves _ _ _ (closeStreamRequest_evolves p)
  case drainStream p => exact s.onRequest_evolves _ _ _ (drainStreamRequest_evolves p)
  case drainEnd st => exact execDrainEnd_evolves st s
  case resumeStream p => exact s.onRequest_evolves _ _ _ (resumeStreamRequest_evolves p)
  case setProfile p => exact s.onRequest_evolves _ _ _ (setProfileRequest_evolves p)
  case write p => exact s.onRequest_evolves _ _ _ (writeRequest_evolves p)
  case placePage st cls => exact execPlacePage_evolves st cls s
  case replacePage st => exact execReplacePage_evolves st s
  case invalidate p => exact s.onRequest_evolves _ _ _ invalidateRequest_evolves
  case unitDrained p => exact s.onRequest_evolves _ _ _ (unitDrainedRequest_evolves p)
  case hold p => exact s.onRequest_evolves _ _ _ (holdRequest_evolves _)
  case fix p => exact s.onRequest_evolves _ _ _ (holdRequest_evolves _)
  case release p level => exact s.onRequest_evolves _ _ _ (releaseRequest_evolves level)
  case readWindow p => exact s.onRequest_evolves _ _ _ (readWindowRequest_evolves p)
  case windowGrant d => exact execWindowGrant_evolves d s
  case endWindow p => exact s.onRequest_evolves _ _ _ (endWindowRequest_evolves p)
  case ping p => exact s.onRequest_evolves _ _ _ (fun r u => u.answer_evolves u r _ _ _)
  case queryUnit p => exact s.onRequest_evolves _ _ _ queryUnitRequest_evolves
  case unknownMasterRequest p => exact s.onRequest_evolves _ _ _ (fun r u => u.answer_evolves u r _ _ _)
  case setGeometry => exact s.onManagement_evolves _ _ setGeometryRequest_evolves
  case setGroup => exact s.onManagement_evolves _ _ setGroupRequest_evolves
  case setTimebase => exact s.onManagement_evolves _ _ setTimebaseRequest_evolves
  case setTimers => exact s.onManagement_evolves _ _ setTimersRequest_evolves
  case setTenant => exact s.onManagement_evolves _ _ setTenantRequest_evolves
  case setStream => exact s.onManagement_evolves _ _ setStreamRequest_evolves
  case setFilter => exact s.onManagement_evolves _ _ setFilterRequest_evolves
  case seekUnits => exact s.onManagement_evolves _ _ seekUnitsRequest_evolves
  case loadUnits => exact s.onManagement_evolves _ _ loadUnitsRequest_evolves
  case readUnit => exact s.onManagement_evolves _ _ readUnitRequest_evolves
  case readStream => exact s.onManagement_evolves _ _ readStreamRequest_evolves
  case readTenant => exact s.onManagement_evolves _ _ readTenantRequest_evolves
  case getStatus level => exact s.onManagement_evolves _ _ (getStatusRequest_evolves level)
  case clearStatus => exact s.onManagement_evolves _ _ clearStatusRequest_evolves
  case run => exact s.onManagement_evolves _ _ runRequest_evolves
  case halt => exact s.onManagement_evolves _ _ haltRequest_evolves
  case haltComplete => exact execHaltComplete_evolves s
  case fencePort => exact s.onManagement_evolves _ _ fencePortRequest_evolves
  case revivePort => exact s.onManagement_evolves _ _ revivePortRequest_evolves
  case clearDieFault => exact s.onManagement_evolves _ _ clearDieFaultRequest_evolves
  case cancelOrders => exact s.onManagement_evolves _ _ cancelOrdersRequest_evolves
  case unknownMgmtRequest => exact s.onRequest_evolves _ _ _ (fun r u => u.answer_evolves u r _ _ _)
  case searchExamine g => exact execSearchExamine_evolves g s
  case orderIssue g => exact execOrderIssue_evolves g s
  case arbitrate d => exact execArbitrate_evolves d s
  case queueFill d => exact (s.fillQueue_evolves d).next
  case waitingDieOffer => exact execWaitingDieOffer_evolves s
  case descriptorSend => exact execDescriptorSend_evolves s
  case programDone c => exact s.onCompletion_evolves c _ _ _ (fun e u => u.endProgram_evolves e _ (fun k v => v.pageDone_evolves k))
  case programFail c => exact s.onCompletion_evolves c _ _ _ (fun e u => u.endProgram_evolves e _ (fun k v => v.programFailed_evolves k))
  case writeEnd p slot => exact execWriteEnd_evolves p slot s
  case eraseCompletion c => exact s.onCompletion_evolves c _ _ _ (fun e u => u.endErase_evolves _ _ _ _ (u.link.endErase_within _ _))
  case checkCompletion c => exact s.onCompletion_evolves c _ _ _ (fun e u => u.endCheck_evolves _ _ _)
  case suspendAnswer c => exact s.onCompletion_evolves c _ _ _ (fun e u => by split; exacts [.refl u, u.takeSuspend_evolves _ _])
  case resumeAnswer c => exact s.onCompletion_evolves c _ _ _ (fun e u => .thenIf (.refl u) (u.endErase_evolves _ _ _ _ (u.link.releaseErase_within _ _)))
  case strayCompletion c => exact execStrayCompletion_evolves c s

theorem clockPeriod_evolves (s : State) : s.EvolvesBy s.clockPeriod := by
  unfold State.clockPeriod; split
  · exact State.Evolves.next .of_eq
  · exact execTick_evolves s

/-! ## The limits of the dies -/

theorem State.Change.dies_legal {s t : State} (h : s.Change t) (d : DieId) (hs : (s.dies.get d).Legal) : (t.dies.get d).Legal := by
  cases h with
  | aside only => rw [only .dies (by decide)]; exact hs
  | dies r keeps => exact keeps d hs
  | lines => exact hs
  | link => exact hs
  | handOver kind e u page => rw [State.handOver_dies]; exact hs

theorem State.Evolves.dies_legal {s t : State} (h : s.Evolves t) (hs : s.DiesLegal) : t.DiesLegal := by
  induction h with
  | refl => exact hs
  | tail _ change ih => exact fun d => change.dies_legal d (ih d)

/-- PLW_N_DEASSERTED deasserts the line, and then makes single changes that hand nothing over (R129). -/
theorem execPlwNDeasserted_cases (s t : State) (h : execPlwNDeasserted s = .next t) :
    t = s ∨ t = ({ s with inputs := { s.inputs with plwN := .high } } : State).fillQueues.issueAgain := by
  unfold execPlwNDeasserted at h
  dsimp only at h
  split at h
  · exact .inr (Host.Outcome.next.inj h).symm
  · exact .inl (Host.Outcome.next.inj h).symm

theorem execPlwNDeasserted_dies_legal (s t : State) (hs : s.DiesLegal) (h : execPlwNDeasserted s = .next t) : t.DiesLegal := by
  obtain same | same := execPlwNDeasserted_cases s t h <;> rw [same]
  · exact hs
  · have filled := State.fillQueues_evolves { s with inputs := { s.inputs with plwN := .high } }
    exact (filled.trans (State.issueAgain_only _).evolves).dies_legal hs

theorem exec_dies_legal (c : Instr) (s t : State) (hs : s.DiesLegal) (h : exec c s = .next t) : t.DiesLegal := by
  by_cases hc : c = .plwNDeasserted
  · subst hc; exact execPlwNDeasserted_dies_legal s t hs h
  · exact (exec_evolves c s hc t h).dies_legal hs

/-- Settles O5: a step is the command in front of the queue, or a REFCLK period. -/
theorem stepKeepsDies : Obligations.StepKeepsDies := by
  unfold Obligations.StepKeepsDies
  intro s t hs ht
  unfold step at ht; split at ht
  · exact (clockPeriod_evolves s t ht).dies_legal hs
  · next c rest _ => exact exec_dies_legal c { s with pending := rest } t hs ht

/-! ## Erases and checks under PLW_N -/

/-- PLW_N is still asserted, and every ERASE and CHECK of the table was in another's table, in whatever phase. -/
def State.StartsNone (s t : State) : Prop :=
  t.plwAsserted = true ∧ ∀ e ∈ t.link.tags, e.kind.startsBackground → ∃ x ∈ s.link.tags, x.job = e.job

theorem State.StartsNone.refl {s : State} (h : s.plwAsserted = true) : s.StartsNone s := ⟨h, fun e he _ => ⟨e, he, rfl⟩⟩

theorem State.StartsNone.trans {s t u : State} (h : s.StartsNone t) (k : t.StartsNone u) : s.StartsNone u := by
  refine ⟨k.1, fun e he hk => ?_⟩
  obtain ⟨x, hx, same⟩ := k.2 e he hk
  have kind : x.kind = e.kind := congrArg (fun j => j.2.1) same
  obtain ⟨y, hy, before⟩ := h.2 x hx (kind ▸ hk)
  exact ⟨y, hy, before.trans same⟩

theorem State.Change.startsNone {s t : State} (h : s.Change t) (hs : s.plwAsserted = true) : s.StartsNone t := by
  cases h with
  | aside only =>
    refine ⟨?_, fun e he _ => ⟨e, only .link (by decide) ▸ he, rfl⟩⟩
    rw [State.plwAsserted, only .inputs (by decide)]; exact hs
  | dies r _ => exact .refl hs
  | lines i low => exact ⟨decide_eq_true (low hs), fun e he _ => ⟨e, he, rfl⟩⟩
  | link l sub _ =>
    refine ⟨hs, fun e he _ => ?_⟩
    exact List.mem_map.mp (sub.subset (List.mem_map_of_mem he))
  | handOver kind d u page _ deasserted =>
    refine ⟨hs, fun e he hk => ?_⟩
    rcases List.mem_append.mp he with he | he
    · exact ⟨e, he, rfl⟩
    · rw [List.mem_singleton.mp he] at hk
      exact absurd (deasserted hk) (by simp [hs])

theorem State.Evolves.startsNone {s t : State} (h : s.Evolves t) (hs : s.plwAsserted = true) : s.StartsNone t := by
  induction h with
  | refl => exact .refl hs
  | tail _ change ih => exact ih.trans (change.startsNone ih.1)

theorem execPlwNDeasserted_link (s t : State) (h : execPlwNDeasserted s = .next t) : t.link = s.link := by
  obtain same | same := execPlwNDeasserted_cases s t h <;> rw [same]
  · have filled := State.fillQueues_only { s with inputs := { s.inputs with plwN := .high } }
    exact (State.issueAgain_only _ .link (by decide)).trans (filled .link (by decide))

/-- Settles O7: a hand-over of an ERASE or a CHECK needs PLW_N deasserted, PLW_N_DEASSERTED itself hands nothing over, and no other command
deasserts the line. -/
theorem noEraseStartsUnderPlw : Obligations.NoEraseStartsUnderPlw := by
  unfold Obligations.NoEraseStartsUnderPlw
  intro c s t hs ht e he hk
  by_cases hc : c = .plwNDeasserted
  · subst hc
    exact ⟨e, execPlwNDeasserted_link s t ht ▸ he, rfl, rfl, rfl, rfl⟩
  · obtain ⟨x, hx, same⟩ := ((exec_evolves c s hc t ht).startsNone hs).2 e he hk
    simp only [TagEntry.job, Prod.mk.injEq] at same
    exact ⟨x, hx, same⟩

end Sys2Proof.Machine
end

section
/-!
PROOFS. PLW_N_DEASSERTED (R129): the line is high again, the background queues that are open are filled, and the Reclaim Controller may issue.
-/

namespace Sys2Proof.Machine

set_option Elab.async false

/-- The part with PLW_N deasserted, before the queues are filled. -/
def State.plwHigh (s : State) : State := { s with inputs := { s.inputs with plwN := .high } }

/-- Filling the queues changes no more of a die than its queue and its waiting units. -/
theorem State.fillQueues_change (s : State) : s.UnitChange 0 s.fillQueues := by
  unfold State.fillQueues
  generalize List.finRange 32 = l
  induction l generalizing s with
  | nil => exact .refl s 0
  | cons d l ih => exact (s.fillQueue_change 0 d).trans (ih _)

/-- Settles O11: the queues are filled with the line high, after which the groups are looked through. -/
theorem plwDeassertedReopens : Obligations.PlwDeassertedReopens := by
  unfold Obligations.PlwDeassertedReopens
  intro s hs
  have inputs : s.Only [.inputs] s.plwHigh := s.setInputs_only _
  have filled : s.plwHigh.Only [.dies] s.plwHigh.fillQueues := s.plwHigh.fillQueues_only
  have again := s.plwHigh.fillQueues.issueAgain_only
  have high : s.plwHigh.plwAsserted = false := rfl
  have dies : s.plwHigh.fillQueues.issueAgain.dies = s.plwHigh.fillQueues.dies := again .dies (by decide)
  refine ⟨s.plwHigh.fillQueues.issueAgain, ?_, ?_, fun d => ?_, fun hr g r h => ?_, ?_⟩
  · simp only [exec, execPlwNDeasserted, hs, if_true]; rfl
  · exact (again .inputs (by decide)).trans (filled .inputs (by decide))
  · have kept := s.plwHigh.fillQueues_change.dies d
    rw [dies]
    refine ⟨by rw [kept]; rfl, by rw [kept]; rfl, fun hr hf => ?_⟩
    refine s.plwHigh.fillQueues_filled d ?_
    simpa only [State.queueOpen, high, State.isRunning, Bool.and_eq_true, decide_eq_true_eq, Bool.not_false, and_true] using ⟨of_decide_eq_true hr, hf⟩
  · refine s.plwHigh.fillQueues.issueAgain_search ?_ g r h
    simp only [State.mayIssue, State.isRunning, filled.plwAsserted, show s.plwHigh.fillQueues.mgmt = s.mgmt from filled .mgmt (by decide)]
    rw [high]
    simpa [State.isRunning] using hr
  · exact ((inputs.mono (by decide)).andThen filled (gs := [.groups, .dies, .inputs])).andThen again

end Sys2Proof.Machine
end

section
/-!
PROOFS. What the abandonment of an erase does (R128): the die after its erase, the erase's tags, its unit while the background queues are closed,
and the searches that have been stopped.
-/

namespace Sys2Proof.Machine

set_option Elab.async false

/-! ## The die after its erase -/

/-- A die record once its erase has ended, before its WAITING windows are granted (R119, R144). -/
def DieRecord.afterErase (r : DieRecord) : DieRecord :=
  match r.suspendedProgram with
  | some k => { r with
      state := .program, current := some (.program k), suspendedProgram := none, purpose := none, programs := none, heldErase := none }
  | none => { r with state := .idle, current := none, purpose := none, programs := none, opTimer := none, heldErase := none }

theorem State.dieAfterErase_eq (s : State) (d : DieId) : s.dieAfterErase d = (s.modDie d DieRecord.afterErase).grantWindows d := rfl

/-- A window once the WAITING windows of its die are granted (R125). -/
def Window.granted (ticks : Nat) : Window → Window
  | .waiting _ => .opened ticks
  | w => w

theorem State.grantWindows_others (s : State) (d x : DieId) (h : x ≠ d) : (s.grantWindows d).dies.get x = s.dies.get x :=
  (s.grantWindows_cases d).1 x h

theorem State.grantWindows_die (s : State) (d : DieId) :
    (s.grantWindows d).dies.get d = { s.dies.get d with windows := (s.dies.get d).windows.map (Window.granted s.windowTicks) } := by
  obtain ⟨-, self, windows⟩ := s.grantWindows_cases d
  have granted : ((s.grantWindows d).dies.get d).windows = (s.dies.get d).windows.map (Window.granted s.windowTicks) := by
    refine Table.ext_get _ _ (fun p => ?_)
    obtain ⟨granted, kept⟩ := windows p
    rw [Table.get_map]
    cases hw : (s.dies.get d).windows.get p with
    | waiting pl => exact (granted pl hw).1
    | closed => exact (kept (by simp [hw])).1.trans hw
    | opened n => exact (kept (by simp [hw])).1.trans hw
  rw [granted] at self
  exact self

theorem State.dieAfterErase_die (s : State) (d : DieId) :
    (s.dieAfterErase d).dies.get d =
      { (s.dies.get d).afterErase with windows := (s.dies.get d).windows.map (Window.granted s.windowTicks) } := by
  have windows : (s.dies.get d).afterErase.windows = (s.dies.get d).windows := by unfold DieRecord.afterErase; split <;> rfl
  rw [State.dieAfterErase_eq, State.grantWindows_die, State.modDie_dies, Table.get_modify_self, windows]
  rfl

theorem State.dieAfterErase_others (s : State) (d x : DieId) (h : x ≠ d) : (s.dieAfterErase d).dies.get x = s.dies.get x := by
  rw [State.dieAfterErase_eq, State.grantWindows_others _ d x h, State.modDie_dies, Table.get_modify_ne _ _ _ _ h]

theorem DieRecord.afterErase_background (r : DieRecord) : r.afterErase.queue = r.queue ∧ r.afterErase.waiting = r.waiting := by
  unfold DieRecord.afterErase; split <;> exact ⟨rfl, rfl⟩

/-! ## The tags of an erase -/

/-- An entry of the table stays, or is marked as ended. -/
def TagEntry.Keeps (x e : TagEntry) : Prop :=
  e.tag = x.tag ∧ e.die = x.die ∧ e.kind = x.kind ∧ e.unit = x.unit ∧ e.phase = x.phase ∧ (x.ended = true → e.ended = true)

theorem TagEntry.Keeps.refl (e : TagEntry) : e.Keeps e := ⟨rfl, rfl, rfl, rfl, rfl, id⟩

theorem Link.endErase_keeps (l : Link) (d : DieId) (u : Nat) (e : TagEntry) (he : e ∈ (l.endErase d u).tags) :
    ∃ x ∈ l.tags, x.Keeps e := by
  obtain ⟨x, hx, rfl⟩ := List.mem_map.mp he
  refine ⟨x, List.mem_of_mem_filter hx, ?_⟩
  split
  · exact ⟨rfl, rfl, rfl, rfl, rfl, fun _ => rfl⟩
  · exact .refl x

/-- After an erase has ended, no SUSPEND or RESUME of it is left that is not sent, but one that has been ended before (R144, R145). -/
theorem Link.endErase_steering (l : Link) (d : DieId) (u : Nat) (e : TagEntry) (he : e ∈ (l.endErase d u).tags) (hd : e.die = d)
    (hu : e.unit = u) (hk : e.kind = .suspend ∨ e.kind = .resume) : e.ended = true := by
  obtain ⟨x, -, rfl⟩ := List.mem_map.mp he
  by_cases hs : x.steers d u = true
  · simp [hs]
  · rw [if_neg hs] at hd hu hk ⊢
    simpa [TagEntry.steers, hd, hu, hk] using hs

theorem Link.foldl_release_tags (own : List Byte) (l : Link) (e : TagEntry) :
    e ∈ (own.foldl Link.release l).tags ↔ e ∈ l.tags ∧ e.tag ∉ own := by
  induction own generalizing l with
  | nil => simp
  | cons t own ih => simp [ih, Link.release, and_assoc]

theorem Link.foldl_release_waiting (own : List Byte) (l : Link) : (own.foldl Link.release l).waiting = l.waiting := by
  induction own generalizing l with
  | nil => rfl
  | cons t own ih => exact ih _

theorem Link.releaseErase_waiting (l : Link) (d : DieId) (u : Nat) : (l.releaseErase d u).waiting = l.waiting :=
  Link.foldl_release_waiting _ l

theorem Link.releaseErase_keeps (l : Link) (d : DieId) (u : Nat) (e : TagEntry) (he : e ∈ (l.releaseErase d u).tags) :
    ∃ x ∈ l.tags, x.Keeps e := by
  obtain ⟨x, hx, keeps⟩ := Link.endErase_keeps _ d u e he
  exact ⟨x, ((Link.foldl_release_tags _ l x).mp hx).1, keeps⟩

theorem Link.releaseErase_steering (l : Link) (d : DieId) (u : Nat) (e : TagEntry) (he : e ∈ (l.releaseErase d u).tags) (hd : e.die = d)
    (hu : e.unit = u) (hk : e.kind = .suspend ∨ e.kind = .resume) : e.ended = true := Link.endErase_steering _ d u e he hd hu hk

/-- An erase whose release is asked for has no tag of its own left (R146). -/
theorem Link.releaseErase_erase (l : Link) (d : DieId) (u : Nat) (e : TagEntry) (he : e ∈ (l.releaseErase d u).tags) (hd : e.die = d)
    (hu : e.unit = u) : e.kind ≠ .erase := by
  intro hk
  obtain ⟨x, hx, -, die, kind, unit, -⟩ := Link.endErase_keeps _ d u e he
  obtain ⟨mem, other⟩ := (Link.foldl_release_tags _ l x).mp hx
  refine other (List.mem_map_of_mem (List.mem_filter.mpr ⟨mem, ?_⟩))
  simp [← die, ← unit, ← kind, hd, hu, hk]

/-! ## Searches that have been stopped -/

/-- The result of every search in progress is to be discarded (R84, R85). -/
def State.SearchesStopped (s : State) : Prop := ∀ g k, s.reclaimOf g = some k → k.search = .searching → k.discard = true

theorem State.SearchesStopped.of_groups {s t : State} (h : s.SearchesStopped) (hg : t.groups = s.groups) : t.SearchesStopped := by
  intro g k hk; rw [State.reclaimOf, hg] at hk; exact h g k hk

theorem State.stopIssue_stopped (s : State) : s.stopIssue.SearchesStopped := by
  intro g k hk hs
  simp only [State.reclaimOf, State.stopIssue, Table.get_map, Option.map_map] at hk
  obtain ⟨r, -, rfl⟩ := Option.map_eq_some_iff.mp hk
  simp only [Function.comp_apply] at hs ⊢
  unfold ReclaimRecord.stop at hs ⊢
  split <;> simp_all

theorem State.modReclaim_stopped (s : State) (g : GroupId) (f : ReclaimRecord → ReclaimRecord)
    (hf : ∀ k, (k.search = .searching → k.discard = true) → (f k).search = .searching → (f k).discard = true) (h : s.SearchesStopped) :
    (s.modReclaim g f).SearchesStopped := by
  intro x k hk
  by_cases hx : x = g
  · subst hx
    rw [State.reclaimOf_modReclaim] at hk
    obtain ⟨y, hy, rfl⟩ := Option.map_eq_some_iff.mp hk
    exact hf y (h x y hy)
  · refine h x k ?_
    rw [← hk, State.reclaimOf, State.reclaimOf, State.modReclaim_groups, Table.get_modify_ne _ _ _ _ hx]

theorem ReclaimRecord.deactivate_discard (k : ReclaimRecord) (hs : k.deactivate.search = .searching) : k.deactivate.discard = true := by
  unfold ReclaimRecord.deactivate at hs ⊢
  split <;> simp_all

theorem State.reportCounts_stopped (s : State) (u : Nat) (h : s.SearchesStopped) : (s.reportCounts u).SearchesStopped := by
  unfold State.reportCounts; split
  · unfold State.evaluateActivity; split
    · exact h
    · refine s.modReclaim_stopped _ _ (fun k hk => ?_) h
      split
      · exact hk
      · exact k.deactivate_discard
  · exact h

/-! ## What the response of one die leaves -/

/-- Units become UNKNOWN and join the waiting units, and a search that has been stopped stays stopped. -/
structure State.Abandons (s t : State) : Prop where
  units : ∀ u, t.unit? u = s.unit? u ∨ t.unit? u = (s.unit? u).map UnitRecord.toUnknown
  waiting : ∀ d, (s.dies.get d).waiting ⊆ (t.dies.get d).waiting
  stopped : s.SearchesStopped → t.SearchesStopped
  only : s.Only [.units, .groups, .dies, .link, .masters] t

theorem UnitRecord.toUnknown_toUnknown (x : UnitRecord) : x.toUnknown.toUnknown = x.toUnknown := by
  unfold UnitRecord.toUnknown; split <;> simp_all

theorem Option.map_toUnknown_twice (x : Option UnitRecord) : (x.map UnitRecord.toUnknown).map UnitRecord.toUnknown = x.map UnitRecord.toUnknown := by
  cases x <;> simp [UnitRecord.toUnknown_toUnknown]

theorem State.Abandons.refl (s : State) : s.Abandons s := ⟨fun _ => .inl rfl, fun _ => List.Subset.refl _, id, .refl s _⟩

theorem State.Abandons.trans {s t u : State} (h : s.Abandons t) (k : t.Abandons u) : s.Abandons u where
  units v := by
    rcases h.units v with h | h <;> rcases k.units v with k | k <;> rw [k, h]
    · exact .inl rfl
    · exact .inr rfl
    · exact .inr rfl
    · exact .inr (Option.map_toUnknown_twice _)
  waiting d := List.Subset.trans (h.waiting d) (k.waiting d)
  stopped hs := k.stopped (h.stopped hs)
  only := h.only.andThen k.only (fun _ hm => hm)


/-- Another die's record gains waiting units at most, its tag entries stay or go, and it stays in the list of waiting dies. -/
structure State.LeavesDie (s : State) (d : DieId) (t : State) : Prop where
  die : t.dies.get d = { s.dies.get d with waiting := (t.dies.get d).waiting }
  tags : ∀ e ∈ t.link.tags, e.die = d → ∃ x ∈ s.link.tags, x.Keeps e
  listed : s.link.waiting ⊆ t.link.waiting

theorem State.LeavesDie.refl (s : State) (d : DieId) : s.LeavesDie d s := ⟨rfl, fun e he _ => ⟨e, he, .refl e⟩, List.Subset.refl _⟩

theorem TagEntry.Keeps.trans {x y z : TagEntry} (h : x.Keeps y) (k : y.Keeps z) : x.Keeps z := by
  obtain ⟨tag, die, kind, unit, phase, ended⟩ := h
  obtain ⟨tag', die', kind', unit', phase', ended'⟩ := k
  exact ⟨tag'.trans tag, die'.trans die, kind'.trans kind, unit'.trans unit, phase'.trans phase, fun hx => ended' (ended hx)⟩

theorem State.LeavesDie.trans {s t u : State} {d : DieId} (h : s.LeavesDie d t) (k : t.LeavesDie d u) : s.LeavesDie d u where
  die := by rw [k.die, h.die]
  tags e he hd := by
    obtain ⟨x, hx, keeps⟩ := k.tags e he hd
    obtain ⟨y, hy, before⟩ := h.tags x hx (keeps.2.1.symm.trans hd)
    exact ⟨y, hy, before.trans keeps⟩
  listed := List.Subset.trans h.listed k.listed

theorem State.LeavesDie.of_only {s t : State} {d : DieId} (h : s.Only [.units, .groups, .masters] t) : s.LeavesDie d t := by
  have dies : t.dies = s.dies := h .dies (by decide)
  have link : t.link = s.link := h .link (by decide)
  exact ⟨by rw [dies], fun e he _ => ⟨e, link ▸ he, .refl e⟩, by rw [link]; exact List.Subset.refl _⟩

end Sys2Proof.Machine
end

section
/-!
PROOFS. PLW_N_ASSERTED (R128): what the response of each die does to that die and to the others, and the statement about all of them together.
-/

namespace Sys2Proof.Machine

set_option Elab.async false

/-! ## Single changes while PLW_N is asserted -/

/-- While PLW_N is asserted no background queue is open (R113). -/
theorem State.queueOpen_plw (s : State) (h : s.plwAsserted = true) (d : DieId) : s.queueOpen d = false := by simp [State.queueOpen, h]

/-- While PLW_N is asserted a unit that is handed over becomes UNKNOWN and waits (R113, R128). -/
theorem State.handBackground_plw (s : State) (u : Nat) (h : s.plwAsserted = true) :
    s.handBackground u = (s.modUnit u UnitRecord.toUnknown).addWaiting u := by
  have unknown : ∀ d, (s.modUnit u UnitRecord.toUnknown).queueOpen d = false := State.queueOpen_plw (s.modUnit u UnitRecord.toUnknown) h
  have waits : ∀ d, ((s.modUnit u UnitRecord.toUnknown).addWaiting u).queueOpen d = false :=
    State.queueOpen_plw ((s.modUnit u UnitRecord.toUnknown).addWaiting u) h
  simp only [State.handBackground, h, if_true]
  rw [State.fillQueue_closed _ _ (unknown _), State.fillQueue_closed _ _ (waits _)]

theorem State.toUnknown_abandons (s : State) (u : Nat) : s.Abandons (s.modUnit u UnitRecord.toUnknown) where
  units v := by
    by_cases hv : v = u
    · subst hv; exact .inr (s.unit?_modUnit_self v _)
    · exact .inl (s.unit?_modUnit_ne u v _ hv)
  waiting _ := List.Subset.refl _
  stopped h := h
  only := (s.modUnit_only u _).mono (by decide)

theorem State.reportCounts_abandons (s : State) (u : Nat) : s.Abandons (s.reportCounts u) where
  units v := .inl ((s.reportCounts_only u).unit? v)
  waiting d := by rw [s.reportCounts_only u .dies (by decide)]; exact List.Subset.refl _
  stopped h := s.reportCounts_stopped u h
  only := (s.reportCounts_only u).mono (by decide)

/-- A change of die records that keeps every waiting unit, and of the link and of ports. -/
theorem State.Abandons.of_only {s t : State} (h : s.Only [.dies, .link, .masters] t)
    (hw : ∀ d, (s.dies.get d).waiting ⊆ (t.dies.get d).waiting) : s.Abandons t where
  units v := .inl (h.unit? v)
  waiting := hw
  stopped hs := hs.of_groups (h .groups (by decide))
  only := h.mono (by decide)

theorem State.modDie_abandons (s : State) (d : DieId) (f : DieRecord → DieRecord)
    (hf : (s.dies.get d).waiting ⊆ (f (s.dies.get d)).waiting) : s.Abandons (s.modDie d f) := by
  refine .of_only ((s.modDie_only d f).mono (by decide)) (fun x => ?_)
  by_cases hx : x = d
  · subst hx; simpa using hf
  · simp [hx]

theorem State.addWaiting_abandons (s : State) (u : Nat) : s.Abandons (s.addWaiting u) :=
  s.modDie_abandons _ _ (fun _ hv => (mem_insertNat _ _ _).mpr (.inr hv))

theorem State.abandonUnits_abandons (s : State) (us : List Nat) : s.Abandons (s.abandonUnits us) := by
  unfold State.abandonUnits
  induction us generalizing s with
  | nil => exact .refl s
  | cons u us ih => exact ((s.toUnknown_abandons u).trans (State.reportCounts_abandons _ u)).trans (ih _)

/-- Each of the units that are abandoned is UNKNOWN after it, if it was ERASING (R14). -/
theorem State.abandonUnits_unit (s : State) (us : List Nat) (u : Nat) (h : u ∈ us) :
    (s.abandonUnits us).unit? u = (s.unit? u).map UnitRecord.toUnknown := by
  induction us generalizing s with
  | nil => exact absurd h List.not_mem_nil
  | cons v us ih =>
    have head : ((s.modUnit v UnitRecord.toUnknown).reportCounts v).unit? v = (s.unit? v).map UnitRecord.toUnknown :=
      ((State.reportCounts_only _ v).unit? v).trans (s.unit?_modUnit_self v _)
    have step : (s.abandonUnits (v :: us)) = ((s.modUnit v UnitRecord.toUnknown).reportCounts v).abandonUnits us := rfl
    rw [step]
    by_cases hu : u = v
    · subst hu
      rcases (State.abandonUnits_abandons ((s.modUnit u UnitRecord.toUnknown).reportCounts u) us).units u with after | after
      · rw [after, head]
      · rw [after, head, Option.map_toUnknown_twice]
    · rw [ih _ ((List.mem_cons.mp h).resolve_left hu), (State.reportCounts_only _ v).unit? u, s.unit?_modUnit_ne v u _ hu]

/-- A change of one die's record leaves the others. -/
theorem State.modDie_leaves (s : State) (d x : DieId) (f : DieRecord → DieRecord) (h : x ≠ d) : s.LeavesDie x (s.modDie d f) := by
  have same : (s.modDie d f).dies.get x = s.dies.get x := Table.get_modify_ne _ _ _ _ h
  exact ⟨by rw [same], fun e he _ => ⟨e, he, .refl e⟩, List.Subset.refl _⟩

theorem State.mem_addWaiting (s : State) (u : Nat) : u ∈ ((s.addWaiting u).dies.get (s.dieOf u)).waiting := by
  simp [State.addWaiting, mem_insertNat]

theorem State.addWaiting_leaves (s : State) (x : DieId) (u : Nat) : s.LeavesDie x (s.addWaiting u) := by
  by_cases hx : x = s.dieOf u
  · refine ⟨?_, fun e he _ => ⟨e, he, .refl e⟩, List.Subset.refl _⟩
    subst hx; simp [State.addWaiting]
  · exact s.modDie_leaves _ x _ hx

theorem State.handOver_leaves (s : State) (kind : DescriptorKind) (d x : DieId) (u : Nat) (page : Option PageKey) (h : x ≠ d) :
    s.LeavesDie x (s.handOver kind d u page) where
  die := rfl
  tags e he hd := by
    rcases List.mem_append.mp he with he | he
    · exact ⟨e, he, .refl e⟩
    · rw [List.mem_singleton.mp he] at hd
      exact absurd hd.symm h
  listed := List.Subset.refl _

theorem State.joinWaiting_leaves (s : State) (d x : DieId) : s.LeavesDie x (s.joinWaiting d) := by
  unfold State.joinWaiting; split
  · exact .refl s x
  · exact ⟨rfl, fun e he _ => ⟨e, he, .refl e⟩, List.subset_append_left _ _⟩

theorem State.mem_joinWaiting (s : State) (d : DieId) : d ∈ (s.joinWaiting d).link.waiting := by
  unfold State.joinWaiting; split
  · next h => simpa using h
  · simp

theorem State.releaseErase_leaves (s : State) (d x : DieId) (u : Nat) : s.LeavesDie x { s with link := s.link.releaseErase d u } where
  die := rfl
  tags e he _ := Link.releaseErase_keeps _ d u e he
  listed := by rw [Link.releaseErase_waiting]; exact List.Subset.refl _

theorem State.dieAfterErase_leaves (s : State) (d x : DieId) (h : x ≠ d) : s.LeavesDie x (s.dieAfterErase d) := by
  have link : (s.dieAfterErase d).link = s.link := s.dieAfterErase_only d .link (by decide)
  exact ⟨by rw [s.dieAfterErase_others d x h], fun e he _ => ⟨e, link ▸ he, .refl e⟩, by rw [link]; exact List.Subset.refl _⟩

theorem State.dieAfterErase_abandons (s : State) (d : DieId) : s.Abandons (s.dieAfterErase d) := by
  refine .of_only ((s.dieAfterErase_only d).mono (by decide)) (fun x => ?_)
  by_cases hx : x = d
  · subst hx
    rw [s.dieAfterErase_die x]
    exact (DieRecord.afterErase_background _).2 ▸ List.Subset.refl _
  · rw [s.dieAfterErase_others d x hx]; exact List.Subset.refl _

/-! ## An erase that is abandoned while PLW_N is asserted -/

/-- The state between the end of an abandoned erase on its die and the hand-over of its unit. -/
def State.eraseDropped (s : State) (d : DieId) (u : Nat) : State :=
  ({ s.modUnit u UnitRecord.toUnknown with link := s.link.releaseErase d u } : State).dieAfterErase d

theorem State.abandonErase_plw (s : State) (d : DieId) (u : Nat) (hp : s.plwAsserted = true) (hu : (s.dies.get d).erasingUnit = some u) :
    s.abandonErase d = (((s.eraseDropped d u).modUnit u UnitRecord.toUnknown).addWaiting u).reportCounts u := by
  have asserted : (s.eraseDropped d u).plwAsserted = true := by
    rw [State.eraseDropped, (State.dieAfterErase_only _ d).plwAsserted]; exact hp
  rw [← State.handBackground_plw _ u asserted]
  simp only [State.abandonErase, hu]
  rfl

theorem State.eraseDropped_abandons (s : State) (d : DieId) (u : Nat) : s.Abandons (s.eraseDropped d u) := by
  have released : (s.modUnit u UnitRecord.toUnknown).Abandons { s.modUnit u UnitRecord.toUnknown with link := s.link.releaseErase d u } :=
    .of_only ((State.setLink_only _ _).mono (by decide)) (fun _ => List.Subset.refl _)
  exact ((s.toUnknown_abandons u).trans released).trans (State.dieAfterErase_abandons _ d)

theorem State.abandonErase_abandons (s : State) (d : DieId) (hp : s.plwAsserted = true) : s.Abandons (s.abandonErase d) := by
  cases hu : (s.dies.get d).erasingUnit with
  | none => simp only [State.abandonErase, hu]; exact .refl s
  | some u =>
    rw [s.abandonErase_plw d u hp hu]
    exact (((s.eraseDropped_abandons d u).trans (State.toUnknown_abandons _ u)).trans (State.addWaiting_abandons _ u)).trans
      (State.reportCounts_abandons _ u)

theorem State.eraseDropped_leaves (s : State) (d x : DieId) (u : Nat) (h : x ≠ d) : s.LeavesDie x (s.eraseDropped d u) :=
  ((State.LeavesDie.of_only ((s.modUnit_only u _).mono (by decide))).trans (State.releaseErase_leaves (s.modUnit u _) d x u)).trans
    (State.dieAfterErase_leaves _ d x h)

/-- The unit joins the waiting units of its die. -/
theorem State.eraseHanded_leaves (s : State) (u : Nat) (x : DieId) :
    s.LeavesDie x (((s.modUnit u UnitRecord.toUnknown).addWaiting u).reportCounts u) :=
  ((State.LeavesDie.of_only ((s.modUnit_only u _).mono (by decide))).trans (State.addWaiting_leaves _ x u)).trans
    (.of_only ((State.reportCounts_only _ u).mono (by decide)))

theorem State.abandonErase_leaves (s : State) (d x : DieId) (hp : s.plwAsserted = true) (h : x ≠ d) : s.LeavesDie x (s.abandonErase d) := by
  cases hu : (s.dies.get d).erasingUnit with
  | none => simp only [State.abandonErase, hu]; exact .refl s x
  | some u =>
    rw [s.abandonErase_plw d u hp hu]
    exact (s.eraseDropped_leaves d x u h).trans (State.eraseHanded_leaves _ u x)

/-! ## The response of one die -/

/-- The three responses of a die to PLW_N asserted (R128). -/
theorem State.plwDie_cases (s : State) (d : DieId) :
    (∀ u, (s.dies.get d).state = .erase → (s.dies.get d).erasingUnit = some u →
      s.plwDie d = s.suspendToAbandon d u ∨ s.plwDie d = (s.modDie d (fun r => { r with purpose := some .abandon })).joinWaiting d) ∧
    (∀ u, (s.dies.get d).state = .suspended → (s.dies.get d).erasingUnit = some u → s.plwDie d = s.abandonErase d) ∧
    (((s.dies.get d).state = .erase ∨ (s.dies.get d).state = .suspended → (s.dies.get d).erasingUnit = none) → s.plwDie d = s) := by
  refine ⟨fun u hs hu => ?_, fun u hs hu => ?_, fun h => ?_⟩
  · simp only [State.plwDie, hs, hu]
    by_cases hm : s.mayHandOver false = true
    · exact .inl (if_pos hm)
    · exact .inr (if_neg hm)
  · simp only [State.plwDie, hs, hu]
  · simp only [State.plwDie]
    split
    · next hs hu => rw [h (.inl hs)] at hu; cases hu
    · next hs hu => rw [h (.inr hs)] at hu; cases hu
    · rfl

theorem State.suspendToAbandon_abandons (s : State) (d : DieId) (u : Nat) : s.Abandons (s.suspendToAbandon d u) :=
  (s.modDie_abandons d _ (List.Subset.refl _)).trans
    (.of_only ((State.handOver_only _ _ _ _ _).mono (by decide)) (fun _ => List.Subset.refl _))

theorem State.plwDie_abandons (s : State) (d : DieId) (hp : s.plwAsserted = true) : s.Abandons (s.plwDie d) := by
  unfold State.plwDie; dsimp only; split
  · split
    · exact s.suspendToAbandon_abandons d _
    · refine (s.modDie_abandons d _ (List.Subset.refl _)).trans (.of_only ((State.joinWaiting_only _ d).mono (by decide)) (fun x => ?_))
      rw [State.joinWaiting_dies]; exact List.Subset.refl _
  · exact s.abandonErase_abandons d hp
  · exact .refl s

theorem State.plwDie_leaves (s : State) (d x : DieId) (hp : s.plwAsserted = true) (h : x ≠ d) : s.LeavesDie x (s.plwDie d) := by
  unfold State.plwDie; dsimp only; split
  · split
    · exact (s.modDie_leaves d x _ h).trans (State.handOver_leaves _ _ d x _ _ h)
    · exact (s.modDie_leaves d x _ h).trans (State.joinWaiting_leaves _ d x)
  · exact s.abandonErase_leaves d x hp h
  · exact .refl s x

/-- The units whose ERASE leaves a queue (R128). -/
def DieRecord.eraseQueued (r : DieRecord) : List Nat := (r.queue.filter (fun e => decide (e.kind = .erase))).map (·.unit)

/-- A die record without the ERASE entries of its queue, their units among the waiting ones (R128). -/
def DieRecord.erasesDropped (r : DieRecord) : DieRecord :=
  { r with queue := r.queue.filter (fun e => decide (e.kind ≠ .erase)), waiting := r.eraseQueued.foldr insertNat r.waiting }

theorem State.plwQueue_eq (s : State) (d : DieId) :
    s.plwQueue d = (s.modDie d (fun _ => (s.dies.get d).erasesDropped)).abandonUnits ((s.dies.get d).eraseQueued ++ (s.dies.get d).waiting) := rfl

theorem State.plwQueue_abandons (s : State) (d : DieId) : s.Abandons (s.plwQueue d) := by
  rw [State.plwQueue_eq]
  exact (s.modDie_abandons d _ (fun _ hv => (mem_foldr_insertNat _ _ _).mpr (.inr hv))).trans (State.abandonUnits_abandons _ _)

theorem State.plwQueue_leaves (s : State) (d x : DieId) (h : x ≠ d) : s.LeavesDie x (s.plwQueue d) := by
  rw [State.plwQueue_eq]
  exact (s.modDie_leaves d x _ h).trans (.of_only ((State.abandonUnits_only _ _).mono (by decide)))

theorem State.plwQueue_die (s : State) (d : DieId) : (s.plwQueue d).dies.get d = (s.dies.get d).erasesDropped := by
  rw [State.plwQueue_eq, State.abandonUnits_only _ _ .dies (by decide), State.modDie_dies, Table.get_modify_self]

theorem State.plwQueue_link (s : State) (d : DieId) : (s.plwQueue d).link = s.link := by
  rw [State.plwQueue_eq, State.abandonUnits_only _ _ .link (by decide)]; rfl

theorem State.plwQueue_unit (s : State) (d : DieId) (u : Nat) (h : u ∈ (s.dies.get d).waiting ∨ ⟨.erase, u⟩ ∈ (s.dies.get d).queue) :
    (s.plwQueue d).unit? u = (s.unit? u).map UnitRecord.toUnknown := by
  rw [State.plwQueue_eq, State.abandonUnits_unit _ _ u]
  · rfl
  · rcases h with h | h
    · exact List.mem_append_right _ h
    · exact List.mem_append_left _ (List.mem_map.mpr ⟨_, List.mem_filter.mpr ⟨h, by simp⟩, rfl⟩)

/-! ## All dies in turn -/

/-- A die's whole response to PLW_N asserted (R128). -/
def State.plwTurn (s : State) (d : DieId) : State := (s.plwDie d).plwQueue d

theorem State.plwTurn_abandons (s : State) (d : DieId) (hp : s.plwAsserted = true) : s.Abandons (s.plwTurn d) :=
  (s.plwDie_abandons d hp).trans (State.plwQueue_abandons _ d)

theorem State.plwTurn_leaves (s : State) (d x : DieId) (hp : s.plwAsserted = true) (h : x ≠ d) : s.LeavesDie x (s.plwTurn d) :=
  (s.plwDie_leaves d x hp h).trans (State.plwQueue_leaves _ d x h)

theorem State.Abandons.plw {s t : State} (h : s.Abandons t) (hp : s.plwAsserted = true) : t.plwAsserted = true :=
  h.only.plwAsserted.trans hp

theorem State.plwTurns_abandons (l : List DieId) (s : State) (hp : s.plwAsserted = true) : s.Abandons (l.foldl State.plwTurn s) := by
  induction l generalizing s with
  | nil => exact .refl s
  | cons d l ih =>
    have turn := s.plwTurn_abandons d hp
    exact turn.trans (ih _ (turn.plw hp))

theorem State.plwTurns_leaves (l : List DieId) (s : State) (hp : s.plwAsserted = true) (x : DieId) (hx : x ∉ l) :
    s.LeavesDie x (l.foldl State.plwTurn s) := by
  induction l generalizing s with
  | nil => exact .refl s x
  | cons d l ih =>
    obtain ⟨hne, hx⟩ := not_or.mp (List.mem_cons.not.mp hx)
    exact (s.plwTurn_leaves d x hp hne).trans (ih _ ((s.plwTurn_abandons d hp).plw hp) hx)

/-- Each die has its turn once, and the turns before and after it leave it (R128). -/
theorem State.plwTurns_split (s : State) (hp : s.plwAsserted = true) (d : DieId) :
    ∃ m, s.Abandons m ∧ s.LeavesDie d m ∧ m.plwAsserted = true ∧
      (m.plwTurn d).Abandons ((List.finRange 32).foldl State.plwTurn s) ∧
      (m.plwTurn d).LeavesDie d ((List.finRange 32).foldl State.plwTurn s) := by
  obtain ⟨before, after, split⟩ := List.append_of_mem (List.mem_finRange d)
  have nodup := List.nodup_finRange 32
  rw [split, List.nodup_append, List.nodup_cons] at nodup
  obtain ⟨-, ⟨notAfter, -⟩, apart⟩ := nodup
  have notBefore : d ∉ before := fun h => apart d h d List.mem_cons_self rfl
  have first := State.plwTurns_abandons before s hp
  have asserted := first.plw hp
  have turned := (State.plwTurn_abandons _ d asserted).plw asserted
  refine ⟨before.foldl State.plwTurn s, first, State.plwTurns_leaves before s hp d notBefore, asserted, ?_, ?_⟩
  · rw [split, List.foldl_append, List.foldl_cons]; exact State.plwTurns_abandons after _ turned
  · rw [split, List.foldl_append, List.foldl_cons]; exact State.plwTurns_leaves after _ turned d notAfter

/-! ## The turn of a die -/

theorem State.plwTurn_other (s : State) (d : DieId)
    (h : (s.dies.get d).state = .erase ∨ (s.dies.get d).state = .suspended → (s.dies.get d).erasingUnit = none) :
    (s.plwTurn d).dies.get d = (s.dies.get d).erasesDropped := by
  rw [State.plwTurn, State.plwQueue_die, (s.plwDie_cases d).2.2 h]

/-- A die in ERASE hands its SUSPEND over, or holds the abandonment pending and waits for a place (R128, R140). -/
theorem State.plwTurn_erase (s : State) (d : DieId) (u : Nat) (hs : (s.dies.get d).state = .erase)
    (hu : (s.dies.get d).erasingUnit = some u) :
    let r := (s.plwTurn d).dies.get d
    r.queue = (s.dies.get d).erasesDropped.queue ∧ r.purpose = some .abandon ∧
      (r.state = .suspending ∨ (r.state = .erase ∧ d ∈ (s.plwTurn d).link.waiting)) := by
  intro r
  have die : r = ((s.plwDie d).dies.get d).erasesDropped := (s.plwDie d).plwQueue_die d
  rcases (s.plwDie_cases d).1 u hs hu with handed | pending
  · have after : (s.plwDie d).dies.get d = { s.dies.get d with state := .suspending, purpose := some .abandon } := by
      rw [handed, State.suspendToAbandon, State.handOver_dies, State.modDie_dies, Table.get_modify_self]
    rw [after] at die
    rw [die]
    exact ⟨rfl, rfl, .inl rfl⟩
  · have after : (s.plwDie d).dies.get d = { s.dies.get d with purpose := some .abandon } := by
      rw [pending, State.joinWaiting_dies, State.modDie_dies, Table.get_modify_self]
    rw [after] at die
    rw [die]
    refine ⟨rfl, rfl, .inr ⟨hs, ?_⟩⟩
    rw [State.plwTurn, State.plwQueue_link, pending]
    exact State.mem_joinWaiting _ d

/-- The record of a die that abandons its erase, but for the units that join the waiting ones (R128). -/
theorem State.abandonErase_die (s : State) (d : DieId) (u : Nat) (hp : s.plwAsserted = true) (hu : (s.dies.get d).erasingUnit = some u) :
    ∃ w, (s.abandonErase d).dies.get d =
      { (s.dies.get d).afterErase with windows := (s.dies.get d).windows.map (Window.granted s.windowTicks), waiting := w } := by
  rw [s.abandonErase_plw d u hp hu]
  have handed := ((s.eraseDropped d u).eraseHanded_leaves u d).die
  have dropped : (s.eraseDropped d u).dies.get d =
      { (s.dies.get d).afterErase with windows := (s.dies.get d).windows.map (Window.granted s.windowTicks) } := by
    have dies : ({ s.modUnit u UnitRecord.toUnknown with link := s.link.releaseErase d u } : State).dies = s.dies := rfl
    have limits : ({ s.modUnit u UnitRecord.toUnknown with link := s.link.releaseErase d u } : State).windowTicks = s.windowTicks := rfl
    rw [State.eraseDropped, State.dieAfterErase_die, dies, limits]
  rw [dropped] at handed
  exact ⟨_, handed⟩

/-- The unit of an abandoned erase waits, is not ERASING, and has no tag but those ended (R128, R146). -/
theorem State.abandonErase_unit (s : State) (d : DieId) (u : Nat) (hp : s.plwAsserted = true) (hu : (s.dies.get d).erasingUnit = some u) :
    (s.abandonErase d).unit? u = (s.unit? u).map UnitRecord.toUnknown ∧
    u ∈ ((s.abandonErase d).dies.get (s.dieOf u)).waiting ∧
    (s.abandonErase d).link = s.link.releaseErase d u := by
  rw [s.abandonErase_plw d u hp hu]
  have dropped := s.eraseDropped_abandons d u
  have counts := State.reportCounts_only (((s.eraseDropped d u).modUnit u UnitRecord.toUnknown).addWaiting u) u
  refine ⟨?_, ?_, ?_⟩
  · rw [counts.unit? u]
    have handed : (((s.eraseDropped d u).modUnit u UnitRecord.toUnknown).addWaiting u).unit? u =
        ((s.eraseDropped d u).unit? u).map UnitRecord.toUnknown :=
      ((State.addWaiting_only _ u).unit? u).trans (State.unit?_modUnit_self _ u _)
    rcases dropped.units u with same | same
    · rw [handed, same]
    · rw [handed, same, Option.map_toUnknown_twice]
  · have die : ((s.eraseDropped d u).modUnit u UnitRecord.toUnknown).dieOf u = s.dieOf u :=
      ((State.modUnit_only _ u _).dieOf u).trans (dropped.only.dieOf u)
    rw [counts .dies (by decide), ← die]
    exact State.mem_addWaiting ((s.eraseDropped d u).modUnit u UnitRecord.toUnknown) u
  · have link : (s.eraseDropped d u).link = s.link.releaseErase d u := State.dieAfterErase_only _ d .link (by decide)
    rw [counts .link (by decide), State.addWaiting_only _ u .link (by decide), State.modUnit_link]
    exact link

end Sys2Proof.Machine
end

section
/-!
PROOFS. PLW_N_ASSERTED (R128), continued: the turn of a SUSPENDED die and the statement.
-/

namespace Sys2Proof.Machine

set_option Elab.async false

theorem State.plwDie_queue (s : State) (d : DieId) (hp : s.plwAsserted = true) :
    ((s.plwDie d).dies.get d).queue = (s.dies.get d).queue := by
  unfold State.plwDie; dsimp only; split
  · split
    · rw [State.suspendToAbandon, State.handOver_dies, State.modDie_dies, Table.get_modify_self]
    · rw [State.joinWaiting_dies, State.modDie_dies, Table.get_modify_self]
  · next u _ hu =>
    obtain ⟨w, die⟩ := s.abandonErase_die d u hp hu
    rw [die]
    exact (DieRecord.afterErase_background _).1
  · rfl

theorem State.plwTurn_queue (s : State) (d : DieId) (hp : s.plwAsserted = true) :
    ((s.plwTurn d).dies.get d).queue = (s.dies.get d).queue.filter (fun e => decide (e.kind ≠ .erase)) := by
  rw [State.plwTurn, State.plwQueue_die, DieRecord.erasesDropped, s.plwDie_queue d hp]

/-- The ERASING units that were queued or waiting are UNKNOWN after the die's turn (R14, R128). -/
theorem State.plwTurn_unit (s : State) (d : DieId) (hp : s.plwAsserted = true) (u : Nat)
    (h : u ∈ (s.dies.get d).waiting ∨ ⟨.erase, u⟩ ∈ (s.dies.get d).queue) :
    (s.plwTurn d).unit? u = (s.unit? u).map UnitRecord.toUnknown := by
  have response := s.plwDie_abandons d hp
  have still : u ∈ ((s.plwDie d).dies.get d).waiting ∨ ⟨.erase, u⟩ ∈ ((s.plwDie d).dies.get d).queue := by
    rw [s.plwDie_queue d hp]; exact h.imp_left (fun hw => response.waiting d hw)
  rw [State.plwTurn, State.plwQueue_unit _ d u still]
  rcases response.units u with same | same
  · rw [same]
  · rw [same, Option.map_toUnknown_twice]

/-- A SUSPENDED die abandons its erase (R128). -/
theorem State.plwTurn_suspended (s : State) (d : DieId) (u : Nat) (hp : s.plwAsserted = true) (hs : (s.dies.get d).state = .suspended)
    (hu : (s.dies.get d).erasingUnit = some u) :
    (∃ q w, (s.plwTurn d).dies.get d = { (s.dies.get d).afterErase with
      windows := (s.dies.get d).windows.map (Window.granted s.windowTicks), queue := q, waiting := w }) ∧
    (s.plwTurn d).unit? u = (s.unit? u).map UnitRecord.toUnknown ∧
    u ∈ ((s.plwTurn d).dies.get (s.dieOf u)).waiting ∧
    (s.plwTurn d).link = s.link.releaseErase d u := by
  have turn : s.plwTurn d = (s.abandonErase d).plwQueue d := by rw [State.plwTurn, (s.plwDie_cases d).2.1 u hs hu]
  obtain ⟨w, die⟩ := s.abandonErase_die d u hp hu
  obtain ⟨unit, waits, link⟩ := s.abandonErase_unit d u hp hu
  have dropped := (s.abandonErase d).plwQueue_abandons d
  rw [turn]
  refine ⟨⟨((s.abandonErase d).dies.get d).erasesDropped.queue, ((s.abandonErase d).dies.get d).erasesDropped.waiting, ?_⟩, ?_,
    dropped.waiting _ waits, (State.plwQueue_link _ d).trans link⟩
  · rw [State.plwQueue_die, die]; rfl
  · rcases dropped.units u with same | same
    · rw [same, unit]
    · rw [same, unit, Option.map_toUnknown_twice]

/-- A unit that one response makes UNKNOWN is so after all of them. -/
theorem State.Abandons.unit {s m n t : State} (h : s.Abandons m) (k : n.Abandons t) (u : Nat)
    (turn : n.unit? u = (m.unit? u).map UnitRecord.toUnknown) : t.unit? u = (s.unit? u).map UnitRecord.toUnknown := by
  have after : n.unit? u = (s.unit? u).map UnitRecord.toUnknown := by
    rcases h.units u with same | same
    · rw [turn, same]
    · rw [turn, same, Option.map_toUnknown_twice]
  rcases k.units u with same | same
  · rw [same, after]
  · rw [same, after, Option.map_toUnknown_twice]

theorem State.unitState_toUnknown (s t : State) (u : Nat) (h : t.unit? u = (s.unit? u).map UnitRecord.toUnknown)
    (he : s.unitState u = some .erasing) : t.unitState u = some .unknown := by
  obtain ⟨x, hx, hs⟩ := Option.map_eq_some_iff.mp he
  simp [State.unitState, h, hx, UnitRecord.toUnknown, hs]

/-- The part with PLW_N asserted and seen and with issuing stopped, before the dies have their turns. -/
def State.plwLow (s : State) : State := ({ s with inputs := { s.inputs with plwN := .low } } : State).flagPlw.stopIssue

/-- What the responses of all dies leave of what the line found. -/
theorem State.plwLow_only (s : State) : s.Only [.groups, .mgmt, .inputs] s.plwLow := by
  have low := s.setInputs_only { s.inputs with plwN := .low }
  exact ((low.mono (by decide)).andThen (State.flagPlw_only _) (gs := [.groups, .mgmt, .inputs])).andThen (State.stopIssue_only _)

/-- The SUSPENDED die's record after PLW_N is asserted, field by field (R125, R128). -/
theorem DieRecord.afterErase_fields (r : DieRecord) :
    r.afterErase.state = (if r.suspendedProgram.isSome then .program else .idle) ∧ r.afterErase.heldErase = none ∧
    r.afterErase.current = r.suspendedProgram.map .program ∧
    r.afterErase.opTimer = (if r.suspendedProgram.isSome then r.opTimer else none) ∧
    r.afterErase.suspendedProgram = none ∧ r.afterErase.purpose = none ∧ r.afterErase.programs = none := by
  unfold DieRecord.afterErase
  cases r.suspendedProgram <;> simp

theorem DieRecord.erasingUnit_iff (r : DieRecord) (u : Nat) : r.erasingUnit = some u ↔ r.current = some (.erase u) := by
  unfold DieRecord.erasingUnit; split <;> simp_all

/-- Settles O10: each die has one turn, and the turns of the others leave it but for units that join its waiting ones. -/
theorem plwAssertedAbandonsErases : Obligations.PlwAssertedAbandonsErases := by
  unfold Obligations.PlwAssertedAbandonsErases
  intro s hs
  have hp : s.plwLow.plwAsserted = true := rfl
  have dies : s.plwLow.dies = s.dies := rfl
  have found : ∀ u, s.plwLow.unit? u = s.unit? u := fun _ => rfl
  have next : exec .plwNAsserted s = .next ((List.finRange 32).foldl State.plwTurn s.plwLow) := by
    simp only [exec, execPlwNAsserted, hs, Bool.false_eq_true, if_false]; rfl
  have all := State.plwTurns_abandons (List.finRange 32) _ hp
  have turns := s.plwLow.plwTurns_split hp
  generalize (List.finRange 32).foldl State.plwTurn s.plwLow = t at next all turns
  refine ⟨t, next, all.only .inputs (by decide), all.only .mgmt (by decide), fun d => ?_, all.stopped (State.stopIssue_stopped _), ?_⟩
  · obtain ⟨m, before, kept, asserted, after, left⟩ := turns d
    have die : m.dies.get d = { s.dies.get d with waiting := (m.dies.get d).waiting } := kept.die
    have ticks : m.windowTicks = max 1 s.limits.window := by rw [State.windowTicks, before.only .limits (by decide)]; rfl
    intro r r'
    have final : r' = { (m.plwTurn d).dies.get d with waiting := r'.waiting } := left.die
    have state : (m.dies.get d).state = r.state := by rw [die]
    have erasing : (m.dies.get d).erasingUnit = r.erasingUnit := by rw [die]; rfl
    have unknown : ∀ u, (m.plwTurn d).unit? u = (m.unit? u).map UnitRecord.toUnknown → t.unit? u = (s.unit? u).map UnitRecord.toUnknown :=
      fun u turn => before.unit after u turn
    refine ⟨?_, fun u hu he => ?_, fun he hu => ?_, fun hsus hu => ?_, fun u hsus hcur => ?_, fun hne hns => ?_⟩
    · rw [final]
      refine (m.plwTurn_queue d asserted).trans ?_
      rw [die]
    · refine s.unitState_toUnknown t u (unknown u (m.plwTurn_unit d asserted u ?_)) he
      refine hu.imp (fun hw => before.waiting d hw) (fun hq => ?_)
      rw [die]; exact hq
    · obtain ⟨u, hu⟩ := Option.isSome_iff_exists.mp hu
      obtain ⟨-, purpose, state⟩ := m.plwTurn_erase d u (state.trans he) (erasing.trans hu)
      rw [final]
      exact ⟨purpose, state.imp_right (fun ⟨stays, listed⟩ => ⟨stays, left.listed listed⟩)⟩
    · obtain ⟨u, hu⟩ := Option.isSome_iff_exists.mp hu
      obtain ⟨⟨q, w, record⟩, -⟩ := m.plwTurn_suspended d u asserted (state.trans hsus) (erasing.trans hu)
      rw [record, die] at final
      obtain ⟨fstate, fheld, fcurrent, ftimer, fprogram, fpurpose, fprograms⟩ :=
        DieRecord.afterErase_fields { s.dies.get d with waiting := (m.dies.get d).waiting }
      rw [final]
      refine ⟨fstate, fheld, fcurrent, ftimer, fprogram, fpurpose, fprograms, fun p => ?_⟩
      show ((s.dies.get d).windows.map (Window.granted m.windowTicks)).get p = _
      rw [Table.get_map, ticks]
      rfl
    · have hu : r.erasingUnit = some u := (DieRecord.erasingUnit_iff r u).mpr hcur
      obtain ⟨-, unit, waits, link⟩ := m.plwTurn_suspended d u asserted (state.trans hsus) (erasing.trans hu)
      refine ⟨fun x hx he => ?_, ?_, fun e hm hd hunit => ?_⟩
      · rw [unknown u unit, hx]; simp [UnitRecord.toUnknown, he]
      · have home : m.dieOf u = s.dieOf u := before.only.dieOf u
        exact home ▸ after.waiting _ waits
      · obtain ⟨x, hx, -, xdie, xkind, xunit, xphase, xended⟩ := left.tags e hm hd
        rw [link] at hx
        have own : x.die = d ∧ x.unit = u := ⟨xdie.symm.trans hd, xunit.symm.trans hunit⟩
        refine ⟨fun hk => Link.releaseErase_erase _ d u x hx own.1 own.2 (xkind.symm.trans hk), fun hk _ => ?_⟩
        exact xended (Link.releaseErase_steering _ d u x hx own.1 own.2 (xkind ▸ hk))
    · have none : (m.dies.get d).state = .erase ∨ (m.dies.get d).state = .suspended → (m.dies.get d).erasingUnit = none := by
        rw [state]; exact fun h => (h.elim hne hns).elim
      rw [m.plwTurn_other d none, die] at final
      rw [final]
      exact ⟨rfl, rfl⟩
  · exact (s.plwLow_only.mono (by decide)).andThen all.only (gs := [.units, .groups, .dies, .link, .masters, .mgmt, .inputs])

end Sys2Proof.Machine
end

section
/-!
PROOFS. The decisions of the Die Scheduler (chapter 6): what a decision reads, when a descriptor may be handed over (R138, R140), the page of a
grant (R112, R117), the choice of an IDLE die (R116), and when a SUSPENDED die serves or resumes (R123, R124).
-/

namespace Sys2Proof.Machine

set_option Elab.async false

/-! ## What a decision reads -/

theorem State.Only.isRunning {s t : State} {fs : List Field} (h : s.Only fs t) (hf : Field.mgmt ∉ fs := by decide) :
    t.isRunning = s.isRunning := by simp only [State.isRunning, show t.mgmt = s.mgmt from h .mgmt hf]

/-- The configuration a die reads is its group's, if it lies in one (R109). -/
def State.dieConfig (s : State) (d : DieId) : Option GroupConfig := (s.groupOfDie d.val).bind s.config

theorem State.Only.config {s t : State} {fs : List Field} (h : s.Only fs t) (hf : Field.groups ∉ fs := by decide) (g : GroupId) :
    t.config g = s.config g := by simp only [State.config, show t.groups = s.groups from h .groups hf]

theorem State.Only.dieConfig {s t : State} {fs : List Field} (h : s.Only fs t) (hf : Field.groups ∉ fs := by decide) (d : DieId) :
    t.dieConfig d = s.dieConfig d := by
  rw [State.dieConfig, State.dieConfig, State.groupOfDie_congr (h.config hf), show t.config = s.config from funext (h.config hf)]

theorem State.allowance_eq (s : State) (d : DieId) : s.allowance d = ((s.dieConfig d).map (·.allowance)).getD 1 := rfl

theorem State.suspendLimit_eq (s : State) (d : DieId) : s.suspendLimit d = ((s.dieConfig d).map (·.suspendLimit)).getD 0 := rfl

theorem State.Only.allowance {s t : State} {fs : List Field} (h : s.Only fs t) (hf : Field.groups ∉ fs := by decide) (d : DieId) :
    t.allowance d = s.allowance d := by rw [State.allowance_eq, State.allowance_eq, h.dieConfig hf d]

theorem State.Only.suspendLimit {s t : State} {fs : List Field} (h : s.Only fs t) (hf : Field.groups ∉ fs := by decide) (d : DieId) :
    t.suspendLimit d = s.suspendLimit d := by rw [State.suspendLimit_eq, State.suspendLimit_eq, h.dieConfig hf d]

theorem State.urgent_iff (s : State) (d : DieId) : s.urgent d = true ↔ ∃ c, s.dieConfig d = some c ∧ s.freeCount c ≤ c.reserve := by
  unfold State.urgent State.dieConfig
  cases (s.groupOfDie d.val).bind s.config <;> simp

theorem State.Only.urgent {s t : State} {fs : List Field} (h : s.Only fs t) (hf : Field.groups ∉ fs := by decide)
    (hl : Field.freeLists ∉ fs := by decide) (d : DieId) : t.urgent d = s.urgent d := by
  have counts : ∀ c, t.freeCount c = s.freeCount c := fun c => by
    simp only [State.freeCount, show t.freeLists = s.freeLists from h .freeLists hl]
  rw [Bool.eq_iff_iff, State.urgent_iff, State.urgent_iff, h.dieConfig hf d]
  simp only [counts]

/-! ## The page of a grant -/

/-- What the choice of a page reads is as it was: the backlogs, the pass-over counts, the programs that are outstanding, the pool and the
geometry (R112, R117). -/
structure State.SameChoices (s t : State) : Prop where
  backlogs : ∀ d, (t.dies.get d).backlogs = (s.dies.get d).backlogs
  passOver : ∀ d, (t.dies.get d).passOver = (s.dies.get d).passOver
  current : ∀ d, (t.dies.get d).current = (s.dies.get d).current
  suspended : ∀ d, (t.dies.get d).suspendedProgram = (s.dies.get d).suspendedProgram
  pool : t.pool = s.pool
  geometry : t.mgmt.geometry = s.mgmt.geometry

theorem State.SameChoices.refl (s : State) : s.SameChoices s := ⟨fun _ => rfl, fun _ => rfl, fun _ => rfl, fun _ => rfl, rfl, rfl⟩

theorem State.SameChoices.trans {s t u : State} (h : s.SameChoices t) (k : t.SameChoices u) : s.SameChoices u where
  backlogs d := (k.backlogs d).trans (h.backlogs d)
  passOver d := (k.passOver d).trans (h.passOver d)
  current d := (k.current d).trans (h.current d)
  suspended d := (k.suspended d).trans (h.suspended d)
  pool := k.pool.trans h.pool
  geometry := k.geometry.trans h.geometry

theorem State.SameChoices.of_only {s t : State} {fs : List Field} (h : s.Only fs t)
    (hf : Field.dies ∉ fs ∧ Field.pool ∉ fs ∧ Field.mgmt ∉ fs := by decide) : s.SameChoices t := by
  have dies : t.dies = s.dies := h .dies hf.1
  exact ⟨fun _ => by rw [dies], fun _ => by rw [dies], fun _ => by rw [dies], fun _ => by rw [dies], h .pool hf.2.1,
    by rw [show t.mgmt = s.mgmt from h .mgmt hf.2.2]⟩

theorem State.SameChoices.dieOf {s t : State} (h : s.SameChoices t) (u : Nat) : t.dieOf u = s.dieOf u := by
  simp only [State.dieOf, State.bpd, h.geometry]

theorem State.SameChoices.blockOf {s t : State} (h : s.SameChoices t) (u : Nat) : t.blockOf u = s.blockOf u := by
  simp only [State.blockOf, State.bpd, h.geometry]

theorem State.SameChoices.handleOf {s t : State} (h : s.SameChoices t) (k : PageKey) : t.handleOf k = s.handleOf k := by
  simp only [State.handleOf, h.pool]

theorem State.SameChoices.pageEligible {s t : State} (h : s.SameChoices t) : t.pageEligible = s.pageEligible := by
  funext k
  simp only [State.pageEligible, State.programOutstanding, h.pool, h.dieOf, h.current, h.suspended]

theorem State.SameChoices.oldestEligible {s t : State} (h : s.SameChoices t) (d : DieId) (l : Level) :
    t.oldestEligible d l = s.oldestEligible d l := by
  simp only [State.oldestEligible, h.pageEligible, h.backlogs]

theorem State.SameChoices.hasEligible {s t : State} (h : s.SameChoices t) (d : DieId) : t.hasEligible d = s.hasEligible d := by
  simp only [State.hasEligible, h.oldestEligible]

theorem State.SameChoices.grantChoice {s t : State} (h : s.SameChoices t) (d : DieId) : t.grantChoice d = s.grantChoice d := by
  simp only [State.grantChoice, State.grantLevel, State.eligibleLevels, h.oldestEligible, h.passOver]

theorem State.SameChoices.passOverAfter {s t : State} (h : s.SameChoices t) (d : DieId) (l : Level) :
    t.passOverAfter d l = s.passOverAfter d l := by
  simp only [State.passOverAfter, h.oldestEligible, h.passOver]

/-- A level is chosen wherever a level has an eligible page, and then its oldest one (R117). -/
theorem State.grantLevel_none (s : State) (d : DieId) : s.grantLevel d = none ↔ ∀ l, s.oldestEligible d l = none := by
  have empty : s.eligibleLevels d = [] ↔ ∀ l, s.oldestEligible d l = none := by
    simp [List.eq_nil_iff_forall_not_mem, s.mem_eligibleLevels]
  rw [← empty]
  unfold State.grantLevel
  dsimp only
  split
  · next l hl => exact ⟨(nomatch ·), fun h => by rw [h] at hl; cases hl⟩
  · exact List.head?_eq_none_iff

theorem State.grantChoice_level (s : State) (d : DieId) (l : Level) (k : PageKey) (h : s.grantChoice d = some (l, k)) :
    s.grantLevel d = some l ∧ s.oldestEligible d l = some k := by
  unfold State.grantChoice at h
  split at h
  · cases h
  · next m hm =>
    obtain ⟨y, hy, same⟩ := Option.map_eq_some_iff.mp h
    cases same
    exact ⟨hm, hy⟩

theorem State.grantChoice_none (s : State) (d : DieId) : s.grantChoice d = none ↔ ∀ l, s.oldestEligible d l = none := by
  rw [← s.grantLevel_none d]
  unfold State.grantChoice
  split
  · next h => simp [h]
  · next l h =>
    have := s.grantLevel_eligible d l h
    simp [h, Option.isSome_iff_ne_none.mp this]

theorem State.hasEligible_iff (s : State) (d : DieId) : s.hasEligible d = true ↔ s.grantChoice d ≠ none := by
  rw [Ne, s.grantChoice_none d]
  simp [State.hasEligible, Option.isSome_iff_ne_none]

/-! ## Places on the link -/

theorem Link.hasPlace_iff (l : Link) : l.hasPlace = true ↔ l.queue.length < 32 ∧ l.tags.length < 32 := by
  rw [Link.hasPlace, Bool.and_eq_true, decide_eq_true_eq, decide_eq_true_eq]; rfl

theorem State.mayHandOver_iff (s : State) :
    s.mayHandOver false = true ↔ s.link.queue.length < 32 ∧ s.link.tags.length < 32 ∧ s.link.waiting = [] := by
  simp [State.mayHandOver, s.link.hasPlace_iff, and_assoc]

theorem State.mayHandOver_offered (s : State) : s.mayHandOver true = s.link.hasPlace := by simp [State.mayHandOver]

theorem State.mayHandOver_tags (s : State) (o : Bool) (h : s.mayHandOver o = true) : s.link.tags.length < 256 := by
  have := (s.link.hasPlace_iff.mp (s.mayHandOver_place o h)).2
  omega

/-- A die that waits changes the list of waiting dies alone (R140). -/
theorem State.joinWaiting_link (s : State) (d : DieId) :
    (s.joinWaiting d).link = { s.link with waiting := (s.joinWaiting d).link.waiting } := by
  unfold State.joinWaiting; split <;> rfl

/-! ## What a die hands over -/

theorem State.passOverAfter_passedOver (s t : State) (d : DieId) (l : Level) (h : (t.dies.get d).passOver = s.passOverAfter d l) :
    s.PassedOver d l t := fun m => by
  rw [h, State.passOverAfter, Table.get_tabulate]; rfl

/-- The record of a die from which a page is issued (R117, R130). -/
theorem State.issuePage_die (s : State) (d : DieId) (l : Level) (k : PageKey) :
    (s.issuePage d l k).dies.get d = { s.dies.get d with
      backlogs := (s.dies.get d).backlogs.modify l (·.erase k), passOver := s.passOverAfter d l, opTimer := some (max 1 s.limits.op) } := by
  rw [State.issuePage, State.handOver_dies, State.modDie_dies, Table.get_modify_self]; rfl

/-- The PROGRAM of a granted page is handed over (R138). -/
theorem State.issuePage_link (s : State) (d : DieId) (l : Level) (k : PageKey) (h : s.link.tags.length < 256) :
    s.link.HandedOver (s.issuePage d l k).link .program d k.unit (s.blockOf k.unit) (some k) (s.handleOf k) :=
  State.handOver_handedOver (s.modDie d (fun r => { r with
    backlogs := r.backlogs.modify l (·.erase k), passOver := s.passOverAfter d l, opTimer := some s.opTicks })) .program d k.unit (some k) h

theorem State.issuePage_others (s : State) (d : DieId) (l : Level) (k : PageKey) : s.OtherDies d (s.issuePage d l k) := fun x hx => by
  rw [State.issuePage, State.handOver_dies, State.modDie_dies, Table.get_modify_ne _ _ _ _ hx]

theorem State.OtherDies.modDie {s t : State} {d : DieId} (h : s.OtherDies d t) (f : DieRecord → DieRecord) : s.OtherDies d (t.modDie d f) :=
  fun x hx => (Table.get_modify_ne _ _ _ _ hx).trans (h x hx)

/-- An IDLE die issues a page (R116, R117). -/
theorem State.issueProgram_starts (s : State) (d : DieId) (l : Level) (k : PageKey) (h : s.link.tags.length < 256) :
    s.StartsProgram s.link d l k (s.issueProgram d l k) := by
  have die : (s.issueProgram d l k).dies.get d = { s.dies.get d with
      backlogs := (s.dies.get d).backlogs.modify l (·.erase k), passOver := s.passOverAfter d l, opTimer := some (max 1 s.limits.op),
      state := .program, current := some (.program k) } := by
    rw [State.issueProgram, State.modDie_dies, Table.get_modify_self, State.issuePage_die]
  refine ⟨s.issuePage_link d l k h, ?_, s.passOverAfter_passedOver _ d l (by rw [die]), (s.issuePage_others d l k).modDie _,
    s.issueProgram_only d l k⟩
  rw [die]

/-- A SUSPENDED die issues a page, which becomes its suspended program; the choice is read from a state `s` before (R117, R123). -/
theorem State.issueSuspended_serves (s a : State) (d : DieId) (l : Level) (k : PageKey) (same : s.SameChoices a)
    (limits : a.limits = s.limits) (h : a.link.tags.length < 256) :
    s.ServesProgram a.link d (a.dies.get d) l k (a.issueSuspended d l k) := by
  have die : (a.issueSuspended d l k).dies.get d = { a.dies.get d with
      backlogs := (a.dies.get d).backlogs.modify l (·.erase k), passOver := a.passOverAfter d l, opTimer := some (max 1 s.limits.op),
      suspendedProgram := some k, programs := some ((a.dies.get d).programs.getD 0 + 1) } := by
    rw [State.issueSuspended, State.modDie_dies, Table.get_modify_self, State.issuePage_die, limits]
  refine ⟨?_, ?_, s.passOverAfter_passedOver _ d l (by rw [die, same.passOverAfter])⟩
  · rw [← same.blockOf, ← same.handleOf]; exact a.issuePage_link d l k h
  · rw [die]

theorem State.issueSuspended_others (s : State) (d : DieId) (l : Level) (k : PageKey) : s.OtherDies d (s.issueSuspended d l k) :=
  (s.issuePage_others d l k).modDie _

theorem State.resumeErase_others (s : State) (d : DieId) (u : Nat) : s.OtherDies d (s.resumeErase d u) := fun x hx => by
  rw [State.resumeErase, State.handOver_dies, State.modDie_dies, Table.get_modify_ne _ _ _ _ hx]

/-- An IDLE die issues an erase or a check (R116, R130). -/
theorem State.issueBackground_starts (s : State) (d : DieId) (e : BackgroundEntry) (h : s.link.tags.length < 256) :
    s.StartsBackground s.link d e (s.issueBackground d e) := by
  obtain ⟨kind, u⟩ := e
  cases kind with
  | erase =>
    refine ⟨State.handOver_handedOver _ .erase d u none h, ?_, fun x hx => ?_, s.issueBackground_only d _⟩
    · rw [State.issueBackground, State.handOver_dies, State.modDie_dies, Table.get_modify_self]; rfl
    · rw [State.issueBackground, State.handOver_dies, State.modDie_dies, Table.get_modify_ne _ _ _ _ hx]
  | check =>
    refine ⟨State.handOver_handedOver _ .check d u none h, ?_, fun x hx => ?_, s.issueBackground_only d _⟩
    · rw [State.issueBackground, State.handOver_dies, State.modDie_dies, Table.get_modify_self]; rfl
    · rw [State.issueBackground, State.handOver_dies, State.modDie_dies, Table.get_modify_ne _ _ _ _ hx]

/-! ## The choice of an IDLE die -/

theorem State.arbitration_background_of (s : State) (d : DieId) (e : BackgroundEntry) (h : s.startable d = some e)
    (hc : s.urgent d = true ∨ s.grantChoice d = none) : s.arbitration d = .background e := by
  simp only [State.arbitration, h]
  rcases hc with hc | hc
  · rw [if_pos hc]
  · simp only [hc, ite_self]

theorem State.arbitration_program (s : State) (d : DieId) (l : Level) (k : PageKey) (h : s.grantChoice d = some (l, k))
    (hc : s.startable d = none ∨ s.urgent d = false) : s.arbitration d = .program l k := by
  simp only [State.arbitration, h]
  cases hs : s.startable d with
  | none => rfl
  | some e => simp [hc.resolve_left (by simp [hs])]

theorem State.arbitration_nothing (s : State) (d : DieId) (h : s.grantChoice d = none) (hs : s.startable d = none) :
    s.arbitration d = .nothing := by simp only [State.arbitration, h, hs]

/-! ## The choice of a SUSPENDED die -/

/-- A SUSPENDED die with no program of its own issues one wherever R124 has it not resume (R123). -/
theorem State.servesProgram_iff (s : State) (d : DieId) :
    s.servesProgram d = true ↔ (s.dies.get d).suspendedProgram = none ∧ ¬ s.ResumeDue d := by
  have page := s.hasEligible_iff d
  simp only [State.servesProgram, Bool.and_eq_true, decide_eq_true_eq, Bool.not_eq_true', page, State.isRunning, State.ResumeDue, not_or,
    Nat.not_le, Bool.not_eq_true, Ne, Decidable.not_not, and_assoc]

theorem State.resumes_iff (s : State) (d : DieId) :
    s.resumes d = true ↔ (s.dies.get d).suspendedProgram = none ∧ (s.dies.get d).windowOpen = false ∧ s.ResumeDue d := by
  have page : s.hasEligible d = false ↔ s.grantChoice d = none := by
    rw [Bool.eq_false_iff, Ne, s.hasEligible_iff d, Ne, Decidable.not_not]
  simp only [State.resumes, Bool.and_eq_true, Bool.or_eq_true, decide_eq_true_eq, Bool.not_eq_true', page, State.isRunning,
    State.ResumeDue, decide_eq_false_iff_not, and_assoc, or_assoc, Ne]

/-- A SUSPENDED die that serves, with no program of its own, decides by R123 and R124 whether it issues a program, resumes, or stays. -/
theorem State.serveDie_cases (s : State) (d : DieId) (o : Bool) (hs : (s.dies.get d).state = .suspended)
    (hp : (s.dies.get d).purpose = some .serve) (hn : (s.dies.get d).suspendedProgram = none) :
    (¬ s.ResumeDue d → ∀ l k, s.grantChoice d = some (l, k) →
      s.serveDie d o = if s.mayHandOver o then s.issueSuspended d l k else s.joinWaiting d) ∧
    (s.ResumeDue d → (s.dies.get d).windowOpen = false → ∀ u, (s.dies.get d).current = some (.erase u) →
      s.serveDie d o = if s.mayHandOver o then s.resumeErase d u else s.joinWaiting d) ∧
    (s.ResumeDue d → (s.dies.get d).windowOpen = true → s.serveDie d o = s) := by
  have serves := s.servesProgram_iff d
  have resumes := s.resumes_iff d
  refine ⟨fun hd l k hg => ?_, fun hd hw u hu => ?_, fun hd hw => ?_⟩
  · rw [State.serveDie, if_pos ⟨hs, hp⟩, if_pos (serves.mpr ⟨hn, hd⟩)]
    simp only [hg]
  · have unit := ((s.dies.get d).erasingUnit_iff u).mpr hu
    rw [State.serveDie, if_pos ⟨hs, hp⟩, if_neg (fun h => (serves.mp h).2 hd), if_pos (resumes.mpr ⟨hn, hw, hd⟩)]
    simp only [unit]
  · rw [State.serveDie, if_pos ⟨hs, hp⟩, if_neg (fun h => (serves.mp h).2 hd), if_neg]
    intro h
    rw [(resumes.mp h).2.1] at hw
    cases hw

/-- A die that is not SUSPENDED to serve, or whose program is outstanding, makes no decision (R123, R124). -/
theorem State.serveDie_same (s : State) (d : DieId) (o : Bool)
    (h : (s.dies.get d).state ≠ .suspended ∨ (s.dies.get d).purpose ≠ some .serve ∨ (s.dies.get d).suspendedProgram ≠ none) :
    s.serveDie d o = s := by
  unfold State.serveDie
  dsimp only
  split
  · next hc =>
    have program := (h.resolve_left (not_not.mpr hc.1)).resolve_left (not_not.mpr hc.2)
    rw [if_neg (fun hs => program ((s.servesProgram_iff d).mp hs).1), if_neg (fun hs => program ((s.resumes_iff d).mp hs).1)]
  · rfl

/-- Serving one die leaves the records of the others. -/
theorem State.serveDie_others (s : State) (d : DieId) (o : Bool) : s.OtherDies d (s.serveDie d o) := by
  unfold State.serveDie
  dsimp only
  split
  · split
    · split
      · exact fun _ _ => rfl
      · split
        · exact s.issueSuspended_others d _ _
        · exact fun x _ => by rw [State.joinWaiting_dies]
    · split
      · split
        · exact fun _ _ => rfl
        · split
          · exact s.resumeErase_others d _
          · exact fun x _ => by rw [State.joinWaiting_dies]
      · exact fun _ _ => rfl
  · exact fun _ _ => rfl

end Sys2Proof.Machine
end

section
/-!
PROOFS. ARBITRATE (R115, R116): the page of a grant (R112, R117), the group a die reads (R109), when a background operation may start (R114, R116),
and what an IDLE die does.
-/

namespace Sys2Proof.Machine

set_option Elab.async false

/-! ## The page of a grant -/

theorem State.pageEligible_iff (s : State) (k : PageKey) : s.pageEligible k = true ↔
    (∀ e ∈ s.pool, e.key.unit = k.unit → k.index ≤ e.key.index) ∧
    (∀ y, (s.dies.get (s.dieOf k.unit)).current = some (.program y) → y.unit ≠ k.unit) ∧
    ∀ y, (s.dies.get (s.dieOf k.unit)).suspendedProgram = some y → y.unit ≠ k.unit := by
  have outstanding : s.programOutstanding k.unit = false ↔
      (∀ y, (s.dies.get (s.dieOf k.unit)).current = some (.program y) → y.unit ≠ k.unit) ∧
      ∀ y, (s.dies.get (s.dieOf k.unit)).suspendedProgram = some y → y.unit ≠ k.unit := by
    simp only [State.programOutstanding, Bool.or_eq_false_iff]
    refine and_congr ?_ ?_
    · cases (s.dies.get (s.dieOf k.unit)).current with
      | none => simp
      | some op => cases op <;> simp
    · cases (s.dies.get (s.dieOf k.unit)).suspendedProgram <;> simp
  rw [State.pageEligible, Bool.and_eq_true, Bool.not_eq_true', outstanding, List.all_eq_true]
  refine and_congr (forall₂_congr (fun e _ => ?_)) Iff.rfl
  rw [decide_eq_true_eq, Decidable.imp_iff_not_or]

/-- The first element of an ordered list that passes a test is the least of those that pass it. -/
theorem find?_least {α : Type} {r : α → α → Prop} {l : List α} (hl : l.Pairwise r) {p : α → Bool} {a : α} (h : l.find? p = some a) :
    p a = true ∧ ∀ b ∈ l, ¬ r a b → b ≠ a → p b = false := by
  obtain ⟨pass, before, after, rfl, fail⟩ := List.find?_eq_some_iff_append.mp h
  refine ⟨pass, fun b hb hr hne => ?_⟩
  rcases List.mem_append.mp hb with hb | hb
  · simpa using fail b hb
  · obtain ⟨first, -⟩ := List.pairwise_cons.mp (List.pairwise_append.mp hl).2.1
    exact absurd (first b ((List.mem_cons.mp hb).resolve_left hne)) hr

theorem State.eligibleLevels_descending (s : State) (d : DieId) : (s.eligibleLevels d).Pairwise (· > ·) :=
  List.pairwise_reverse.mpr ((List.pairwise_lt_finRange 7).filter _)

/-- The level of a grant: the highest with an eligible page and a pass-over count of 16, or else the highest with an eligible page (R117). -/
theorem State.grantLevel_highest (s : State) (d : DieId) (l : Level) (h : s.grantLevel d = some l) :
    let r := s.dies.get d
    (r.passOver.get l = 16 ∧ ∀ m, l < m → (s.oldestEligible d m).isSome → r.passOver.get m ≠ 16) ∨
    ((∀ m, (s.oldestEligible d m).isSome → r.passOver.get m ≠ 16) ∧ ∀ m, l < m → ¬ (s.oldestEligible d m).isSome) := by
  have descending := s.eligibleLevels_descending d
  have mem := s.mem_eligibleLevels d
  simp only [State.grantLevel] at h
  split at h
  · next x hx =>
    cases h
    obtain ⟨passed, higher⟩ := find?_least descending hx
    exact .inl ⟨of_decide_eq_true passed, fun m hm hr =>
      of_decide_eq_false (higher m ((mem m).mpr hr) (fun hgt => absurd hgt (not_lt.mpr hm.le)) hm.ne')⟩
  · next hnone =>
    refine .inr ⟨fun m hr full => List.find?_eq_none.mp hnone m ((mem m).mpr hr) (decide_eq_true full), fun m hm hr => ?_⟩
    obtain ⟨rest, hl⟩ := List.head?_eq_some_iff.mp h
    rw [hl] at descending
    have hmem := (mem m).mpr hr
    rw [hl] at hmem
    rcases List.mem_cons.mp hmem with rfl | hmem
    · exact absurd hm (lt_irrefl _)
    · exact absurd ((List.pairwise_cons.mp descending).1 m hmem) (not_lt.mpr hm.le)

theorem State.oldestEligible_isSome (s : State) (d : DieId) (l : Level) :
    (s.oldestEligible d l).isSome ↔ ∃ k ∈ (s.dies.get d).backlogs.get l, s.pageEligible k = true := List.find?_isSome

/-- The oldest eligible page of a level stands before every other eligible one (R112). -/
theorem State.oldestEligible_first (s : State) (d : DieId) (l : Level) (k : PageKey) (h : s.oldestEligible d l = some k) :
    let pages := (s.dies.get d).backlogs.get l
    ∃ n, n < pages.length ∧ pages[n]? = some k ∧ s.pageEligible k = true ∧
      ∀ m, m < n → ∀ y, pages[m]? = some y → ¬ s.pageEligible y = true := by
  obtain ⟨pass, n, hn, rfl, before⟩ := List.find?_eq_some_iff_getElem.mp h
  refine ⟨n, hn, List.getElem?_eq_getElem hn, pass, fun m hm y hy => ?_⟩
  obtain ⟨hlt, rfl⟩ := List.getElem?_eq_some_iff.mp hy
  simpa using before m hm

/-! ## The group a die reads -/

/-- A die reads the configuration of the lowest configured group that holds it (R109, R172). -/
theorem State.dieConfig_iff (s : State) (d : DieId) (c : GroupConfig) : s.dieConfig d = some c ↔ s.InGroup d c := by
  let holds : GroupId → Bool := fun g => match s.config g with
    | some c => decide (c.first ≤ d.val ∧ d.val ≤ c.last)
    | none => false
  have holds_iff : ∀ g, holds g = true ↔ ∃ c, s.config g = some c ∧ c.first ≤ d.val ∧ d.val ≤ c.last := fun g => by
    simp only [holds]; cases s.config g <;> simp
  have found : s.groupOfDie d.val = (List.finRange 8).find? holds := rfl
  constructor
  · intro h
    obtain ⟨g, hg, hc⟩ := Option.bind_eq_some_iff.mp h
    rw [found] at hg
    obtain ⟨pass, least⟩ := find?_least (List.pairwise_lt_finRange 8) hg
    obtain ⟨b, hb, range⟩ := (holds_iff g).mp pass
    cases hb.symm.trans hc
    refine ⟨g, hc, range.1, range.2, fun x hx b hb hr => ?_⟩
    have := least x (List.mem_finRange x) (not_lt.mpr hx.le) hx.ne
    rw [(holds_iff x).mpr ⟨b, hb, hr⟩] at this
    cases this
  · rintro ⟨g, hc, hfirst, hlast, lowest⟩
    have pass : holds g = true := (holds_iff g).mpr ⟨c, hc, hfirst, hlast⟩
    obtain ⟨x, hx⟩ := Option.isSome_iff_exists.mp (List.find?_isSome.mpr ⟨g, List.mem_finRange g, pass⟩)
    obtain ⟨xpass, least⟩ := find?_least (List.pairwise_lt_finRange 8) hx
    have same : x = g := by
      rcases lt_trichotomy x g with hlt | heq | hgt
      · obtain ⟨b, hb, hr⟩ := (holds_iff x).mp xpass
        exact absurd hr (lowest x hlt b hb)
      · exact heq
      · rw [least g (List.mem_finRange g) (not_lt.mpr hgt.le) hgt.ne] at pass; cases pass
    rw [State.dieConfig, found, hx, same]
    exact hc

/-- The group free count adds up the free lists of the group's dies (R16). -/
theorem State.freeCount_eq (s : State) (c : GroupConfig) : s.freeCount c =
    ((List.range (c.last + 1 - c.first)).map (fun n => (s.freeLists.get (Fin.ofNat 32 (c.first + n))).length)).sum := by
  simp only [State.freeCount, GroupConfig.dies, List.map_map, Function.comp_def, Nat.add_comm]

/-! ## When a background operation may start -/

theorem State.plwAsserted_eq_false (s : State) : s.plwAsserted = false ↔ s.inputs.plwN = .high := by
  unfold State.plwAsserted
  cases s.inputs.plwN <;> simp

theorem DieRecord.windowOpen_eq_false (r : DieRecord) : r.windowOpen = false ↔ ∀ p n, r.windows.get p ≠ .opened n := by
  rw [Bool.eq_false_iff, Ne, r.windowOpen_iff]; push Not; rfl

theorem State.startable_cases (s : State) (d : DieId) :
    let r := s.dies.get d
    let may := (∀ p n, r.windows.get p ≠ .opened n) ∧ s.inputs.plwN = .high ∧ s.mgmt.device = .running
    (may → s.startable d = r.queue.head?) ∧ (¬ may → s.startable d = none) := by
  intro r may
  have test : (!r.windowOpen && !s.plwAsserted && s.isRunning) = true ↔ may := by
    simp only [Bool.and_eq_true, Bool.not_eq_true', r.windowOpen_eq_false, s.plwAsserted_eq_false, State.isRunning, decide_eq_true_eq,
      and_assoc, may]
  exact ⟨fun h => if_pos (test.mpr h), fun h => if_neg (fun ht => h (test.mp ht))⟩

/-! ## What an IDLE die does -/

theorem State.arbitrateDie_cases (s : State) (d : DieId) (o : Bool) :
    (∀ e, s.startable d = some e → (s.urgent d = true ∨ s.grantChoice d = none) →
      s.arbitrateDie d o = if s.mayHandOver o then s.issueBackground d e else s.joinWaiting d) ∧
    (∀ l k, s.grantChoice d = some (l, k) → (s.startable d = none ∨ s.urgent d = false) →
      s.arbitrateDie d o = if s.mayHandOver o then s.issueProgram d l k else s.joinWaiting d) ∧
    (s.startable d = none → s.grantChoice d = none → s.arbitrateDie d o = s) := by
  refine ⟨fun e he hc => ?_, fun l k hg hc => ?_, fun hs hg => ?_⟩
  · simp only [State.arbitrateDie, s.arbitration_background_of d e he hc]
  · simp only [State.arbitrateDie, s.arbitration_program d l k hg hc]
  · simp only [State.arbitrateDie, s.arbitration_nothing d hg hs]

theorem exec_arbitrate (s : State) (d : DieId) (h : (s.dies.get d).state = .idle) :
    exec (.arbitrate d) s = .next (s.arbitrateDie d false) := if_pos h

/-- A die that decides while it may hand nothing over waits, and nothing else changes (R115, R140). -/
theorem State.joinWaiting_waits (s : State) (d : DieId) :
    d ∈ (s.joinWaiting d).link.waiting ∧ (s.joinWaiting d).link = { s.link with waiting := (s.joinWaiting d).link.waiting } ∧
    s.Only [.link] (s.joinWaiting d) := ⟨s.mem_joinWaiting d, s.joinWaiting_link d, s.joinWaiting_only d⟩

/-- Settles O54: the parts of the choice one by one, and then the IDLE die that makes it. -/
theorem arbitrateIssuesChoice : Obligations.ArbitrateIssuesChoice := by
  unfold Obligations.ArbitrateIssuesChoice
  refine ⟨fun d s => ?_, fun d s => ?_, fun d s hidle => ?_⟩
  · intro r eligible ready
    have ready_iff : ∀ l, ready l ↔ (s.oldestEligible d l).isSome := fun l => by
      rw [s.oldestEligible_isSome]
      exact exists_congr (fun k => and_congr Iff.rfl (s.pageEligible_iff k).symm)
    refine ⟨fun l k h => ?_, fun h l hr => ?_⟩
    · obtain ⟨level, page⟩ := s.grantChoice_level d l k h
      obtain ⟨n, hn, hk, pass, before⟩ := s.oldestEligible_first d l k page
      refine ⟨?_, n, hn, hk, (s.pageEligible_iff k).mp pass, fun m hm y hy he => before m hm y hy ((s.pageEligible_iff y).mpr he)⟩
      simp only [ready_iff]
      exact s.grantLevel_highest d l level
    · rw [ready_iff, (s.grantChoice_none d).mp h l] at hr
      cases hr
  · obtain ⟨starts, stays⟩ := s.startable_cases d
    refine ⟨starts, stays, ?_⟩
    rw [s.urgent_iff]
    simp only [s.dieConfig_iff, s.freeCount_eq]
  · intro free background program
    obtain ⟨erases, programs, nothing⟩ := s.arbitrateDie_cases d false
    have may : s.mayHandOver false = true ↔ free := s.mayHandOver_iff
    refine ⟨fun e ⟨hs, hc⟩ hf => ⟨_, exec_arbitrate s d hidle, ?_⟩, fun l k ⟨hg, hc⟩ hf => ⟨_, exec_arbitrate s d hidle, ?_⟩,
      fun chosen hf => ⟨_, exec_arbitrate s d hidle, ?_⟩, fun hs hg => (exec_arbitrate s d hidle).trans (congrArg _ (nothing hs hg))⟩
    · rw [erases e hs hc, if_pos (may.mpr hf)]
      exact s.issueBackground_starts d e (s.mayHandOver_tags false (may.mpr hf))
    · rw [programs l k hg hc, if_pos (may.mpr hf)]
      exact s.issueProgram_starts d l k (s.mayHandOver_tags false (may.mpr hf))
    · have waits : s.arbitrateDie d false = s.joinWaiting d := by
        rcases chosen with ⟨e, hs, hc⟩ | ⟨l, k, hg, hc⟩
        · rw [erases e hs hc, if_neg (may.not.mpr hf)]
        · rw [programs l k hg hc, if_neg (may.not.mpr hf)]
      rw [waits]
      exact s.joinWaiting_waits d

end Sys2Proof.Machine
end

section
/-!
PROOFS. Read windows that close (R126, R127): a SUSPENDED die that decides again, WINDOW_EXPIRY and END_WINDOW.
-/

namespace Sys2Proof.Machine

set_option Elab.async false

/-! ## A SUSPENDED die with a window OPEN -/

/-- While a window on it is OPEN, a SUSPENDED die keeps its erase held (R124, R127). -/
theorem State.serveDie_held (s : State) (d : DieId) (o : Bool) (hs : (s.dies.get d).state = .suspended)
    (hw : (s.dies.get d).windowOpen = true) :
    ((s.serveDie d o).dies.get d).state = .suspended ∧ ((s.serveDie d o).dies.get d).heldErase = (s.dies.get d).heldErase := by
  have stays : s.resumes d = false := by
    rw [Bool.eq_false_iff]; intro h
    rw [((s.resumes_iff d).mp h).2.1] at hw
    cases hw
  unfold State.serveDie
  dsimp only
  split
  · split
    · split
      · exact ⟨hs, rfl⟩
      · split
        · rw [State.issueSuspended, State.modDie_dies, Table.get_modify_self, State.issuePage_die]
          exact ⟨hs, rfl⟩
        · rw [State.joinWaiting_dies]; exact ⟨hs, rfl⟩
    · rw [if_neg (by rw [stays]; decide)]; exact ⟨hs, rfl⟩
  · exact ⟨hs, rfl⟩

theorem State.serveSuspended_held (s : State) (d : DieId) (hs : (s.dies.get d).state = .suspended)
    (hw : (s.dies.get d).windowOpen = true) :
    (s.serveSuspended.dies.get d).state = .suspended ∧ (s.serveSuspended.dies.get d).heldErase = (s.dies.get d).heldErase := by
  unfold State.serveSuspended
  generalize s.dies.indices _ = l
  induction l generalizing s with
  | nil => exact ⟨hs, rfl⟩
  | cons x l ih =>
    have windows : ((s.serveDie x false).dies.get d).windowOpen = true := by
      rw [DieRecord.windowOpen, (s.serveDie_windows x false d).1]; exact hw
    by_cases hx : d = x
    · subst hx
      obtain ⟨state, held⟩ := s.serveDie_held d false hs hw
      obtain ⟨state', held'⟩ := ih (s.serveDie d false) state windows
      exact ⟨state', held'.trans held⟩
    · have other := s.serveDie_others x false d hx
      obtain ⟨state', held'⟩ := ih (s.serveDie x false) (by rw [other]; exact hs) windows
      exact ⟨state', held'.trans (by rw [other])⟩

/-! ## A window of a SUSPENDED die that closes -/

/-- What follows the closing of port `p`'s window on a SUSPENDED die, whose record is then `closed` (R124, R127). -/
def State.Reevaluates (s : State) (d : DieId) (p : MasterId) (closed : DieRecord) (t : State) : Prop :=
  let r := s.dies.get d
  let free := s.link.queue.length < 32 ∧ s.link.tags.length < 32 ∧ s.link.waiting = []
  ((∃ y n, y ≠ p ∧ r.windows.get y = .opened n) → (t.dies.get d).state = .suspended ∧ (t.dies.get d).heldErase = r.heldErase) ∧
  (∀ u, (∀ y n, y ≠ p → r.windows.get y ≠ .opened n) → r.purpose = some .serve → r.current = some (.erase u) →
    r.suspendedProgram = none → (∀ x, x ≠ d → (s.dies.get x).state ≠ .suspended) →
    (s.ResumeDue d → free → s.link.Resumes d closed u t) ∧
    (¬ s.ResumeDue d → ∀ v k, s.grantChoice d = some (v, k) → free → s.ServesProgram s.link d closed v k t) ∧
    (¬ free → t.dies.get d = closed ∧ d ∈ t.link.waiting ∧ t.link = { s.link with waiting := t.link.waiting }))

theorem State.Reevaluates.congr {s b t : State} {d : DieId} {p : MasterId} {closed : DieRecord} (h : s.Reevaluates d p closed b)
    (hd : t.dies = b.dies) (hl : t.link = b.link) : s.Reevaluates d p closed t := by
  unfold State.Reevaluates at h ⊢
  simpa only [State.ServesProgram, State.PassedOver, Link.Resumes, hd, hl] using h

/-- A change of a die that leaves its operations changes no condition of R124. -/
theorem State.SameChoices.resumeDue {s a : State} {fs : List Field} (same : s.SameChoices a) (only : s.Only fs a) (d : DieId)
    (programs : (a.dies.get d).programs = (s.dies.get d).programs)
    (hf : Field.groups ∉ fs ∧ Field.freeLists ∉ fs ∧ Field.mgmt ∉ fs := by decide) : a.ResumeDue d ↔ s.ResumeDue d := by
  rw [State.ResumeDue, State.ResumeDue, only.allowance hf.1 d, only.urgent hf.1 hf.2.1 d, same.grantChoice d, programs,
    show a.mgmt = s.mgmt from only .mgmt hf.2.2]

/-- The closing of a window, with the lapsed flags `lapsed`, and what its SUSPENDED die does then (R126, R127). -/
theorem State.closeWindow_reevaluates (s a : State) (d : DieId) (p : MasterId) (lapsed : Table 4 Bool)
    (hs : (s.dies.get d).state = .suspended) (only : s.Only [.dies, .masters] a) (others : s.OtherDies d a)
    (die : a.dies.get d = { s.dies.get d with windows := (s.dies.get d).windows.set p .closed, lapsed := lapsed }) :
    s.Reevaluates d p { s.dies.get d with windows := (s.dies.get d).windows.set p .closed, lapsed := lapsed } a.serveSuspended := by
  have link : a.link = s.link := only .link (by decide)
  have limits : a.limits = s.limits := only .limits (by decide)
  have suspended : (a.dies.get d).state = .suspended := by rw [die]; exact hs
  have field : ∀ {α : Type} (f : DieRecord → α), f (a.dies.get d) = f (s.dies.get d) → ∀ x, f (a.dies.get x) = f (s.dies.get x) := by
    intro α f hf x
    by_cases hx : x = d
    · rw [hx]; exact hf
    · rw [others x hx]
  have same : s.SameChoices a := ⟨field _ (by rw [die]), field _ (by rw [die]), field _ (by rw [die]), field _ (by rw [die]),
    only .pool (by decide), by rw [show a.mgmt = s.mgmt from only .mgmt (by decide)]⟩
  have due : a.ResumeDue d ↔ s.ResumeDue d := same.resumeDue only d (by rw [die])
  have may : a.mayHandOver false = true ↔ s.link.queue.length < 32 ∧ s.link.tags.length < 32 ∧ s.link.waiting = [] := by
    rw [a.mayHandOver_iff, link]
  refine ⟨fun ⟨y, n, hy, hopen⟩ => ?_, fun u hclosed hp hc hn halone => ?_⟩
  · have windowOpen : (a.dies.get d).windowOpen = true := by
      refine (DieRecord.windowOpen_iff _).mpr ⟨y, n, ?_⟩
      rw [die]; simpa [Table.get_set_ne _ _ _ _ hy] using hopen
    obtain ⟨state, held⟩ := a.serveSuspended_held d suspended windowOpen
    exact ⟨state, held.trans (by rw [die])⟩
  · have noWindow : (a.dies.get d).windowOpen = false := by
      refine (DieRecord.windowOpen_eq_false _).mpr (fun y n => ?_)
      rw [die]
      by_cases hy : y = p
      · subst hy; simp
      · simpa [Table.get_set_ne _ _ _ _ hy] using hclosed y n hy
    have alone : ∀ x, (a.dies.get x).state = .suspended → x = d := fun x hx => by
      by_contra hne
      rw [others x hne] at hx
      exact halone x hne hx
    rw [a.serveSuspended_one d suspended alone]
    obtain ⟨serves, resumes, -⟩ := a.serveDie_cases d false suspended (by rw [die]; exact hp) (by rw [die]; exact hn)
    have current : (a.dies.get d).current = some (.erase u) := by rw [die]; exact hc
    refine ⟨fun hdue hfree => ?_, fun hdue v k hg hfree => ?_, fun hfree => ?_⟩
    · rw [resumes (due.mpr hdue) noWindow u current, if_pos (may.mpr hfree), ← die, ← link]
      exact a.resumeErase_cases d u (a.mayHandOver_tags false (may.mpr hfree))
    · rw [serves (due.not.mpr hdue) v k ((same.grantChoice d).trans hg), if_pos (may.mpr hfree), ← die, ← link]
      exact s.issueSuspended_serves a d v k same limits (a.mayHandOver_tags false (may.mpr hfree))
    · have waits : a.serveDie d false = a.joinWaiting d := by
        by_cases hdue : a.ResumeDue d
        · rw [resumes hdue noWindow u current, if_neg (may.not.mpr hfree)]
        · obtain ⟨⟨v, k⟩, hg⟩ := Option.ne_none_iff_exists'.mp (fun h => hdue (.inr (.inl h)))
          rw [serves hdue v k hg, if_neg (may.not.mpr hfree)]
      rw [waits]
      refine ⟨by rw [State.joinWaiting_dies]; exact die, a.mem_joinWaiting d, ?_⟩
      rw [← link]; exact a.joinWaiting_link d

/-! ## WINDOW_EXPIRY and END_WINDOW -/

/-- The part with a window lapsed, before the SUSPENDED dies decide again (R126). -/
def State.windowLapsed (s : State) (d : DieId) (p : MasterId) : State :=
  s.modDie d (fun r => { r with windows := r.windows.set p .closed, lapsed := r.lapsed.set p true })

/-- The part with a window ended by its port, before the SUSPENDED dies decide again (R126). -/
def State.windowEnded (s : State) (d : DieId) (p : MasterId) : State :=
  s.modDie d (fun r => { r with windows := r.windows.set p .closed })

theorem exec_windowExpiry (s : State) (d : DieId) (p : MasterId) (h : (s.dies.get d).windows.get p = .opened 0) :
    exec (.windowExpiry d p) s = .next (s.windowLapsed d p).serveSuspended := if_pos h

/-- The answers of END_WINDOW on a configured die (R126, R188). -/
theorem endWindowRequest_cases (p : MasterId) (r : Request) (s : State) (d : DieId) (hd : s.configuredDie r.windowDie = some d) :
    (∀ n, (s.dies.get d).windows.get p = .opened n → endWindowRequest p r s = r.answer (s.windowEnded d p).serveSuspended .ok) ∧
    (∀ pl, (s.dies.get d).windows.get p = .waiting pl → endWindowRequest p r s = r.answer s .busy) ∧
    ((s.dies.get d).windows.get p = .closed → endWindowRequest p r s =
      if (s.dies.get d).lapsed.get p then r.answer (s.modDie d (fun x => { x with lapsed := x.lapsed.set p false })) .tooLate
      else r.answer s .stale) := by
  refine ⟨fun n h => ?_, fun pl h => ?_, fun h => ?_⟩ <;> simp only [endWindowRequest, hd, h]
  rfl

theorem State.windowEnded_only (s : State) (d : DieId) (p : MasterId) : s.Only [.dies] (s.windowEnded d p) := s.modDie_only d _

theorem State.windowEnded_die (s : State) (d : DieId) (p : MasterId) :
    (s.windowEnded d p).dies.get d = { s.dies.get d with windows := (s.dies.get d).windows.set p .closed } := Table.get_modify_self _ _ _

theorem State.windowEnded_others (s : State) (d : DieId) (p : MasterId) : s.OtherDies d (s.windowEnded d p) :=
  fun _ hx => Table.get_modify_ne _ _ _ _ hx

theorem State.windowLapsed_die (s : State) (d : DieId) (p : MasterId) : (s.windowLapsed d p).dies.get d =
    { s.dies.get d with windows := (s.dies.get d).windows.set p .closed, lapsed := (s.dies.get d).lapsed.set p true } :=
  Table.get_modify_self _ _ _

theorem State.windowLapsed_others (s : State) (d : DieId) (p : MasterId) : s.OtherDies d (s.windowLapsed d p) :=
  fun _ hx => Table.get_modify_ne _ _ _ _ hx

/-- A window that lapses leaves every other window and lapsed flag (R126). -/
theorem State.windowLapsed_windows (s : State) (d : DieId) (p : MasterId) (x : DieId) (y : MasterId) (h : x ≠ d ∨ y ≠ p) :
    ((s.windowLapsed d p).dies.get x).windows.get y = (s.dies.get x).windows.get y ∧
    ((s.windowLapsed d p).dies.get x).lapsed.get y = (s.dies.get x).lapsed.get y := by
  by_cases hx : x = d
  · subst hx
    have hy := h.resolve_left (fun hne => hne rfl)
    rw [State.windowLapsed_die]
    exact ⟨Table.get_set_ne _ _ _ _ hy, Table.get_set_ne _ _ _ _ hy⟩
  · rw [s.windowLapsed_others d p x hx]; exact ⟨rfl, rfl⟩

theorem State.Ready.endWindow {s : State} {p : MasterId} (h : s.Ready (.master p) kindEndWindow) :
    exec (.endWindow p) s = .next (endWindowRequest p (s.headRequest (.master p)) (s.taken (.master p))) :=
  exec_of_kind s (.master p) kindEndWindow (endWindowRequest p) (.endWindow p) rfl h

/-- END_WINDOW on a die that is configured closes the port's OPEN window with the reply OK (R126). -/
theorem exec_endWindow_opened (s : State) (d : DieId) (p : MasterId) (n : Nat) (hr : s.Ready (.master p) kindEndWindow)
    (hq : (s.headRequest (.master p)).byte 6 = d.val) (hd : d.val < s.dieCount) (ho : (s.dies.get d).windows.get p = .opened n) :
    exec (.endWindow p) s =
      .next ((s.headRequest (.master p)).answer ((s.taken (.master p)).windowEnded d p).serveSuspended .ok) := by
  have found : (s.taken (.master p)).configuredDie (s.headRequest (.master p)).windowDie = some d := by
    rw [State.taken_configuredDie]; exact s.configuredDie_some d _ hq hd
  rw [hr.endWindow]
  exact congrArg _ ((endWindowRequest_cases p _ _ d found).1 n ho)

/-- Settles O38: the closing of a window on a SUSPENDED die, and what each of the two commands does to the windows themselves. -/
theorem windowsClose : Obligations.WindowsClose := by
  unfold Obligations.WindowsClose
  refine ⟨fun d p s hs => ⟨fun ho => ?_, fun n hr hq hd ho => ?_⟩, fun d p s ho => ?_, fun p s hr => ⟨fun d hq hd => ?_, fun hd => ?_⟩⟩
  · exact ⟨_, exec_windowExpiry s d p ho, s.closeWindow_reevaluates (s.windowLapsed d p) d p _ hs ((s.modDie_only d _).mono (by decide))
      (s.windowLapsed_others d p) (s.windowLapsed_die d p)⟩
  · have only : s.Only [.dies, .masters] ((s.taken (.master p)).windowEnded d p) :=
      ((s.taken_only_master p).mono (by decide)).andThen (State.windowEnded_only _ d p) (gs := [.dies, .masters])
    have dies : (s.taken (.master p)).dies = s.dies := s.taken_dies _
    have reevaluates := s.closeWindow_reevaluates _ d p (s.dies.get d).lapsed hs only
      (fun x hx => by rw [State.windowEnded_others _ d p x hx, dies]) (by rw [State.windowEnded_die, dies])
    have answered := (s.headRequest (.master p)).answer_only ((s.taken (.master p)).windowEnded d p).serveSuspended .ok [] []
    exact ⟨_, exec_endWindow_opened s d p n hr hq hd ho, reevaluates.congr (answered .dies (by decide)) (answered .link (by decide))⟩
  · have kept := (s.windowLapsed d p).serveSuspended_windows
    refine ⟨_, exec_windowExpiry s d p ho, ?_, ?_, fun x y hxy => ?_, ?_⟩
    · rw [(kept d).1, State.windowLapsed_die]; exact Table.get_set_self _ _ _
    · rw [(kept d).2, State.windowLapsed_die]; exact Table.get_set_self _ _ _
    · rw [(kept x).1, (kept x).2]; exact s.windowLapsed_windows d p x y hxy
    · exact ((s.modDie_only d _).mono (by decide)).andThen (State.serveSuspended_only _) (gs := [.dies, .link])
  · intro r
    have found : (s.taken (.master p)).configuredDie (s.headRequest (.master p)).windowDie = some d := by
      rw [State.taken_configuredDie]; exact s.configuredDie_some d _ hq hd
    have dies : (s.taken (.master p)).dies = s.dies := s.taken_dies _
    obtain ⟨-, waiting, closed⟩ := endWindowRequest_cases p (s.headRequest (.master p)) (s.taken (.master p)) d found
    rw [dies] at waiting closed
    refine ⟨fun n ho => ?_, fun pl hw => ?_, fun hc hl => ?_, fun hc hl => ?_⟩
    · refine ⟨_, exec_endWindow_opened s d p n hr hq hd ho, ?_, ?_⟩
      · have served := ((s.taken (.master p)).windowEnded_only d p |>.mono (by decide)).andThen (State.serveSuspended_only _)
          (gs := [.dies, .link])
        exact s.answered _ (.master p) (served .masters (by decide)) (served .mport (by decide)) .ok [] []
      · have answered := (s.headRequest (.master p)).answer_only_master p rfl ((s.taken (.master p)).windowEnded d p).serveSuspended .ok [] []
        have kept := ((s.taken (.master p)).windowEnded d p).serveSuspended_windows
        rw [answered .dies (by decide)]
        refine ⟨?_, ?_, fun x hx => ?_, ?_⟩
        · rw [(kept d).1, State.windowEnded_die, dies]
        · rw [(kept d).2, State.windowEnded_die, dies]
        · rw [(kept x).1, State.windowEnded_others _ d p x hx, dies]
        · exact ((((s.taken_only_master p).mono (by decide)).andThen (State.windowEnded_only _ d p) (gs := [.dies, .link, .masters])).andThen
            (State.serveSuspended_only _)).andThen answered
    · exact onlyAnswered_of_exec (hr.endWindow.trans (congrArg _ (waiting pl hw)))
    · have lifted : (s.taken (.master p)).Only [.dies] ((s.taken (.master p)).modDie d (fun x => { x with lapsed := x.lapsed.set p false })) :=
        State.modDie_only _ d _
      have answered := (s.headRequest (.master p)).answer_only_master p rfl
        ((s.taken (.master p)).modDie d (fun x => { x with lapsed := x.lapsed.set p false })) .tooLate [] []
      refine ⟨_, hr.endWindow.trans (congrArg _ ((closed hc).trans (if_pos hl))), ?_, ?_, fun x hx => ?_, ?_⟩
      · exact s.answered _ (.master p) (lifted .masters (by decide)) (lifted .mport (by decide)) .tooLate [] []
      · rw [answered .dies (by decide), State.modDie_dies, Table.get_modify_self, dies]
      · rw [answered .dies (by decide), State.modDie_dies, Table.get_modify_ne _ _ _ _ hx, dies]
      · exact (((s.taken_only_master p).mono (by decide)).andThen lifted (gs := [.dies, .masters])).andThen answered
    · refine onlyAnswered_of_exec (hr.endWindow.trans (congrArg _ ((closed hc).trans (if_neg ?_))))
      rw [hl]; decide
  · refine onlyAnswered_of_exec (hr.endWindow.trans (congrArg _ ?_))
    have missing : (s.taken (.master p)).configuredDie (s.headRequest (.master p)).windowDie = none := by
      rw [State.taken_configuredDie]; exact s.configuredDie_none _ hd
    simp only [endWindowRequest, missing]

end Sys2Proof.Machine
end

section
/-!
PROOFS. READ_WINDOW and WINDOW_GRANT (R125), and a SUSPEND to serve (R121).
-/

namespace Sys2Proof.Machine

set_option Elab.async false

/-! ## A SUSPEND to serve -/

theorem State.maySuspend_iff (s : State) (d : DieId) (u : Nat) (x : UnitRecord) (h : s.unit? u = some x) :
    s.maySuspend d u = true ↔
      x.suspendCount.getD 0 < s.suspendLimit d ∧ s.urgent d = false ∧ s.plwAsserted = false ∧ s.isRunning = true := by
  simp only [State.maySuspend, h, Option.bind_some, Bool.and_eq_true, decide_eq_true_eq, Bool.not_eq_true', and_assoc]

/-- What a trigger does to a die in ERASE with no purpose yet (R121, R140). -/
theorem State.trigger_cases (s : State) (d : DieId) (u : Nat) (o : Bool) (hs : (s.dies.get d).state = .erase)
    (hp : (s.dies.get d).purpose = none) (hc : (s.dies.get d).current = some (.erase u)) :
    (s.maySuspend d u = true → s.trigger d o = if s.mayHandOver o then s.suspendToServe d u else s.joinWaiting d) ∧
    (¬ s.maySuspend d u = true → s.trigger d o = s) := by
  have unit := ((s.dies.get d).erasingUnit_iff u).mpr hc
  have trigger : s.trigger d o =
      if s.maySuspend d u then if s.mayHandOver o then s.suspendToServe d u else s.joinWaiting d else s := by
    rw [State.trigger, if_pos ⟨hs, hp⟩]; simp only [unit]
  exact ⟨fun h => trigger.trans (if_pos h), fun h => trigger.trans (if_neg h)⟩

/-- A SUSPEND to serve is handed over and counted in the unit (R121, R138). -/
theorem State.suspendToServe_cases (s : State) (d : DieId) (u : Nat) (x : UnitRecord) (hx : s.unit? u = some x)
    (h : s.link.tags.length < 256) :
    let t := s.suspendToServe d u
    s.link.HandedOver t.link .suspend d u 0 none 0 ∧
    t.dies.get d = { s.dies.get d with state := .suspending, purpose := some .serve } ∧
    t.unit? u = some { x with suspendCount := some (x.suspendCount.getD 0 + 1) } ∧ s.OtherUnits u t ∧ s.OtherDies d t := by
  have unit : ∀ v, (s.suspendToServe d u).unit? v =
      (s.modUnit u (fun r => { r with suspendCount := some (r.suspendCount.getD 0 + 1) })).unit? v := fun v =>
    ((State.handOver_only _ _ _ _ _).unit? v).trans ((State.modDie_only _ d _).unit? v)
  refine ⟨State.handOver_handedOver _ .suspend d u none h, ?_, ?_, fun v hv => ?_, fun y hy => ?_⟩
  · rw [State.suspendToServe, State.handOver_dies, State.modDie_dies, Table.get_modify_self, State.modUnit_dies]
  · rw [unit, State.unit?_modUnit_self, hx]; rfl
  · rw [unit, State.unit?_modUnit_ne _ _ _ _ hv]
  · rw [State.suspendToServe, State.handOver_dies, State.modDie_dies, Table.get_modify_ne _ _ _ _ hy, State.modUnit_dies]

/-- A trigger touches no other die's record. -/
theorem State.trigger_others (s : State) (d : DieId) (o : Bool) : s.OtherDies d (s.trigger d o) := fun x hx => by
  rcases s.trigger_dies d o with same | ⟨st, changed⟩
  · rw [same]
  · rw [changed, Table.get_modify_ne _ _ _ _ hx]

/-- A trigger leaves a die's windows and lapsed flags. -/
theorem State.trigger_windows (s : State) (d : DieId) (o : Bool) :
    ((s.trigger d o).dies.get d).windows = (s.dies.get d).windows ∧ ((s.trigger d o).dies.get d).lapsed = (s.dies.get d).lapsed := by
  rcases s.trigger_dies d o with same | ⟨st, changed⟩
  · rw [same]; exact ⟨rfl, rfl⟩
  · rw [changed, Table.get_modify_self]; exact ⟨rfl, rfl⟩

/-! ## READ_WINDOW -/

theorem DieState.grantsWindow_iff (x : DieState) :
    x.grantsWindow = true ↔ x = .idle ∨ x = .program ∨ x = .suspended ∨ x = .faulted := by
  cases x <;> simp [DieState.grantsWindow]

/-- The answers of READ_WINDOW on a configured die (R125). -/
theorem readWindowRequest_cases (p : MasterId) (r : Request) (s : State) (d : DieId) (hd : s.configuredDie r.windowDie = some d) :
    ((s.dies.get d).windows.get p = .closed → readWindowRequest p r s =
      if (s.dies.get d).state.grantsWindow then r.answer (s.setWindow d p (.opened s.windowTicks)) .granted
      else (s.setWindow d p (.waiting ⟨r.slot, r.tag⟩)).trigger d false) ∧
    ((s.dies.get d).windows.get p ≠ .closed → readWindowRequest p r s = r.answer s .busy) := by
  refine ⟨fun h => ?_, fun h => ?_⟩
  · simp only [readWindowRequest, hd, h]
  · simp only [readWindowRequest, hd]

/-- A master port's request is taken in RUNNING alone (R152). -/
theorem State.Ready.isRunning {s : State} {p : MasterId} {kind : Nat} (h : s.Ready (.master p) kind) : s.isRunning = true := by
  obtain ⟨taken, -⟩ := h
  simp only [State.mayTake, State.mayTakeMaster, Bool.and_eq_true, and_assoc] at taken
  exact taken.1

theorem State.setWindow_die (s : State) (d : DieId) (p : MasterId) (w : Window) : (s.setWindow d p w).dies.get d =
    { s.dies.get d with windows := (s.dies.get d).windows.set p w, lapsed := (s.dies.get d).lapsed.set p false } := Table.get_modify_self _ _ _

theorem State.setWindow_others (s : State) (d : DieId) (p : MasterId) (w : Window) : s.OtherDies d (s.setWindow d p w) :=
  fun _ hx => Table.get_modify_ne _ _ _ _ hx

theorem State.setWindow_only (s : State) (d : DieId) (p : MasterId) (w : Window) : s.Only [.dies] (s.setWindow d p w) := s.modDie_only d _

/-- READ_WINDOW on a configured die, taken (R125). -/
theorem exec_readWindow (s : State) (d : DieId) (p : MasterId) (hr : s.Ready (.master p) kindReadWindow)
    (hq : (s.headRequest (.master p)).byte 6 = d.val) (hd : d.val < s.dieCount) :
    let q := s.headRequest (.master p)
    let m := s.taken (.master p)
    ((s.dies.get d).windows.get p = .closed → exec (.readWindow p) s = .next (
      if (s.dies.get d).state.grantsWindow then q.answer (m.setWindow d p (.opened m.windowTicks)) .granted
      else (m.setWindow d p (.waiting ⟨q.slot, q.tag⟩)).trigger d false)) ∧
    ((s.dies.get d).windows.get p ≠ .closed → exec (.readWindow p) s = .next (q.answer m .busy)) := by
  intro q m
  have run := exec_of_kind s (.master p) kindReadWindow (readWindowRequest p) (.readWindow p) rfl hr
  have found : m.configuredDie q.windowDie = some d := by
    rw [State.taken_configuredDie]; exact s.configuredDie_some d _ hq hd
  obtain ⟨closed, other⟩ := readWindowRequest_cases p q m d found
  rw [show m.dies = s.dies from s.taken_dies _] at closed other
  exact ⟨fun h => run.trans (congrArg _ (closed h)), fun h => run.trans (congrArg _ (other h))⟩

/-- The part with a window WAITING, before the trigger. -/
def State.windowAsked (s : State) (d : DieId) (p : MasterId) : State :=
  (s.taken (.master p)).setWindow d p (.waiting ⟨(s.headRequest (.master p)).slot, (s.headRequest (.master p)).tag⟩)

theorem State.windowAsked_only (s : State) (d : DieId) (p : MasterId) : s.Only [.dies, .masters] (s.windowAsked d p) :=
  ((s.taken_only_master p).mono (by decide)).andThen (State.setWindow_only _ d p _) (gs := [.dies, .masters])

theorem State.windowAsked_die (s : State) (d : DieId) (p : MasterId) : (s.windowAsked d p).dies.get d =
    { s.dies.get d with windows := (s.dies.get d).windows.set p (.waiting ⟨(s.headRequest (.master p)).slot, (s.headRequest (.master p)).tag⟩),
                        lapsed := (s.dies.get d).lapsed.set p false } := by
  rw [State.windowAsked, State.setWindow_die, State.taken_dies]

theorem State.windowAsked_others (s : State) (d : DieId) (p : MasterId) : s.OtherDies d (s.windowAsked d p) := fun x hx => by
  rw [State.windowAsked, State.setWindow_others _ d p _ x hx, State.taken_dies]

/-- A request that is left to wait holds its reply slot, whatever a trigger then does (R125). -/
theorem State.windowAsked_pledged (s : State) (d : DieId) (p : MasterId) : s.Pledged (.master p) ((s.windowAsked d p).trigger d false) := by
  have trigger := (s.windowAsked d p).trigger_only d false
  have asked := (s.taken (.master p)).setWindow_only d p (.waiting ⟨(s.headRequest (.master p)).slot, (s.headRequest (.master p)).tag⟩)
  exact pledged_of_ports s _ _ ((trigger .masters (by decide)).trans (asked .masters (by decide)))
    ((trigger .mport (by decide)).trans (asked .mport (by decide)))

/-- The conditions on a SUSPEND to serve are as they were before the window was asked for (R121). -/
theorem State.windowAsked_maySuspend (s : State) (d : DieId) (p : MasterId) (u : Nat) (x : UnitRecord) (hx : s.unit? u = some x)
    (hr : s.isRunning = true) : (s.windowAsked d p).maySuspend d u = true ↔
      x.suspendCount.getD 0 < s.suspendLimit d ∧ s.urgent d = false ∧ s.plwAsserted = false := by
  have only := s.windowAsked_only d p
  rw [State.maySuspend_iff _ d u x ((only.unit? u).trans hx), only.suspendLimit, only.urgent, only.plwAsserted, only.isRunning]
  simp only [hr, and_true]

/-- Settles O37: the request's answers by the die's state and window, and the grant of all WAITING windows. -/
theorem readWindowOpens : Obligations.ReadWindowOpens := by
  unfold Obligations.ReadWindowOpens
  refine ⟨fun p s hr => ⟨fun d hq hd => ?_, fun hd => ?_⟩, fun d s => ?_⟩
  · obtain ⟨closed, other⟩ := exec_readWindow s d p hr hq hd
    have only := s.windowAsked_only d p
    refine ⟨fun u x hc hs hp hcur hx => ?_, fun hc hg => ?_, fun hc hn => ?_, fun hc => ?_⟩
    · intro may free
      have running : s.isRunning = true := hr.isRunning
      have run : exec (.readWindow p) s = .next ((s.windowAsked d p).trigger d false) := by
        rw [closed hc, hs]; rfl
      have die := s.windowAsked_die d p
      have link : (s.windowAsked d p).link = s.link := only .link (by decide)
      have suspends : (s.windowAsked d p).maySuspend d u = true ↔ may := s.windowAsked_maySuspend d p u x hx running
      have place : (s.windowAsked d p).mayHandOver false = true ↔ free := by rw [State.mayHandOver_iff, link]
      obtain ⟨sends, stays⟩ := (s.windowAsked d p).trigger_cases d u false (by rw [die]; exact hs) (by rw [die]; exact hp)
        (by rw [die]; exact hcur)
      refine ⟨_, run, s.windowAsked_pledged d p, fun hm hf => ?_, fun hm hf => ?_, fun hm => ?_⟩
      · rw [sends (suspends.mpr hm), if_pos (place.mpr hf)]
        obtain ⟨sent, record, unit, units, -⟩ := (s.windowAsked d p).suspendToServe_cases d u x ((only.unit? u).trans hx)
          (State.mayHandOver_tags _ false (place.mpr hf))
        rw [record]
        exact ⟨rfl, rfl, unit, fun v hv => (units v hv).trans (only.unit? v), link ▸ sent⟩
      · rw [sends (suspends.mpr hm), if_neg (place.not.mpr hf)]
        obtain ⟨listed, waits, rest⟩ := (s.windowAsked d p).joinWaiting_waits d
        refine ⟨(rest .units (by decide)).trans (only .units (by decide)), ?_, listed, link ▸ waits⟩
        rw [State.joinWaiting_dies, die]; exact hs
      · rw [stays (suspends.not.mpr hm), die]
        exact ⟨only .units (by decide), hs, link⟩
    · have lifted := (s.taken (.master p)).setWindow_only d p (.opened (s.taken (.master p)).windowTicks)
      have answered := (s.headRequest (.master p)).answer_only_master p rfl
        ((s.taken (.master p)).setWindow d p (.opened (s.taken (.master p)).windowTicks)) .granted [] []
      refine ⟨_, (closed hc).trans (congrArg _ (if_pos ((DieState.grantsWindow_iff _).mpr hg))), ?_, ?_, fun y hy => ?_, ?_⟩
      · exact s.answered _ (.master p) (lifted .masters (by decide)) (lifted .mport (by decide)) .granted [] []
      · rw [answered .dies (by decide), State.setWindow_die, State.taken_dies, State.windowTicks, State.taken_limits]
      · rw [answered .dies (by decide), State.setWindow_others _ d p _ y hy, State.taken_dies]
      · exact (((s.taken_only_master p).mono (by decide)).andThen lifted (gs := [.dies, .masters])).andThen answered
    · have refuses : ¬ (s.dies.get d).state.grantsWindow = true := by
        rcases hn with h | h | h <;> rw [h] <;> decide
      have trigger := (s.windowAsked d p).trigger_only d false
      obtain ⟨windows, lapsed⟩ := (s.windowAsked d p).trigger_windows d false
      refine ⟨(s.windowAsked d p).trigger d false, (closed hc).trans (congrArg _ (if_neg refuses)), s.windowAsked_pledged d p, ?_, ?_,
        fun y hy => ?_, (only.mono (by decide)).andThen trigger (gs := [.units, .dies, .link, .masters])⟩
      · rw [windows, s.windowAsked_die d p]
      · rw [lapsed, s.windowAsked_die d p]
      · rw [State.trigger_others _ d false y hy, s.windowAsked_others d p y hy]
    · exact onlyAnswered_of_exec (other hc)
  · have missing : (s.taken (.master p)).configuredDie (s.headRequest (.master p)).windowDie = none := by
      rw [State.taken_configuredDie]; exact s.configuredDie_none _ hd
    refine onlyAnswered_of_exec ((exec_of_kind s (.master p) kindReadWindow (readWindowRequest p) (.readWindow p) rfl hr).trans
      (congrArg _ ?_))
    simp only [readWindowRequest, missing]
  · intro r hgrants
    obtain ⟨others, self, windows⟩ := s.grantWindows_cases d
    exact ⟨_, if_pos ((DieState.grantsWindow_iff _).mpr hgrants), windows, self, others, s.grantWindows_only d⟩

end Sys2Proof.Machine
end

section
/-!
PROOFS. QUEUE_FILL (R113) and WAITING_DIE_OFFER (R140).
-/

namespace Sys2Proof.Machine

set_option Elab.async false

/-! ## QUEUE_FILL -/

/-- A die record whose open queue takes its first waiting unit, where it has a place (R113). -/
def DieRecord.takeWaiting (entry : Nat → BackgroundEntry) (r : DieRecord) : DieRecord :=
  if r.queue.length < Config.backgroundLimit then
    match r.waiting with
    | [] => r
    | u :: rest => { r with queue := r.queue ++ [entry u], waiting := rest }
  else r

/-- A die record whose queue has taken up to `n` waiting units into its free places (R113). -/
def DieRecord.takes (entry : Nat → BackgroundEntry) (r : DieRecord) (n : Nat) : DieRecord :=
  { r with
    queue := r.queue ++ (r.waiting.take (min n (4 - r.queue.length))).map entry
    waiting := r.waiting.drop (min n (4 - r.queue.length)) }

theorem DieRecord.takes_zero (entry : Nat → BackgroundEntry) (r : DieRecord) : r.takes entry 0 = r := by
  simp [DieRecord.takes]

theorem DieRecord.takes_four (entry : Nat → BackgroundEntry) (r : DieRecord) : r.takes entry 4 = { r with
    queue := r.queue ++ (r.waiting.take (4 - r.queue.length)).map entry, waiting := r.waiting.drop (4 - r.queue.length) } := by
  rw [DieRecord.takes, Nat.min_eq_right (Nat.sub_le _ _)]

theorem DieRecord.takes_succ (entry : Nat → BackgroundEntry) (r : DieRecord) (n : Nat) :
    (r.takes entry n).takeWaiting entry = r.takes entry (n + 1) := by
  have step : ∀ m m' : Nat, m = min n (4 - r.queue.length) → m' = min (n + 1) (4 - r.queue.length) →
      (DieRecord.takeWaiting entry { r with queue := r.queue ++ (r.waiting.take m).map entry, waiting := r.waiting.drop m }) =
      { r with queue := r.queue ++ (r.waiting.take m').map entry, waiting := r.waiting.drop m' } := by
    intro m m' hm hm'
    unfold DieRecord.takeWaiting
    dsimp only
    rcases Nat.lt_or_ge m r.waiting.length with hlt | hge
    · have length : (r.queue ++ (r.waiting.take m).map entry).length = r.queue.length + m := by
        rw [List.length_append, List.length_map, List.length_take, Nat.min_eq_left hlt.le]
      rw [length, List.drop_eq_getElem_cons hlt]
      by_cases hroom : r.queue.length + m < Config.backgroundLimit
      · have next : m' = m + 1 := by unfold Config.backgroundLimit at hroom; omega
        rw [if_pos hroom, next, ← List.take_append_getElem hlt, List.map_append, ← List.append_assoc]
        rfl
      · have full : m' = m := by unfold Config.backgroundLimit at hroom; omega
        rw [if_neg hroom, full, List.drop_eq_getElem_cons hlt]
    · have hge' : r.waiting.length ≤ m' := by omega
      rw [List.drop_eq_nil_of_le hge, List.drop_eq_nil_of_le hge', List.take_of_length_le hge, List.take_of_length_le hge', ite_self]
  exact step _ _ rfl rfl

theorem State.fillOne_die (s : State) (d : DieId) (ho : s.queueOpen d = true) :
    (s.fillOne d).dies.get d = (s.dies.get d).takeWaiting s.backgroundEntry := by
  unfold State.fillOne DieRecord.takeWaiting
  dsimp only
  rw [ho, Bool.true_and]
  by_cases hroom : (s.dies.get d).queue.length < Config.backgroundLimit
  · rw [if_pos (decide_eq_true hroom), if_pos hroom]
    cases hw : (s.dies.get d).waiting with
    | nil => rfl
    | cons u rest => exact Table.get_modify_self _ _ _
  · rw [if_neg (by simpa using hroom), if_neg hroom]

/-- An open queue takes waiting units into all of its free places, the lowest numbers first (R113). -/
theorem State.fillQueue_die (s : State) (d : DieId) (ho : s.queueOpen d = true) :
    (s.fillQueue d).dies.get d = (s.dies.get d).takes s.backgroundEntry 4 := by
  have opened : ∀ t : State, t.queueOpen d = true → (t.fillOne d).queueOpen d = true := fun t ht =>
    ((t.fillOne_change 0 d).queueOpen d).trans ht
  have entries : ∀ t : State, (t.fillOne d).backgroundEntry = t.backgroundEntry := fun t => funext fun u =>
    congrArg (fun x : Option UnitRecord => (⟨if x.map (·.state) = some .erasing then .erase else .check, u⟩ : BackgroundEntry))
      ((t.fillOne_only d).unit? u)
  have o1 := opened s ho
  have o2 := opened _ o1
  have o3 := opened _ o2
  rw [State.fillQueue, State.fillOne_die _ d o3, State.fillOne_die _ d o2, State.fillOne_die _ d o1, State.fillOne_die _ d ho,
    entries, entries, entries, ← DieRecord.takes_zero s.backgroundEntry (s.dies.get d), DieRecord.takes_succ, DieRecord.takes_succ,
    DieRecord.takes_succ, DieRecord.takes_succ, DieRecord.takes_zero]

theorem State.queueOpen_iff (s : State) (d : DieId) :
    s.queueOpen d = true ↔ s.mgmt.device = .running ∧ s.inputs.plwN = .high ∧ (s.dies.get d).state ≠ .faulted := by
  simp only [State.queueOpen, Bool.and_eq_true, Bool.not_eq_true', s.plwAsserted_eq_false, State.isRunning, decide_eq_true_eq, and_assoc]

/-! ## WAITING_DIE_OFFER -/

theorem DieRecord.windowWaiting_iff (r : DieRecord) : r.windowWaiting = true ↔ ∃ p pl, r.windows.get p = .waiting pl := by
  rw [windowWaiting, List.any_eq_true]
  constructor
  · rintro ⟨w, hw, ho⟩
    obtain ⟨p, rfl⟩ := (r.windows.mem_items w).mp hw
    cases h : r.windows.get p with
    | waiting pl => exact ⟨p, pl, h⟩
    | closed => rw [h] at ho; cases ho
    | opened n => rw [h] at ho; cases ho
  · rintro ⟨p, pl, h⟩
    exact ⟨_, (r.windows.mem_items _).mpr ⟨p, h⟩, rfl⟩

/-- The part after the first of the waiting dies has left the list (R140). -/
def State.offered (s : State) (rest : List DieId) : State := { s with link := { s.link with waiting := rest } }

theorem State.offered_only (s : State) (rest : List DieId) : s.Only [.link] (s.offered rest) := s.setLink_only _

theorem State.offered_sameChoices (s : State) (rest : List DieId) : s.SameChoices (s.offered rest) := .of_only (s.offered_only rest)

theorem exec_waitingDieOffer (s : State) (d : DieId) (rest : List DieId) (h : s.link.waiting = d :: rest) :
    (s.link.hasPlace = true → exec .waitingDieOffer s = .next ((s.offered rest).offerDie d)) ∧
    (¬ s.link.hasPlace = true → exec .waitingDieOffer s = .next s) := by
  have run : exec .waitingDieOffer s = if s.link.hasPlace then .next ((s.offered rest).offerDie d) else .next s := by
    simp only [exec, execWaitingDieOffer, h]; rfl
  exact ⟨fun hp => run.trans (if_pos hp), fun hp => run.trans (if_neg hp)⟩

/-- What a die that leaves the list issues, it issues on the shorter list of waiting dies. -/
theorem State.StartsBackground.of_offered {s t : State} {rest : List DieId} {d : DieId} {e : BackgroundEntry}
    (h : (s.offered rest).StartsBackground (s.offered rest).link d e t) : s.StartsBackground { s.link with waiting := rest } d e t := by
  obtain ⟨link, die, others, only⟩ := h
  exact ⟨link, die, others, ((s.offered_only rest).mono (by decide)).andThen only (gs := [.dies, .link])⟩

theorem State.StartsProgram.of_offered {s t : State} {rest : List DieId} {d : DieId} {v : Level} {k : PageKey}
    (h : (s.offered rest).StartsProgram (s.offered rest).link d v k t) : s.StartsProgram { s.link with waiting := rest } d v k t := by
  obtain ⟨link, die, passed, others, only⟩ := h
  refine ⟨link, die, fun m => ?_, others, ((s.offered_only rest).mono (by decide)).andThen only (gs := [.dies, .link])⟩
  rw [passed m, (s.offered_sameChoices rest).oldestEligible d m]
  rfl

/-- An abandonment that is pending hands its SUSPEND over (R128). -/
theorem State.suspendToAbandon_cases (s : State) (d : DieId) (u : Nat) (h : s.link.tags.length < 256) :
    let t := s.suspendToAbandon d u
    s.link.HandedOver t.link .suspend d u 0 none 0 ∧
    t.dies.get d = { s.dies.get d with state := .suspending, purpose := some .abandon } ∧ s.OtherDies d t := by
  refine ⟨State.handOver_handedOver _ .suspend d u none h, ?_, fun y hy => ?_⟩
  · rw [State.suspendToAbandon, State.handOver_dies, State.modDie_dies, Table.get_modify_self]
  · rw [State.suspendToAbandon, State.handOver_dies, State.modDie_dies, Table.get_modify_ne _ _ _ _ hy]

/-- The decision of a die in ERASE (R128, R121, R140). -/
theorem State.offerErase_cases (s : State) (d : DieId) :
    (∀ u, (s.dies.get d).purpose = some .abandon → (s.dies.get d).current = some (.erase u) →
      s.offerErase d = s.suspendToAbandon d u) ∧
    ((s.dies.get d).purpose = none →
      s.offerErase d = if (s.dies.get d).windowWaiting || s.hasEligible d then s.trigger d true else s) := by
  refine ⟨fun u hp hc => ?_, fun hp => ?_⟩
  · simp only [State.offerErase, hp, ((s.dies.get d).erasingUnit_iff u).mpr hc]
  · simp only [State.offerErase, hp]

/-- A die in a state in which it wants nothing takes nothing (R140). -/
theorem State.offerDie_idle_states (s : State) (d : DieId)
    (h : (s.dies.get d).state = .program ∨ (s.dies.get d).state = .suspending ∨ (s.dies.get d).state = .check ∨
      (s.dies.get d).state = .faulted ∨ ((s.dies.get d).state = .suspended ∧ (s.dies.get d).suspendedProgram ≠ none)) :
    s.offerDie d = s := by
  rcases h with h | h | h | h | ⟨h, hp⟩
  · simp only [State.offerDie, h]
  · simp only [State.offerDie, h]
  · simp only [State.offerDie, h]
  · simp only [State.offerDie, h]
  · simp only [State.offerDie, h]
    exact s.serveDie_same d true (.inr (.inr hp))

theorem State.offerDie_cases (s : State) (d : DieId) :
    ((s.dies.get d).state = .idle → s.offerDie d = s.arbitrateDie d true) ∧
    ((s.dies.get d).state = .erase → s.offerDie d = s.offerErase d) ∧
    ((s.dies.get d).state = .suspended → s.offerDie d = s.serveDie d true) := by
  refine ⟨fun h => ?_, fun h => ?_, fun h => ?_⟩ <;> simp only [State.offerDie, h]

/-- A queue is filled where it is open (R113). -/
theorem exec_queueFill (s : State) (d : DieId) :
    (s.queueOpen d = false → exec (.queueFill d) s = .next s) ∧
    (s.queueOpen d = true → ∃ t, exec (.queueFill d) s = .next t ∧
      t.dies.get d = { s.dies.get d with
        queue := (s.dies.get d).queue ++ ((s.dies.get d).waiting.take (4 - (s.dies.get d).queue.length)).map s.backgroundEntry
        waiting := (s.dies.get d).waiting.drop (4 - (s.dies.get d).queue.length) } ∧ s.OtherDies d t ∧ s.Only [.dies] t) :=
  ⟨fun h => congrArg _ (s.fillQueue_closed d h), fun h =>
    ⟨_, rfl, (s.fillQueue_die d h).trans (DieRecord.takes_four _ _), s.fillQueue_others d, s.fillQueue_only d⟩⟩

/-- The SUSPENDED die to which a place is offered (R123, R124). -/
theorem State.serveDie_offered (s : State) (d : DieId) (rest : List DieId) (u : Nat) (hplace : s.link.hasPlace = true)
    (hs : (s.dies.get d).state = .suspended) (hp : (s.dies.get d).purpose = some .serve)
    (hc : (s.dies.get d).current = some (.erase u)) (hn : (s.dies.get d).suspendedProgram = none) :
    let a := s.offered rest
    let l : Link := { s.link with waiting := rest }
    let t := a.serveDie d true
    s.OtherDies d t ∧
    (¬ s.ResumeDue d → ∀ v k, s.grantChoice d = some (v, k) → s.ServesProgram l d (s.dies.get d) v k t ∧ s.Only [.dies, .link] t) ∧
    (s.ResumeDue d → (∀ p n, (s.dies.get d).windows.get p ≠ .opened n) →
      l.Resumes d (s.dies.get d) u t ∧ s.Only [.dies, .link] t) ∧
    (s.ResumeDue d → (∃ p n, (s.dies.get d).windows.get p = .opened n) → t = a) := by
  intro a l t
  have same : s.SameChoices a := s.offered_sameChoices rest
  have due : a.ResumeDue d ↔ s.ResumeDue d := same.resumeDue (s.offered_only rest) d rfl
  have may : a.mayHandOver true = true := a.mayHandOver_offered.trans hplace
  have tags := a.mayHandOver_tags true may
  have only : s.Only [.dies, .link] t := ((s.offered_only rest).mono (by decide)).andThen (a.serveDie_only d true)
  obtain ⟨serves, resumes, stays⟩ := a.serveDie_cases d true hs hp hn
  refine ⟨a.serveDie_others d true, fun hd v k hg => ⟨?_, only⟩, fun hd hw => ⟨?_, only⟩, fun hd hw => ?_⟩
  · have served : t = a.issueSuspended d v k := (serves (due.not.mpr hd) v k ((same.grantChoice d).trans hg)).trans (if_pos may)
    rw [served]
    exact s.issueSuspended_serves a d v k same rfl tags
  · have closed := ((s.dies.get d).windowOpen_eq_false).mpr hw
    have resumed : t = a.resumeErase d u := (resumes (due.mpr hd) closed u hc).trans (if_pos may)
    rw [resumed]
    exact a.resumeErase_cases d u tags
  · exact stays (due.mpr hd) ((s.dies.get d).windowOpen_iff.mpr hw)

/-- The die in ERASE, with no purpose yet, to which a place is offered (R121; log entry 38). -/
theorem State.offerErase_offered (s : State) (d : DieId) (rest : List DieId) (u : Nat) (x : UnitRecord) (hplace : s.link.hasPlace = true)
    (hs : (s.dies.get d).state = .erase) (hp : (s.dies.get d).purpose = none) (hc : (s.dies.get d).current = some (.erase u))
    (hx : s.unit? u = some x) :
    let a := s.offered rest
    let may := x.suspendCount.getD 0 < s.suspendLimit d ∧ s.urgent d = false ∧ s.inputs.plwN = .high ∧ s.mgmt.device = .running ∧
      ((∃ p pl, (s.dies.get d).windows.get p = .waiting pl) ∨ s.grantChoice d ≠ none)
    (may → a.offerErase d = a.suspendToServe d u) ∧ (¬ may → a.offerErase d = a) := by
  intro a may
  have only := s.offered_only rest
  have wanted : ((a.dies.get d).windowWaiting || a.hasEligible d) = true ↔
      (∃ p pl, (s.dies.get d).windows.get p = .waiting pl) ∨ s.grantChoice d ≠ none := by
    rw [Bool.or_eq_true, (s.offered_sameChoices rest).hasEligible, s.hasEligible_iff]
    exact or_congr (DieRecord.windowWaiting_iff _) Iff.rfl
  have allowed : a.maySuspend d u = true ↔
      x.suspendCount.getD 0 < s.suspendLimit d ∧ s.urgent d = false ∧ s.inputs.plwN = .high ∧ s.mgmt.device = .running := by
    rw [a.maySuspend_iff d u x hx, only.suspendLimit, only.urgent, a.plwAsserted_eq_false, State.isRunning, decide_eq_true_eq]
    rfl
  have place : a.mayHandOver true = true := a.mayHandOver_offered.trans hplace
  obtain ⟨sends, stays⟩ := a.trigger_cases d u true hs hp hc
  rw [(a.offerErase_cases d).2 hp]
  refine ⟨fun ⟨count, urgent, plw, running, want⟩ => ?_, fun hm => ?_⟩
  · rw [if_pos (wanted.mpr want), sends (allowed.mpr ⟨count, urgent, plw, running⟩), if_pos place]
  · by_cases hw : ((a.dies.get d).windowWaiting || a.hasEligible d) = true
    · rw [if_pos hw]
      refine stays (fun ha => hm ?_)
      obtain ⟨count, urgent, plw, running⟩ := allowed.mp ha
      exact ⟨count, urgent, plw, running, wanted.mp hw⟩
    · rw [if_neg hw]

/-- Settles O55: the fill of an open queue, the terms that decisions use, and the decision of the die to which a place is offered. -/
theorem queuesTakeWaiting : Obligations.QueuesTakeWaiting := by
  unfold Obligations.QueuesTakeWaiting
  refine ⟨fun d s => exec_queueFill s d, fun d s => ⟨s.queueOpen_iff d, fun c hc => ?_, fun hc => ?_⟩, fun s d rest hw => ?_⟩
  · have config := (s.dieConfig_iff d c).mpr hc
    exact ⟨by rw [State.suspendLimit_eq, config]; rfl, by rw [State.allowance_eq, config]; rfl⟩
  · have config : s.dieConfig d = none := Option.eq_none_iff_forall_ne_some.mpr (fun c h => hc c ((s.dieConfig_iff d c).mp h))
    exact ⟨by rw [State.suspendLimit_eq, config]; rfl, by rw [State.allowance_eq, config]; rfl⟩
  · intro r l answers keeps
    obtain ⟨offers, refuses⟩ := exec_waitingDieOffer s d rest hw
    obtain ⟨idle, erase, suspended⟩ := (s.offered rest).offerDie_cases d
    refine ⟨fun hq ht => ?_, fun hfull => refuses (fun hp => ?_)⟩
    · have place : s.link.hasPlace = true := s.link.hasPlace_iff.mpr ⟨hq, ht⟩
      have may : (s.offered rest).mayHandOver true = true := (s.offered rest).mayHandOver_offered.trans place
      have tags := (s.offered rest).mayHandOver_tags true may
      have same := s.offered_sameChoices rest
      have only := s.offered_only rest
      refine ⟨fun hi => ?_, fun u he hp hc => ?_, fun u x he hp hc hx => ?_, fun u hs hp hc hn => ?_, fun hstate => ?_⟩
      · have run : exec .waitingDieOffer s = .next ((s.offered rest).arbitrateDie d true) := (offers place).trans (congrArg _ (idle hi))
        obtain ⟨background, program, nothing⟩ := (s.offered rest).arbitrateDie_cases d true
        rw [same.grantChoice, only.urgent] at background
        refine ⟨fun e hs hc => ⟨_, run, ?_⟩, fun v k hg hc => ⟨_, run, ?_⟩, fun hs hg => run.trans (congrArg _ (nothing hs ?_))⟩
        · rw [background e hs hc, if_pos may]
          have starts := (s.offered rest).issueBackground_starts d e tags
          exact ⟨starts.of_offered, starts.2.2.1⟩
        · rw [program v k ((same.grantChoice d).trans hg) (by rw [only.urgent]; exact hc), if_pos may]
          have starts := (s.offered rest).issueProgram_starts d v k tags
          exact ⟨starts.of_offered, starts.2.2.2.1⟩
        · exact (same.grantChoice d).trans hg
      · have run := (offers place).trans (congrArg _ ((erase he).trans (((s.offered rest).offerErase_cases d).1 u hp hc)))
        obtain ⟨sent, record, others⟩ := (s.offered rest).suspendToAbandon_cases d u tags
        refine ⟨_, run, ⟨sent, ?_, ?_⟩, others⟩
        · rw [record, ← hp]; rfl
        · exact ((only.mono (by decide)).andThen (State.suspendToAbandon_only _ d u) (gs := [.dies, .link]))
      · intro wants
        obtain ⟨sends, stays⟩ := s.offerErase_offered d rest u x place he hp hc hx
        have run := (offers place).trans (congrArg _ (erase he))
        refine ⟨fun hm => ⟨_, run, ?_⟩, fun hm => run.trans (congrArg _ (stays hm))⟩
        rw [sends hm]
        obtain ⟨sent, record, unit, units, others⟩ := (s.offered rest).suspendToServe_cases d u x hx tags
        exact ⟨⟨sent, record, unit, units, (only.mono (by decide)).andThen (State.suspendToServe_only _ d u) (gs := [.units, .dies, .link])⟩,
          others⟩
      · obtain ⟨others, serves, resumes, stays⟩ := s.serveDie_offered d rest u place hs hp hc hn
        have run := (offers place).trans (congrArg _ (suspended hs))
        exact ⟨fun hd v k hg => ⟨_, run, serves hd v k hg, others⟩, fun hd hwin => ⟨_, run, resumes hd hwin, others⟩,
          fun hd hwin => run.trans (congrArg _ (stays hd hwin))⟩
      · exact (offers place).trans (congrArg _ ((s.offered rest).offerDie_idle_states d hstate))
    · obtain ⟨hq, ht⟩ := s.link.hasPlace_iff.mp hp
      omega

end Sys2Proof.Machine
end

section
/-!
PROOFS. SUSPEND_ANSWER (R122, R125, R128) and RESUME_ANSWER (R124).
-/

namespace Sys2Proof.Machine

set_option Elab.async false

/-! ## The erase that is held -/

/-- With no window WAITING on the die, there is none to grant (R125). -/
theorem State.grantWindows_none (s : State) (d : DieId) (h : ∀ p pl, (s.dies.get d).windows.get p ≠ .waiting pl) : s.grantWindows d = s := by
  have fixed : ∀ p, s.grantWindow d p = s := fun p => by
    rcases s.grantWindow_cases d p with ⟨-, same, -⟩ | ⟨pl, hw, -⟩
    · exact same
    · exact absurd hw (h p pl)
  exact List.foldl_fixed' fixed _

/-- A die record once the suspension of its erase has taken hold (R122). -/
def DieRecord.held (r : DieRecord) : DieRecord :=
  { r with state := .suspended, heldErase := r.opTimer, opTimer := none, programs := some 0 }

/-- The part with the erase of a die held and the die's windows granted, before the die serves (R122, R125). -/
def State.eraseHeld (s : State) (d : DieId) : State := (s.modDie d DieRecord.held).grantWindows d

theorem State.holdErase_eq (s : State) (d : DieId) : s.holdErase d = (s.eraseHeld d).serveSuspended := rfl

theorem State.eraseHeld_only (s : State) (d : DieId) : s.Only [.dies, .masters] (s.eraseHeld d) :=
  ((s.modDie_only d _).mono (by decide)).andThen (State.grantWindows_only _ d) (gs := [.dies, .masters])

theorem State.eraseHeld_die (s : State) (d : DieId) : (s.eraseHeld d).dies.get d =
    { (s.dies.get d).held with windows := (s.dies.get d).windows.map (Window.granted s.windowTicks) } := by
  rw [State.eraseHeld, State.grantWindows_die, State.modDie_dies, Table.get_modify_self]; rfl

theorem State.eraseHeld_others (s : State) (d : DieId) : s.OtherDies d (s.eraseHeld d) := fun x hx => by
  rw [State.eraseHeld, State.grantWindows_others _ d x hx, State.modDie_dies, Table.get_modify_ne _ _ _ _ hx]

theorem State.eraseHeld_sameChoices (s : State) (d : DieId) : s.SameChoices (s.eraseHeld d) := by
  have die := s.eraseHeld_die d
  have only := s.eraseHeld_only d
  have field : ∀ {α : Type} (f : DieRecord → α), f ((s.eraseHeld d).dies.get d) = f (s.dies.get d) →
      ∀ x, f ((s.eraseHeld d).dies.get x) = f (s.dies.get x) := by
    intro α f hf x
    by_cases hx : x = d
    · rw [hx]; exact hf
    · rw [s.eraseHeld_others d x hx]
  exact ⟨field _ (by rw [die]; rfl), field _ (by rw [die]; rfl), field _ (by rw [die]; rfl), field _ (by rw [die]; rfl),
    only .pool (by decide), by rw [show (s.eraseHeld d).mgmt = s.mgmt from only .mgmt (by decide)]⟩

/-- The die whose erase is held is alone SUSPENDED, where none was before, and serves alone (R123, R124). -/
theorem State.holdErase_serves (s : State) (d : DieId) (h : s.NoneSuspended) : s.holdErase d = (s.eraseHeld d).serveDie d false := by
  refine (s.eraseHeld d).serveSuspended_one d (by rw [s.eraseHeld_die d]; rfl) (fun x hx => ?_)
  by_contra hne
  rw [s.eraseHeld_others d x hne] at hx
  exact h x hx

theorem State.holdErase_others (s : State) (d : DieId) (h : s.NoneSuspended) : s.OtherDies d (s.holdErase d) := fun x hx => by
  rw [s.holdErase_serves d h, State.serveDie_others _ d false x hx, s.eraseHeld_others d x hx]

theorem State.holdErase_only (s : State) (d : DieId) : s.Only [.dies, .link, .masters] (s.holdErase d) :=
  ((s.eraseHeld_only d).mono (by decide)).andThen (State.serveSuspended_only _) (gs := [.dies, .link, .masters])

/-- A SUSPENDED die that decides keeps the erase that is held on it (R123, R124). -/
theorem State.serveDie_current (s : State) (d : DieId) (o : Bool) :
    ((s.serveDie d o).dies.get d).current = (s.dies.get d).current := by
  unfold State.serveDie
  dsimp only
  split
  · split
    · split
      · rfl
      · split
        · rw [State.issueSuspended, State.modDie_dies, Table.get_modify_self, State.issuePage_die]
        · rw [State.joinWaiting_dies]
    · split
      · split
        · rfl
        · split
          · rw [State.resumeErase, State.handOver_dies, State.modDie_dies, Table.get_modify_self]
          · rw [State.joinWaiting_dies]
      · rfl
  · rfl

/-- A WAITING window is granted as the erase is held, and keeps the die SUSPENDED (R122, R125). -/
theorem State.holdErase_window (s : State) (d : DieId) (h : s.NoneSuspended) (hw : ∃ p pl, (s.dies.get d).windows.get p = .waiting pl) :
    let t := s.holdErase d
    (t.dies.get d).state = .suspended ∧ (t.dies.get d).heldErase = (s.dies.get d).opTimer ∧
    (t.dies.get d).current = (s.dies.get d).current ∧
    ∀ p, (t.dies.get d).windows.get p = Window.granted s.windowTicks ((s.dies.get d).windows.get p) := by
  intro t
  have die := s.eraseHeld_die d
  have suspended : ((s.eraseHeld d).dies.get d).state = .suspended := by rw [die]; rfl
  have windowOpen : ((s.eraseHeld d).dies.get d).windowOpen = true := by
    obtain ⟨p, pl, hp⟩ := hw
    refine (DieRecord.windowOpen_iff _).mpr ⟨p, s.windowTicks, ?_⟩
    rw [die]
    show ((s.dies.get d).windows.map _).get p = _
    rw [Table.get_map, hp]; rfl
  have served : t = (s.eraseHeld d).serveDie d false := s.holdErase_serves d h
  obtain ⟨state, held⟩ := (s.eraseHeld d).serveDie_held d false suspended windowOpen
  have current := (s.eraseHeld d).serveDie_current d false
  rw [served]
  refine ⟨state, held.trans (by rw [die]; rfl), current.trans (by rw [die]; rfl), fun p => ?_⟩
  rw [((s.eraseHeld d).serveDie_windows d false d).1, die]
  show ((s.dies.get d).windows.map _).get p = _
  rw [Table.get_map]

/-- The die of a held erase issues the program that is chosen (R123). -/
theorem State.holdErase_program (s : State) (d : DieId) (v : Level) (k : PageKey) (h : s.NoneSuspended)
    (hp : (s.dies.get d).purpose = some .serve) (hn : (s.dies.get d).suspendedProgram = none) (hm : s.mayHandOver false = true)
    (hg : s.grantChoice d = some (v, k)) (hall : 0 < s.allowance d) (hu : s.urgent d = false) (hr : s.isRunning = true) :
    s.ServesProgram s.link d ((s.eraseHeld d).dies.get d) v k (s.holdErase d) := by
  have die := s.eraseHeld_die d
  have only := s.eraseHeld_only d
  have same := s.eraseHeld_sameChoices d
  have link : (s.eraseHeld d).link = s.link := only .link (by decide)
  have may : (s.eraseHeld d).mayHandOver false = true := by rw [State.mayHandOver, link]; exact hm
  have notDue : ¬ (s.eraseHeld d).ResumeDue d := by
    rw [State.ResumeDue, only.allowance, only.urgent, same.grantChoice, hg, hu, die,
      show (s.eraseHeld d).mgmt = s.mgmt from only .mgmt (by decide)]
    simp only [DieRecord.held, Option.getD_some, reduceCtorEq, Bool.false_eq_true, false_or, not_or, Nat.not_le, Decidable.not_not]
    exact ⟨hall, of_decide_eq_true hr⟩
  obtain ⟨serves, -, -⟩ := (s.eraseHeld d).serveDie_cases d false (by rw [die]; rfl) (by rw [die]; exact hp) (by rw [die]; exact hn)
  rw [s.holdErase_serves d h, serves notDue v k ((same.grantChoice d).trans hg), if_pos may, ← link]
  exact s.issueSuspended_serves _ d v k same (only .limits (by decide)) (State.mayHandOver_tags _ false may)

/-- The die of a held erase that has nothing to serve resumes it at once (R124). -/
theorem State.holdErase_resumes (s : State) (d : DieId) (u : Nat) (h : s.NoneSuspended)
    (hp : (s.dies.get d).purpose = some .serve) (hn : (s.dies.get d).suspendedProgram = none) (hm : s.mayHandOver false = true)
    (hg : s.grantChoice d = none) (hc : (s.dies.get d).current = some (.erase u)) (hw : ∀ p, (s.dies.get d).windows.get p = .closed) :
    s.link.HandedOver (s.holdErase d).link .resume d u 0 none 0 ∧
    (s.holdErase d).dies.get d = { s.dies.get d with state := .erase, purpose := none, programs := none, heldErase := none } ∧
    s.Only [.dies, .link] (s.holdErase d) := by
  have ungranted : s.eraseHeld d = s.modDie d DieRecord.held :=
    State.grantWindows_none _ d (fun p pl hpl => by
      rw [State.modDie_dies, Table.get_modify_self] at hpl
      exact nomatch (hw p).symm.trans hpl)
  have die : (s.eraseHeld d).dies.get d = (s.dies.get d).held := by rw [ungranted]; exact Table.get_modify_self _ _ _
  have link : (s.eraseHeld d).link = s.link := s.eraseHeld_only d .link (by decide)
  have may : (s.eraseHeld d).mayHandOver false = true := by rw [State.mayHandOver, link]; exact hm
  have due : (s.eraseHeld d).ResumeDue d := .inr (.inl (((s.eraseHeld_sameChoices d).grantChoice d).trans hg))
  have noWindow : ((s.eraseHeld d).dies.get d).windowOpen = false := by
    refine (DieRecord.windowOpen_eq_false _).mpr (fun p n hpn => ?_)
    rw [die] at hpn
    exact nomatch (hw p).symm.trans hpn
  obtain ⟨-, resumes, -⟩ := (s.eraseHeld d).serveDie_cases d false (by rw [die]; rfl) (by rw [die]; exact hp) (by rw [die]; exact hn)
  have resumed : s.holdErase d = (s.eraseHeld d).resumeErase d u := by
    rw [s.holdErase_serves d h, resumes due noWindow u (by rw [die]; exact hc), if_pos may]
  obtain ⟨sent, record⟩ := (s.eraseHeld d).resumeErase_cases d u (State.mayHandOver_tags _ false may)
  rw [resumed, ← link]
  refine ⟨sent, record.trans (by rw [die]; rfl), ?_⟩
  rw [ungranted]
  exact ((s.modDie_only d _).mono (by decide)).andThen (State.resumeErase_only _ d u) (gs := [.dies, .link])

/-! ## The erase that is abandoned -/

/-- The die of an abandoned erase is IDLE, its unit UNKNOWN and its tags released, before the unit is handed over (R128, R146). -/
theorem State.eraseDropped_cases (s : State) (d : DieId) (u : Nat) (x : UnitRecord) (hn : (s.dies.get d).suspendedProgram = none)
    (hx : s.unit? u = some x) (he : x.state = .erasing) :
    let b := s.eraseDropped d u
    b.unit? u = some { x with state := .unknown, suspendCount := none } ∧ s.OtherUnits u b ∧
    (b.dies.get d).state = .idle ∧ (b.dies.get d).current = none ∧ (b.dies.get d).heldErase = none ∧
    b.link = s.link.releaseErase d u := by
  intro b
  have unit : ∀ v, b.unit? v = (s.modUnit u UnitRecord.toUnknown).unit? v := fun v => (State.dieAfterErase_only _ d).unit? v
  obtain ⟨state, current, -, held, -⟩ :=
    State.dieAfterErase_idle { s.modUnit u UnitRecord.toUnknown with link := s.link.releaseErase d u } d hn
  refine ⟨?_, fun v hv => (unit v).trans (s.unit?_modUnit_ne u v _ hv), state, current, held, State.dieAfterErase_only _ d .link (by decide)⟩
  rw [unit, State.unit?_modUnit_self, hx]
  simp [UnitRecord.toUnknown, he]

/-- An erase that is abandoned at an answer leaves its unit UNKNOWN and its die IDLE (R122, R128). -/
theorem State.abandonErase_idle (s : State) (d : DieId) (u : Nat) (x : UnitRecord) (hc : (s.dies.get d).current = some (.erase u))
    (hn : (s.dies.get d).suspendedProgram = none) (hx : s.unit? u = some x) (he : x.state = .erasing) :
    let t := s.abandonErase d
    t.unit? u = some { x with state := .unknown, suspendCount := none } ∧ s.OtherUnits u t ∧
    (t.dies.get d).state = .idle ∧ (t.dies.get d).current = none ∧ (t.dies.get d).heldErase = none ∧
    t.link = s.link.releaseErase d u := by
  have erasing := ((s.dies.get d).erasingUnit_iff u).mpr hc
  have handed : s.abandonErase d = ((s.eraseDropped d u).handBackground u).reportCounts u := by
    simp only [State.abandonErase, erasing]; rfl
  obtain ⟨unknown, units, state, current, held, link⟩ := s.eraseDropped_cases d u x hn hx he
  rw [handed]
  generalize s.eraseDropped d u = b at unknown units state current held link
  have change := (b.handBackground_change u).trans (State.reportCounts_change _ u u)
  refine ⟨?_, fun v hv => (change.others v hv).trans (units v hv), ?_, ?_, ?_, (change.only .link (by decide)).trans link⟩
  · rw [(State.reportCounts_only _ u).unit?, State.handBackground_unit, unknown]
    split <;> rfl
  · rw [change.dies d]; exact state
  · rw [change.dies d]; exact current
  · rw [change.dies d]; exact held

theorem Link.foldl_release_lastFail (own : List Byte) (l : Link) : (own.foldl Link.release l).lastFail = l.lastFail := by
  induction own generalizing l with
  | nil => rfl
  | cons t own ih => exact ih _

theorem Link.releaseErase_lastFail (l : Link) (d : DieId) (u : Nat) : (l.releaseErase d u).lastFail = l.lastFail :=
  Link.foldl_release_lastFail _ l

theorem Link.releaseErase_tag (l : Link) (d : DieId) (u : Nat) (t : Byte) (h : ∀ x ∈ l.tags, x.tag ≠ t) :
    ∀ y ∈ (l.releaseErase d u).tags, y.tag ≠ t := fun y hy => by
  obtain ⟨x, hx, tag, -⟩ := l.releaseErase_keeps d u y hy
  rw [tag]; exact h x hx

/-! ## The answer to a SUSPEND -/

/-- A completion that is matched and is no FAIL releases its tag, and nothing else (R144). -/
theorem State.takeMatched_released (s : State) (c : Completion) (e : TagEntry) (hn : s.Names c e) (hc : c.kind ≠ 1) :
    (s.takeMatched c e).link = { s.link with
      tags := s.link.tags.filter (fun y => decide (y.tag ≠ c.tag))
      queue := s.link.queue.filter (fun y => decide (y.tag ≠ c.tag)) } := by
  simp only [State.takeMatched, if_neg hc, hn.tag]; rfl

theorem exec_suspendAnswer (c : Completion) (s : State) (e : TagEntry) (hn : s.Names c e) (hk : e.kind = .suspend)
    (he : e.ended = false) (hc : c.kind = 0 ∨ c.kind = 1 ∨ c.kind = 2) :
    exec (.suspendAnswer c) s = .next ((s.takeMatched c e).takeSuspend e.die c.kind.toNat) := by
  have taken := s.onCompletion_names c e .suspend [doneCode, failCode, suspendedCode]
    (fun e s => if e.ended then s else s.takeSuspend e.die c.kind.toNat) hn hk (by rcases hc with h | h | h <;> rw [h] <;> rfl)
    (by rcases hc with h | h | h <;> rw [h] <;> simp [doneCode, failCode, suspendedCode])
  refine taken.trans (congrArg _ (if_neg ?_))
  rw [he]; decide

/-- The answers to a SUSPEND in SUSPENDING (R122). -/
theorem State.takeSuspend_cases (s : State) (d : DieId) (hs : (s.dies.get d).state = .suspending) :
    s.takeSuspend d 0 = s ∧
    s.takeSuspend d 1 = s.modDie d (fun r => { r with state := .erase, purpose := none }) ∧
    s.takeSuspend d 2 = if (s.dies.get d).purpose = some .serve ∧ s.plwAsserted = false then s.holdErase d else s.abandonErase d := by
  refine ⟨?_, ?_, ?_⟩ <;> rw [State.takeSuspend, if_pos hs]
  · rfl
  · rfl
  · rfl

/-- A place is free as the answer is taken, since its own tag is released (R138, R144). -/
theorem State.takeMatched_mayHandOver (s : State) (c : Completion) (e : TagEntry) (hn : s.Names c e) (hc : c.kind ≠ 1)
    (hq : s.link.queue.length < 32) (ht : s.link.tags.length ≤ 32) (hw : s.link.waiting = []) :
    (s.takeMatched c e).mayHandOver false = true := by
  rw [State.mayHandOver_iff, s.takeMatched_released c e hn hc]
  exact ⟨(List.length_filter_le _ _).trans_lt hq, hn.tags_lt.trans_le ht, hw⟩

/-! ## The answer to a RESUME -/

theorem exec_resumeAnswer (c : Completion) (s : State) (e : TagEntry) (hn : s.Names c e) (hk : e.kind = .resume)
    (hc : c.kind = 0 ∨ c.kind = 1) :
    exec (.resumeAnswer c) s = .next (if e.ended = false ∧ c.kind.toNat = failCode then
      (s.takeMatched c e).endErase e.die e.unit false (fun l => l.releaseErase e.die e.unit) else s.takeMatched c e) :=
  s.onCompletion_names c e .resume [doneCode, failCode] (fun e s => if e.ended = false ∧ c.kind.toNat = failCode then
      s.endErase e.die e.unit false (fun l => l.releaseErase e.die e.unit) else s) hn hk (by rcases hc with h | h <;> rw [h] <;> rfl)
    (by rcases hc with h | h <;> rw [h] <;> simp [doneCode, failCode])

/-- A failed resumption ends its erase as failed (R124). -/
theorem State.endErase_failed (s : State) (d : DieId) (u : Nat) (x : UnitRecord) (hx : s.unit? u = some x) (h : s.NoneSuspended)
    (hn : (s.dies.get d).suspendedProgram = none) :
    let t := s.endErase d u false (fun l => l.releaseErase d u)
    t.unitState u = some .retired ∧ s.OtherUnits u t ∧ (t.dies.get d).state = .idle ∧ (t.dies.get d).current = none ∧
    t.link = s.link.releaseErase d u ∧ t.freeLists = s.freeLists ∧ s.Only [.units, .streams, .groups, .dies, .link, .masters] t := by
  intro t
  let a : State := { s with link := s.link.releaseErase d u }
  have only : s.Only [.dies, .link, .masters] (a.dieAfterErase d) :=
    ((s.setLink_only _).mono (by decide)).andThen (State.dieAfterErase_only a d) (gs := [.dies, .link, .masters])
  obtain ⟨state, current, -, -, -, others⟩ := a.dieAfterErase_idle d hn
  have link : (a.dieAfterErase d).link = s.link.releaseErase d u := a.dieAfterErase_only d .link (by decide)
  have eq : t = (((a.dieAfterErase d).eraseOutcome u false).examineFreed u).serveSuspended := rfl
  have others : ∀ y, y ≠ d → (a.dieAfterErase d).dies.get y = s.dies.get y := others
  generalize a.dieAfterErase d = b at only state current link eq others
  have bx : b.unit? u = some x := (only.unit? u).trans hx
  have change : b.UnitChange u (b.enterRetired u) := b.enterRetired_change u
  have retired : (b.enterRetired u).unitState u = some .retired := by
    rw [State.unitState, b.enterRetired_unit u x bx]; rfl
  have none : (b.enterRetired u).NoneSuspended := fun y => by
    rw [change.dies y]
    by_cases hy : y = d
    · rw [hy]; show (b.dies.get d).state ≠ _; rw [state]; decide
    · show (b.dies.get y).state ≠ _; rw [others y hy]; exact h y
  rw [(b.eraseOutcome_cases u x bx).2, State.examineFreed_other _ u (by rw [retired]; decide), State.serveSuspended_none _ none] at eq
  rw [eq]
  refine ⟨retired, fun v hv => (change.others v hv).trans (only.unit? v), ?_, ?_, (change.only .link (by decide)).trans link,
    (change.only .freeLists (by decide)).trans (only .freeLists (by decide)), (only.mono (by decide)).andThen change.only⟩
  · rw [change.dies d]; exact state
  · rw [change.dies d]; exact current

/-- Settles O60: SUSPEND_ANSWER by its kind and purpose, and RESUME_ANSWER by its kind. -/
theorem suspensionAnswersDecide : Obligations.SuspensionAnswersDecide := by
  unfold Obligations.SuspensionAnswersDecide
  refine ⟨fun c s e hn hk hended hstate hnone => ?_, fun c s e hn hk => ⟨fun hc => ?_, fun x hc hended hx hnone hsus => ?_⟩⟩
  · intro r
    have run := exec_suspendAnswer c s e hn hk hended
    have only : s.Only [.link] (s.takeMatched c e) := s.takeMatched_only c e
    have dies : (s.takeMatched c e).dies = s.dies := only .dies (by decide)
    have tags : ∀ y ∈ (s.takeMatched c e).link.tags, y.tag ≠ c.tag := hn.tag ▸ s.takeMatched_tags c e
    have released := s.takeMatched_released c e hn
    have mayHandOver := s.takeMatched_mayHandOver c e hn
    have same : s.SameChoices (s.takeMatched c e) := .of_only only
    generalize s.takeMatched c e = a at run only dies tags released mayHandOver same
    obtain ⟨onDone, onFail, onSuspended⟩ := a.takeSuspend_cases e.die (by rw [dies]; exact hstate)
    have idle : a.NoneSuspended := by rw [State.NoneSuspended, dies]; exact hnone
    have ticks : a.windowTicks = max 1 s.limits.window := by rw [State.windowTicks, only .limits (by decide)]
    have suspended : c.kind = 2 → exec (.suspendAnswer c) s = .next (a.takeSuspend e.die 2) := fun hc => by
      rw [run (.inr (.inr hc)), hc]; rfl
    refine ⟨fun hc => ⟨a, ?_, dies, tags, only⟩, fun hc => ⟨a.modDie e.die (fun r => { r with state := .erase, purpose := none }), ?_, ?_,
      fun x hx => ?_, tags, (only.mono (by decide)).andThen (State.modDie_only _ _ _) (gs := [.dies, .link])⟩,
      fun hc hp hplw hw => ⟨a.holdErase e.die, ?_, ?_⟩, ?_, fun u x hc hp hcur hsus hx he => ⟨a.abandonErase e.die, ?_, ?_⟩⟩
    · rw [run (.inl hc), hc]; exact congrArg _ onDone
    · rw [run (.inr (.inl hc)), hc]; exact congrArg _ onFail
    · rw [State.modDie_dies, Table.get_modify_self, dies]
    · rw [State.modDie_dies, Table.get_modify_ne _ _ _ _ hx, dies]
    · rw [suspended hc, onSuspended, if_pos]
      exact ⟨by rw [dies]; exact hp, only.plwAsserted.trans hplw⟩
    · obtain ⟨state, held, current, windows⟩ := a.holdErase_window e.die idle (by rw [dies]; exact hw)
      rw [dies] at held current windows
      refine ⟨state, held, current, fun p => ?_, fun d hd => ?_,
        (only.mono (by decide)).andThen (a.holdErase_only e.die) (gs := [.dies, .link, .masters])⟩
      · rw [windows p, ticks]; rfl
      · rw [a.holdErase_others e.die idle d hd, dies]
    · intro l hc hp hplw hsus hq ht hw
      have link : a.link = l := released (by rw [hc]; decide)
      have may := mayHandOver (by rw [hc]; decide) hq ht hw
      have exec_held : exec (.suspendAnswer c) s = .next (a.holdErase e.die) := by
        rw [suspended hc, onSuspended, if_pos]
        exact ⟨by rw [dies]; exact hp, only.plwAsserted.trans hplw⟩
      refine ⟨fun v k hg hall hu hr => ⟨_, exec_held, ?_⟩, fun u hg hcur hclosed => ⟨_, exec_held, ?_⟩⟩
      · obtain ⟨sent, record, -⟩ := a.holdErase_program e.die v k idle (by rw [dies]; exact hp) (by rw [dies]; exact hsus) may
          ((same.grantChoice _).trans hg) (by rw [only.allowance]; exact hall) (by rw [only.urgent]; exact hu) (only.isRunning.trans hr)
        rw [a.eraseHeld_die, dies] at record
        rw [link, same.blockOf, same.handleOf] at sent
        refine ⟨?_, ?_, ?_, ?_, ?_, ?_, ?_, sent, fun d hd => ?_,
          (only.mono (by decide)).andThen (a.holdErase_only e.die) (gs := [.dies, .link, .masters])⟩
        · rw [record]; rfl
        · rw [record]; rfl
        · rw [record]
        · rw [record]; rfl
        · rw [record]; rfl
        · rw [record, show a.limits = s.limits from only .limits (by decide)]
        · rw [record]; rfl
        · rw [a.holdErase_others e.die idle d hd, dies]
      · obtain ⟨sent, record, change⟩ := a.holdErase_resumes e.die u idle (by rw [dies]; exact hp) (by rw [dies]; exact hsus) may
          ((same.grantChoice _).trans hg) (by rw [dies]; exact hcur) (by rw [dies]; exact hclosed)
        rw [dies] at record
        refine ⟨record, link ▸ sent, fun d hd => ?_, (only.mono (by decide)).andThen change (gs := [.dies, .link])⟩
        rw [a.holdErase_others e.die idle d hd, dies]
    · rw [suspended hc, onSuspended, if_neg]
      rintro ⟨serve, plw⟩
      rw [dies] at serve
      rcases hp with hp | hp
      · exact nomatch hp.symm.trans serve
      · exact nomatch hp.symm.trans (only.plwAsserted.symm.trans plw)
    · obtain ⟨unit, units, state, current, held, link⟩ := a.abandonErase_idle e.die u x (by rw [dies]; exact hcur)
        (by rw [dies]; exact hsus) ((only.unit? u).trans hx) he
      rw [link]
      exact ⟨unit, fun v hv => (units v hv).trans (only.unit? v), state, current, held, Link.releaseErase_tag _ _ _ _ tags,
        fun y hy ⟨hd, hu, hkind⟩ => Link.releaseErase_erase _ _ _ y hy hd hu hkind,
        (only.mono (by decide)).andThen (a.abandonErase_only e.die) (gs := [.units, .groups, .dies, .link, .masters])⟩
  · refine ⟨s.takeMatched c e, ?_, s.takeMatched_only c e, s.takeMatched_done c e hn hc⟩
    rw [exec_resumeAnswer c s e hn hk (.inl hc), if_neg (by rw [hc]; exact fun h => nomatch h.2)]
  · have only : s.Only [.link] (s.takeMatched c e) := s.takeMatched_only c e
    have dies : (s.takeMatched c e).dies = s.dies := only .dies (by decide)
    have tags : ∀ y ∈ (s.takeMatched c e).link.tags, y.tag ≠ c.tag := hn.tag ▸ s.takeMatched_tags c e
    have failed : (s.takeMatched c e).link.lastFail = s.link.lastFail.set e.die (some (e.kind, failCauseOf c)) := by
      rw [s.takeMatched_failed c e hn hc]
    have run := exec_resumeAnswer c s e hn hk (.inr hc)
    rw [if_pos ⟨hended, by rw [hc]; rfl⟩] at run
    generalize s.takeMatched c e = a at only dies tags failed run
    obtain ⟨retired, units, state, current, link, lists, change⟩ := a.endErase_failed e.die e.unit x ((only.unit? _).trans hx)
      (by rw [State.NoneSuspended, dies]; exact hnone) (by rw [dies]; exact hsus)
    refine ⟨_, run, retired, fun v hv => (units v hv).trans (only.unit? v), state, current, ?_, ?_, ?_,
      lists.trans (only .freeLists (by decide)), (only.mono (by decide)).andThen change⟩
    · rw [link]; exact Link.releaseErase_tag _ _ _ _ tags
    · rw [link]; exact fun y hy ⟨hd, hu, hkind⟩ => Link.releaseErase_erase _ _ _ y hy hd hu hkind
    · rw [link, Link.releaseErase_lastFail, failed, hk]; rfl

end Sys2Proof.Machine
end

section
/-!
PROOFS. What R59 does for the units of a faulted die: what the turn of one unit leaves of the other units, their pages and their slots, and of
the dies whose background queues are closed.
-/

namespace Sys2Proof.Machine

set_option Elab.async false

/-! ## Dies whose background queue is closed -/

/-- A background queue that is closed stays closed as it is, and no unit that waits there leaves (R113). -/
def State.KeepsClosed (s t : State) : Prop :=
  ∀ d, s.queueOpen d = false → t.queueOpen d = false ∧ (t.dies.get d).queue = (s.dies.get d).queue ∧
    (s.dies.get d).waiting ⊆ (t.dies.get d).waiting

theorem State.KeepsClosed.refl (s : State) : s.KeepsClosed s := fun _ h => ⟨h, rfl, List.Subset.refl _⟩

theorem State.KeepsClosed.trans {s t v : State} (h : s.KeepsClosed t) (k : t.KeepsClosed v) : s.KeepsClosed v := fun d closed => by
  obtain ⟨still, queue, waiting⟩ := h d closed
  obtain ⟨after, queue', waiting'⟩ := k d still
  exact ⟨after, queue'.trans queue, List.Subset.trans waiting waiting'⟩

theorem State.Only.keepsClosed {s t : State} {fs : List Field} (h : s.Only fs t)
    (hf : .dies ∉ fs ∧ .mgmt ∉ fs ∧ .inputs ∉ fs := by decide) : s.KeepsClosed t := fun d closed => by
  obtain ⟨dies, mgmt, inputs⟩ := hf
  have same : t.dies = s.dies := h .dies dies
  refine ⟨?_, by rw [same], by rw [same]; exact List.Subset.refl _⟩
  rw [← closed]
  simp only [State.queueOpen, State.isRunning, State.plwAsserted, same, show t.mgmt = s.mgmt from h .mgmt mgmt,
    show t.inputs = s.inputs from h .inputs inputs]

/-- A unit that is handed over while its queue is closed joins the waiting units, and the other dies stay (R113). -/
theorem State.handBackground_keepsClosed (s : State) (u : Nat) : s.KeepsClosed (s.handBackground u) := fun d closed => by
  refine ⟨((s.handBackground_change u).queueOpen d).trans closed, ?_⟩
  by_cases hd : d = s.dieOf u
  · subst hd
    rw [s.handBackground_closed u closed]
    exact ⟨rfl, fun v hv => (mem_insertNat u v _).mpr (.inr hv)⟩
  · have other : (s.handBackground u).dies.get d = s.dies.get d := by
      have handed : ∀ m : State, m.dies = s.dies → m.dieOf u = s.dieOf u →
          (((m.fillQueue (m.dieOf u)).addWaiting u).fillQueue (m.dieOf u)).dies.get d = s.dies.get d := fun m dies die => by
        have hm : d ≠ m.dieOf u := die ▸ hd
        have filled : (m.fillQueue (m.dieOf u)).dieOf u = m.dieOf u := (m.fillQueue_only _).dieOf u
        rw [State.fillQueue_others _ _ d hm, State.addWaiting, State.modDie_dies, filled, Table.get_modify_ne _ _ _ _ hm,
          State.fillQueue_others _ _ d hm, dies]
      unfold State.handBackground; dsimp only; split
      · exact handed _ rfl rfl
      · exact handed _ rfl rfl
    rw [other]
    exact ⟨rfl, List.Subset.refl _⟩

theorem State.leaveForErase_keepsClosed (s : State) (u : Nat) : s.KeepsClosed (s.leaveForErase u) := by
  unfold State.leaveForErase; split
  · exact .refl s
  · split
    · exact (s.enterRetired_only u).keepsClosed
    · exact (((s.leaveYoung_only u).keepsClosed.trans (State.modUnit_only _ u _).keepsClosed).trans
        (State.handBackground_keepsClosed _ u)).trans (State.reportCounts_only _ u).keepsClosed

theorem State.checkEmpty_keepsClosed (s : State) (u : Nat) : s.KeepsClosed (s.checkEmpty u) := by
  unfold State.checkEmpty; split
  · exact .refl s
  · split
    · exact s.leaveForErase_keepsClosed u
    · exact .refl s

theorem State.failUnit_keepsClosed (s : State) (u p : Nat) : s.KeepsClosed (s.failUnit u p) :=
  ((s.modUnit_only u _).keepsClosed.trans (State.wakeUnit_only _ u).keepsClosed).trans (State.checkEmpty_keepsClosed _ u)

theorem State.sealUnit_keepsClosed (s : State) (u : Nat) : s.KeepsClosed (s.sealUnit u) := by
  unfold State.sealUnit; split
  · exact .refl s
  · dsimp only
    refine .trans (.trans ?_ (State.wakeUnit_only _ u).keepsClosed) (State.checkEmpty_keepsClosed _ u)
    split
    · exact (s.modUnit_only u _).keepsClosed.trans (State.pushYoung_only _ _ u).keepsClosed
    · exact (s.modUnit_only u _).keepsClosed

/-! ## What the turns of some units leave -/

/-- What R59 changes for the units of a faulted die that satisfy `P`: their records, their pages in the pool and the slots that hold them; the
re-placement lists gain pages. Dies change in their backlogs, and in their background queues where these are open. -/
structure State.FaultChange (s : State) (P : Nat → Prop) (t : State) : Prop where
  units : ∀ v, ¬ P v → t.unit? v = s.unit? v
  pool : t.pool ⊆ s.pool
  kept : ∀ e ∈ s.pool, ¬ P e.key.unit → e ∈ t.pool
  replace : ∀ st, (s.lines.get st).replace ⊆ (t.lines.get st).replace
  slots : ∀ st q, (t.streams.get st).slots.get q = (s.streams.get st).slots.get q ∨
    ((t.streams.get st).slots.get q = none ∧ ∃ o, (s.streams.get st).slots.get q = some o ∧ P o.unit)
  dies : ∀ d, t.dies.get d = { s.dies.get d with
    queue := (t.dies.get d).queue, waiting := (t.dies.get d).waiting, backlogs := (t.dies.get d).backlogs }
  closed : s.KeepsClosed t
  only : s.Only [.units, .streams, .contexts, .lines, .pool, .waiters, .credit, .groups, .dies] t

theorem State.FaultChange.refl (s : State) (P : Nat → Prop) : s.FaultChange P s :=
  ⟨fun _ _ => rfl, List.Subset.refl _, fun _ h _ => h, fun _ => List.Subset.refl _, fun _ _ => .inl rfl, fun _ => rfl, .refl s, .refl s _⟩

theorem State.FaultChange.trans {s t v : State} {P : Nat → Prop} (h : s.FaultChange P t) (k : t.FaultChange P v) : s.FaultChange P v where
  units u hu := (k.units u hu).trans (h.units u hu)
  pool := List.Subset.trans k.pool h.pool
  kept e he hn := k.kept e (h.kept e he hn) hn
  replace st := List.Subset.trans (h.replace st) (k.replace st)
  slots st q := by
    rcases k.slots st q with same | ⟨empty, o, ho, hp⟩
    · rw [same]; exact h.slots st q
    · rcases h.slots st q with before | ⟨before, -⟩
      · exact .inr ⟨empty, o, before ▸ ho, hp⟩
      · rw [before] at ho; cases ho
  dies d := by rw [k.dies d, h.dies d]
  closed := h.closed.trans k.closed
  only := h.only.andThen k.only (fun _ hm => hm)

theorem State.FaultChange.mono {s t : State} {P Q : Nat → Prop} (h : s.FaultChange P t) (hPQ : ∀ u, P u → Q u) : s.FaultChange Q t where
  units u hu := h.units u (fun hp => hu (hPQ u hp))
  pool := h.pool
  kept e he hn := h.kept e he (fun hp => hn (hPQ _ hp))
  replace := h.replace
  slots st q := (h.slots st q).imp id (fun ⟨empty, o, ho, hp⟩ => ⟨empty, o, ho, hPQ _ hp⟩)
  dies := h.dies
  closed := h.closed
  only := h.only

/-- A change of pages' records, of waiting work and of credit alone. -/
theorem State.FaultChange.of_only {s t : State} {P : Nat → Prop} (h : s.Only [.contexts, .waiters, .credit] t) : s.FaultChange P t where
  units u _ := h.unit? u
  pool := by rw [h .pool (by decide)]; exact List.Subset.refl _
  kept e he _ := by rw [h .pool (by decide)]; exact he
  replace st := by rw [h .lines (by decide)]; exact List.Subset.refl _
  slots st q := .inl (by rw [h .streams (by decide)])
  dies d := by rw [h .dies (by decide)]
  closed := h.keepsClosed
  only := h.mono (by decide)

/-- A transition of a unit of `P`. -/
theorem State.UnitChange.faultChange {s t : State} {u : Nat} {P : Nat → Prop} (h : s.UnitChange u t) (hu : P u) (hc : s.KeepsClosed t) :
    s.FaultChange P t where
  units v hv := h.others v (fun e => hv (e ▸ hu))
  pool := by rw [h.only .pool (by decide)]; exact List.Subset.refl _
  kept e he _ := by rw [h.only .pool (by decide)]; exact he
  replace st := by rw [h.only .lines (by decide)]; exact List.Subset.refl _
  slots st q := .inl (by rw [h.streams st])
  dies d := by rw [h.dies d]
  closed := hc
  only := h.only.mono (by decide)

/-- A change of streams that empties no slot but those of units of `P`. -/
theorem State.FaultChange.of_streams {s t : State} {P : Nat → Prop} (h : s.Only [.streams, .waiters, .credit] t)
    (hs : ∀ st q, (t.streams.get st).slots.get q = (s.streams.get st).slots.get q ∨
      ((t.streams.get st).slots.get q = none ∧ ∃ o, (s.streams.get st).slots.get q = some o ∧ P o.unit)) : s.FaultChange P t where
  units u _ := h.unit? u
  pool := by rw [h .pool (by decide)]; exact List.Subset.refl _
  kept e he _ := by rw [h .pool (by decide)]; exact he
  replace st := by rw [h .lines (by decide)]; exact List.Subset.refl _
  slots := hs
  dies d := by rw [h .dies (by decide)]
  closed := h.keepsClosed
  only := h.mono (by decide)

theorem State.freeEntry_faultChange (s : State) (e : PoolEntry) (P : Nat → Prop) (he : P e.key.unit) : s.FaultChange P (s.freeEntry e) where
  units u _ := (s.freeEntry_only e).unit? u
  pool := by rw [s.freeEntry_pool]; exact List.filter_subset_self _
  kept y hy hn := by
    rw [s.freeEntry_pool]
    exact List.mem_filter.mpr ⟨hy, decide_eq_true (fun h => hn (h ▸ he))⟩
  replace st := by rw [(s.freeEntry_only e) .lines (by decide)]; exact List.Subset.refl _
  slots st q := .inl (by rw [(s.freeEntry_only e) .streams (by decide)])
  dies d := by rw [s.freeEntry_dies e d]
  closed d h := by
    have die := s.freeEntry_dies e d
    refine ⟨?_, by rw [die], by rw [die]; exact List.Subset.refl _⟩
    rw [← h]
    have mode : ((s.freeEntry e).dies.get d).state = (s.dies.get d).state := by rw [die]
    simp only [State.queueOpen, State.isRunning, State.plwAsserted, mode, show (s.freeEntry e).mgmt = s.mgmt from rfl,
      show (s.freeEntry e).inputs = s.inputs from rfl]
  only := (s.freeEntry_only e).mono (by decide)

theorem State.withdraw_faultChange (s : State) (l : List PoolEntry) (P : Nat → Prop) (hl : ∀ e ∈ l, P e.key.unit) :
    s.FaultChange P (s.withdraw l) := by
  induction l generalizing s with
  | nil => exact .refl s P
  | cons e l ih =>
    have page := (s.freeEntry e).modPage_only e.ref (fun p => { p with outcome := .unplaced })
    exact ((s.freeEntry_faultChange e P (hl e (.head _))).trans (.of_only (page.mono (by decide)))).trans
      (ih _ (fun y hy => hl y (.tail _ hy)))

theorem State.modReplace_faultChange (s : State) (st : StreamId) (l : List PageRef) (P : Nat → Prop) :
    s.FaultChange P (s.modLines st (fun x => { x with replace := x.replace ++ l })) := by
  have only := s.modLines_only st (fun x => { x with replace := x.replace ++ l })
  refine ⟨fun u _ => only.unit? u, ?_, fun e he _ => ?_, fun x => ?_, fun x q => .inl ?_, fun d => ?_, only.keepsClosed, only.mono (by decide)⟩
  · rw [only .pool (by decide)]; exact List.Subset.refl _
  · rw [only .pool (by decide)]; exact he
  · rw [State.modLines_lines]
    by_cases hx : x = st
    · subst hx; rw [Table.get_modify_self]; exact List.subset_append_left _ _
    · rw [Table.get_modify_ne _ _ _ _ hx]; exact List.Subset.refl _
  · rw [only .streams (by decide)]
  · rw [only .dies (by decide)]

/-- The slot that is found for a unit holds it. -/
theorem State.slotOf_holds (s : State) (st : StreamId) (u : Nat) (q : Position) (h : s.slotOf st u = some q) :
    ∃ o, (s.streams.get st).slots.get q = some o ∧ o.unit = u := by
  have found := List.find?_some h
  split at found
  · next o ho => exact ⟨o, ho, of_decide_eq_true found⟩
  · cases found

theorem State.emptySlot_faultChange (s : State) (st : StreamId) (q : Position) (o : OpenSlot) (P : Nat → Prop)
    (ho : (s.streams.get st).slots.get q = some o) (hp : P o.unit) : s.FaultChange P (s.emptySlot st q) := by
  refine .of_streams ((s.emptySlot_only st q).mono (by decide)) (fun x k => ?_)
  by_cases hx : x = st
  · subst hx
    by_cases hk : k = q
    · subst hk; exact .inr ⟨by simp [State.emptySlot], o, ho, hp⟩
    · left; simp [State.emptySlot, hk]
  · left; simp [State.emptySlot, hx]

theorem State.applyPending_faultChange (s : State) (st : StreamId) (P : Nat → Prop) : s.FaultChange P (s.applyPending st) :=
  .of_streams (s.applyPending_only st) (fun x q => .inl (by rw [s.applyPending_slots st x]))

theorem State.dropSlot_faultChange (s : State) (st : StreamId) (u : Nat) (P : Nat → Prop) (hu : P u) : s.FaultChange P (s.dropSlot st u) := by
  unfold State.dropSlot; split
  · next q hq =>
    obtain ⟨o, ho, unit⟩ := s.slotOf_holds st u q hq
    exact (s.emptySlot_faultChange st q o P ho (unit ▸ hu)).trans (State.applyPending_faultChange _ st P)
  · exact .refl s P

theorem State.programFailed_faultChange (s : State) (k : PageKey) (P : Nat → Prop) (hk : P k.unit) : s.FaultChange P (s.programFailed k) := by
  cases he : s.poolEntry k with
  | none => simp only [State.programFailed, he]; exact .refl s P
  | some e =>
    cases ho : (s.unit? k.unit).bind (·.owner) with
    | none => simp only [State.programFailed, he, ho]; exact .refl s P
    | some st =>
      obtain ⟨x, hx, owner⟩ := Option.bind_eq_some_iff.mp ho
      have key : e.key = k := by simpa using List.find?_some he
      rw [s.programFailed_eq k e x st he hx owner]
      simp only [List.append_assoc]
      refine .trans (.trans (.trans (.trans (.trans ?_ (State.freeEntry_faultChange _ e P (key ▸ hk))) (.of_only
        ((State.failPage_only _ e.ref).mono (by decide)))) (State.withdraw_faultChange _ _ P (fun y hy => ?_)))
        (State.modReplace_faultChange _ st _ P)) (State.dropSlot_faultChange _ st k.unit P hk)
      · exact (s.failUnit_change k.unit k.index).faultChange hk (s.failUnit_keepsClosed k.unit k.index)
      · rw [((s.mem_unitEntries k.unit y).mp (List.mem_filter.mp hy).1).2]; exact hk

theorem State.sealSlot_faultChange (s : State) (st : StreamId) (q : Position) (o : OpenSlot) (P : Nat → Prop)
    (ho : (s.streams.get st).slots.get q = some o) (hp : P o.unit) : s.FaultChange P (s.sealSlot st q) := by
  simp only [State.sealSlot, ho]
  exact ((s.emptySlot_faultChange st q o P ho hp).trans
    ((State.sealUnit_change _ o.unit).faultChange hp (State.sealUnit_keepsClosed _ o.unit))).trans (State.applyPending_faultChange _ st P)

/-- An open unit with no page in the pool is short-sealed; a unit that is not open stays as it is (R59). -/
theorem State.faultUnit_settled (s : State) (u : Nat) (h : s.unitEntries u = []) :
    (∀ x st q, s.unit? u = some x → x.owner = some st → x.state = .opened → s.slotOf st u = some q → s.faultUnit u = s.sealSlot st q) ∧
    (s.faultUnit u = s ∨ ∃ st q, s.slotOf st u = some q ∧ s.faultUnit u = s.sealSlot st q) := by
  refine ⟨fun x st q hx ho hopen hq => ?_, ?_⟩
  · simp only [State.faultUnit, h, List.head?_nil, hx, hopen, if_true, ho, hq]
  · unfold State.faultUnit
    rw [h]
    simp only [List.head?_nil]
    split
    · split
      · split
        · split
          · next st _ _ q hq => exact .inr ⟨st, q, hq, rfl⟩
          · exact .inl rfl
        · exact .inl rfl
      · exact .inl rfl
    · exact .inl rfl

theorem State.faultUnit_entry (s : State) (u : Nat) (e : PoolEntry) (l : List PoolEntry) (h : s.unitEntries u = e :: l) :
    s.faultUnit u = s.programFailed e.key := by simp only [State.faultUnit, h, List.head?_cons]

theorem State.faultUnit_faultChange (s : State) (u : Nat) : s.FaultChange (· = u) (s.faultUnit u) := by
  cases hl : s.unitEntries u with
  | cons e l =>
    have unit : e.key.unit = u := ((s.mem_unitEntries u e).mp (hl ▸ List.mem_cons_self)).2
    rw [s.faultUnit_entry u e l hl]
    exact s.programFailed_faultChange e.key _ unit
  | nil =>
    rcases (s.faultUnit_settled u hl).2 with same | ⟨st, q, hq, seals⟩
    · rw [same]; exact .refl s _
    · obtain ⟨o, ho, unit⟩ := s.slotOf_holds st u q hq
      rw [seals]; exact s.sealSlot_faultChange st q o _ ho unit

theorem State.faultUnits_faultChange (l : List Nat) (s : State) (P : Nat → Prop) (h : ∀ u ∈ l, P u) :
    s.FaultChange P (l.foldl State.faultUnit s) := by
  induction l generalizing s with
  | nil => exact .refl s P
  | cons u l ih =>
    exact ((s.faultUnit_faultChange u).mono (fun v hv => hv ▸ h u (.head _))).trans (ih _ (fun v hv => h v (.tail _ hv)))

/-! ## The turn of one unit -/

/-- The entries are in ascending index. -/
theorem insertByIndex_ascending (e : PoolEntry) (l : List PoolEntry) (h : l.Pairwise (fun x y => x.key.index ≤ y.key.index)) :
    (insertByIndex e l).Pairwise (fun x y => x.key.index ≤ y.key.index) := by
  have mem : ∀ (y : PoolEntry) (l : List PoolEntry), y ∈ insertByIndex e l → y = e ∨ y ∈ l := fun y l => by
    induction l with
    | nil => simp [insertByIndex]
    | cons x xs ih =>
      unfold insertByIndex; split
      · simp
      · intro hy
        rcases List.mem_cons.mp hy with rfl | hy
        · exact .inr (.head _)
        · exact (ih hy).imp_right (.tail _)
  induction l with
  | nil => simp [insertByIndex]
  | cons x xs ih =>
    obtain ⟨first, rest⟩ := List.pairwise_cons.mp h
    unfold insertByIndex; split
    · next hlt =>
      refine List.pairwise_cons.mpr ⟨fun y hy => ?_, h⟩
      rcases List.mem_cons.mp hy with rfl | hy
      · exact le_of_lt hlt
      · exact (le_of_lt hlt).trans (first y hy)
    · next hge =>
      refine List.pairwise_cons.mpr ⟨fun y hy => ?_, ih rest⟩
      rcases mem y xs hy with rfl | hy
      · exact not_lt.mp hge
      · exact first y hy

theorem State.unitEntries_ascending (s : State) (u : Nat) : (s.unitEntries u).Pairwise (fun x y => x.key.index ≤ y.key.index) := by
  unfold State.unitEntries
  induction s.pool.filter (fun e => decide (e.key.unit = u)) with
  | nil => exact List.Pairwise.nil
  | cons e l ih => exact insertByIndex_ascending e _ ih

/-- A failed program withdraws its page and the higher ones of the unit, which wait to be placed again, and the slot of the unit empties
(R63). -/
theorem State.programFailed_withdraws (s : State) (k : PageKey) (e : PoolEntry) (x : UnitRecord) (st : StreamId)
    (he : s.poolEntry k = some e) (hx : s.unit? k.unit = some x) (ho : x.owner = some st) :
    let t := s.programFailed k
    t.unit? k.unit = (s.failUnit k.unit k.index).unit? k.unit ∧
    t.pool = s.pool.filter (fun y => decide (¬ (y.key.unit = k.unit ∧ k.index ≤ y.key.index))) ∧
    (∀ y ∈ s.pool, y.key.unit = k.unit → k.index < y.key.index → y.ref ∈ (t.lines.get st).replace) ∧
    (∀ q, s.slotOf st k.unit = some q → (t.streams.get st).slots.get q = none) := by
  intro t
  let a := s.failUnit k.unit k.index
  let c := (a.freeEntry e).failPage e.ref
  let higher := (s.unitEntries k.unit).filter (fun x => decide (k.index < x.key.index))
  let w := c.withdraw higher
  let v := w.modLines st (fun l => { l with
    replace := l.replace ++ (if w.pageUnplaced e.ref then [e.ref] else []) ++ higher.map (·.ref) })
  have ht : t = v.dropSlot st k.unit := s.programFailed_eq k e x st he hx ho
  have sa := s.failUnit_change k.unit k.index
  have ab : a.Only [.pool, .dies] (a.freeEntry e) := a.freeEntry_only e
  have bc : (a.freeEntry e).Only [.contexts] c := State.failPage_only _ e.ref
  obtain ⟨wpool, -, -, -, -, cw⟩ := c.withdraw_cases higher
  have wv : w.Only [.lines] v := w.modLines_only st _
  have vt : v.Only [.streams, .waiters, .credit] t := ht ▸ v.dropSlot_only st k.unit
  have av : a.Only [.contexts, .pool, .dies, .lines] v :=
    (((ab.mono (by decide)).andThen bc).andThen cw).andThen wv
  have vslots : (v.streams.get st).slots = (s.streams.get st).slots := by rw [av .streams (by decide), sa.streams st]
  obtain ⟨-, emptied⟩ := v.dropSlot_slots st k.unit
  refine ⟨(vt.unit? _).trans (av.unit? _), ?_, fun y hy unit index => ?_, fun q hq => ?_⟩
  · rw [vt .pool (by decide), wv .pool (by decide), wpool, bc .pool (by decide), a.freeEntry_pool, sa.only .pool (by decide)]
    exact s.pool_failed k e he
  · have lines : (v.lines.get st).replace =
        (w.lines.get st).replace ++ (if w.pageUnplaced e.ref then [e.ref] else []) ++ higher.map (·.ref) := by
      rw [State.modLines_lines, Table.get_modify_self]
    rw [vt .lines (by decide), lines]
    exact List.mem_append_right _ (List.mem_map_of_mem (List.mem_filter.mpr ⟨(s.mem_unitEntries _ y).mpr ⟨hy, unit⟩, decide_eq_true index⟩))
  · rw [ht]
    exact emptied q ((v.slotOf_congr s st k.unit vslots.symm).symm.trans hq)

/-- A unit that has been sealed and checked is not OPEN (R5, R9). -/
theorem UnitRecord.checked_not_opened (x : UnitRecord) (plw : Bool) (h : x.state ≠ .opened) : (x.checked plw).state ≠ .opened := by
  unfold UnitRecord.checked UnitRecord.leftForErase; split
  · cases x.retirePending <;> cases plw <;> simp [UnitRecord.toErasing, UnitRecord.toUnknown, UnitRecord.toRetired]
  · exact h

/-- A unit that has failed is not OPEN (R6). -/
theorem State.failUnit_not_opened (s : State) (u p : Nat) (x : UnitRecord) (h : s.unit? u = some x) :
    (s.failUnit u p).unitState u ≠ some .opened := by
  obtain ⟨stays, retires⟩ := s.failUnit_unit u p x h
  by_cases he : x.valid = 0 ∧ x.hold = .noHold
  · simp [State.unitState, retires he.1 he.2, UnitRecord.toRetired]
  · have : x.valid ≠ 0 ∨ x.hold ≠ .noHold := by tauto
    simp [State.unitState, stays this, UnitRecord.failedAt]

/-- What R59 leaves of a unit of a faulted die and of its pages. -/
structure State.Withdrawn (s : State) (u : Nat) (x : UnitRecord) (st : StreamId) (t : State) : Prop where
  pool : ∀ e ∈ t.pool, e.key.unit ≠ u
  replace : ∀ e ∈ s.pool, e.key.unit = u → (∃ y ∈ s.pool, y.key.unit = u ∧ y.key.index < e.key.index) → e.ref ∈ (t.lines.get st).replace
  slot : ∀ q, x.state = .opened → s.slotOf st u = some q → t.unitState u ≠ some .opened ∧ (t.streams.get st).slots.get q = none

/-- R59 for one unit: its lowest page fails and the higher ones are withdrawn; with no page it is sealed if it is OPEN. -/
theorem State.faultUnit_withdrawn (s : State) (u : Nat) (x : UnitRecord) (st : StreamId) (hx : s.unit? u = some x)
    (ho : x.owner = some st) : s.Withdrawn u x st (s.faultUnit u) := by
  cases hl : s.unitEntries u with
  | cons e l =>
    obtain ⟨mem, rfl⟩ := (s.mem_unitEntries u e).mp (hl ▸ List.mem_cons_self)
    have lowest : ∀ y ∈ s.pool, y.key.unit = e.key.unit → e.key.index ≤ y.key.index := fun y hy unit => by
      have listed := (s.mem_unitEntries _ y).mpr ⟨hy, unit⟩
      have ascending := s.unitEntries_ascending e.key.unit
      rw [hl] at listed ascending
      rcases List.mem_cons.mp listed with rfl | later
      · exact le_rfl
      · exact (List.pairwise_cons.mp ascending).1 y later
    obtain ⟨f, hf⟩ : ∃ f, s.poolEntry e.key = some f := Option.isSome_iff_exists.mp (List.find?_isSome.mpr ⟨e, mem, by simp⟩)
    obtain ⟨unit, pool, replace, slot⟩ := s.programFailed_withdraws e.key f x st hf hx ho
    rw [s.faultUnit_entry _ e l hl]
    refine ⟨fun y hy hu => ?_, fun y hy hu ⟨z, hz, zunit, below⟩ => ?_, fun q _ hq => ⟨?_, slot q hq⟩⟩
    · rw [pool] at hy
      obtain ⟨hy, out⟩ := List.mem_filter.mp hy
      exact of_decide_eq_true out ⟨hu, lowest y hy hu⟩
    · exact replace y hy hu (lt_of_le_of_lt (lowest z hz zunit) below)
    · have := s.failUnit_not_opened e.key.unit e.key.index x hx
      rwa [State.unitState, unit]
  | nil =>
    have none : ∀ y ∈ s.pool, y.key.unit ≠ u := fun y hy hu => by
      have := (s.mem_unitEntries u y).mpr ⟨hy, hu⟩
      rw [hl] at this; exact List.not_mem_nil this
    refine ⟨fun y hy => none y ((s.faultUnit_faultChange u).pool hy), fun y hy hu _ => absurd hu (none y hy), fun q hopen hq => ?_⟩
    rw [(s.faultUnit_settled u hl).1 x st q hx ho hopen hq]
    obtain ⟨o, slot, unit⟩ := s.slotOf_holds st u q hq
    refine ⟨?_, by rw [s.sealSlot_slots st q q, if_pos rfl]⟩
    rw [State.unitState, (s.sealSlot_unit st q u).1 ⟨o, slot, unit⟩ x hx]
    simpa [UnitRecord.sealResult] using UnitRecord.checked_not_opened _ s.plwAsserted (by simp [UnitRecord.sealedAt])

/-! ## The turns of all units -/

/-- The slot of a unit is found as before while other units have their turns. -/
theorem State.FaultChange.slotOf {s t : State} {u : Nat} (h : s.FaultChange (· ≠ u) t) (st : StreamId) : t.slotOf st u = s.slotOf st u := by
  unfold State.slotOf
  congr 1
  funext q
  rcases h.slots st q with same | ⟨empty, o, ho, hne⟩
  · rw [same]
  · rw [empty, ho]; simp [hne]

/-- The turns of other units, before and after its own, leave what R59 does for a unit. -/
theorem State.Withdrawn.within {s m n t : State} {u : Nat} {x : UnitRecord} {st : StreamId} (before : s.FaultChange (· ≠ u) m)
    (h : m.Withdrawn u x st n) (after : n.FaultChange (· ≠ u) t) : s.Withdrawn u x st t where
  pool e he := h.pool e (after.pool he)
  replace e he hu hy := by
    have stays : ∀ y ∈ s.pool, y.key.unit = u → y ∈ m.pool := fun y hy hu => before.kept y hy (fun hn => hn hu)
    obtain ⟨y, hy, unit, below⟩ := hy
    exact after.replace st (h.replace e (stays e he hu) hu ⟨y, stays y hy unit, unit, below⟩)
  slot q hopen hq := by
    obtain ⟨unit, slot⟩ := h.slot q hopen ((before.slotOf st).trans hq)
    refine ⟨by rwa [State.unitState, after.units u (fun hn => hn rfl)], ?_⟩
    rcases after.slots st q with same | ⟨empty, -⟩
    · rw [same, slot]
    · exact empty

theorem State.faultUnits_withdrawn (s : State) (l : List Nat) (hl : l.Nodup) (u : Nat) (hu : u ∈ l) (x : UnitRecord) (st : StreamId)
    (hx : s.unit? u = some x) (ho : x.owner = some st) : s.Withdrawn u x st (l.foldl State.faultUnit s) := by
  obtain ⟨before, after, split⟩ := List.append_of_mem hu
  rw [split, List.nodup_append, List.nodup_cons] at hl
  obtain ⟨-, ⟨notAfter, -⟩, apart⟩ := hl
  have first : s.FaultChange (· ≠ u) (before.foldl State.faultUnit s) :=
    State.faultUnits_faultChange before s _ (fun v hv => apart v hv u List.mem_cons_self)
  rw [split, List.foldl_append, List.foldl_cons]
  refine State.Withdrawn.within first (State.faultUnit_withdrawn _ u x st ?_ ho) (State.faultUnits_faultChange after _ _ (fun v hv e => ?_))
  · exact (first.units u (fun hn => hn rfl)).trans hx
  · exact notAfter (e ▸ hv)

theorem State.dieUnits_nodup (s : State) (d : DieId) : (s.dieUnits d).Nodup := by
  unfold State.dieUnits; split
  · exact List.Nodup.map (add_left_injective _) List.nodup_range
  · exact List.nodup_nil

end Sys2Proof.Machine
end

section
/-!
PROOFS. DIE_FAULT (R131, R146): the faulted die, its background work, the notice to M, and the statement about all of them together.
-/

namespace Sys2Proof.Machine

set_option Elab.async false

/-! ## The steps of a die fault -/

/-- The die has gone FAULTED and its tags and descriptors are released (R131, R146). -/
def State.struck (s : State) (d : DieId) : State := { s.modDie d DieRecord.fault with link := s.link.releaseDie d }

/-- R59 has been done for each of the units of a die that has gone FAULTED. -/
def State.unitsFaulted (s : State) (d : DieId) : State := ((s.struck d).dieUnits d).foldl State.faultUnit (s.struck d)

/-- The erases and checks of a die that has gone FAULTED are given up, and its WAITING windows are granted (R125, R131). -/
def State.backgroundFaulted (s : State) (d : DieId) : State :=
  ((s.unitsFaulted d).faultBackground d ((s.dies.get d).current.bind Operation.background)).grantWindows d

theorem State.faultDie_eq (s : State) (d : DieId) (op : Operation) :
    s.faultDie d op = ((s.backgroundFaulted d).flagDieFault d op.cause).offerManagement kindDieFaulted
      (dieFaultedBody d op.cause op.unit op.page) := rfl

theorem State.struck_only (s : State) (d : DieId) : s.Only [.dies, .link] (s.struck d) :=
  ((s.modDie_only d _).mono (by decide)).andThen (State.setLink_only _ _)

theorem State.struck_die (s : State) (d : DieId) : (s.struck d).dies.get d = (s.dies.get d).fault := Table.get_modify_self _ _ _

theorem State.struck_others (s : State) (d x : DieId) (h : x ≠ d) : (s.struck d).dies.get x = s.dies.get x := Table.get_modify_ne _ _ _ _ h

/-- The background queue of a FAULTED die is closed (R113). -/
theorem State.struck_closed (s : State) (d : DieId) : (s.struck d).queueOpen d = false := by
  simp [State.queueOpen, State.struck_die, DieRecord.fault]

theorem State.unitsFaulted_change (s : State) (d : DieId) : (s.struck d).FaultChange (fun _ => True) (s.unitsFaulted d) :=
  State.faultUnits_faultChange _ _ _ (fun _ _ => trivial)

theorem State.unitsFaulted_withdrawn (s : State) (d : DieId) (u : Nat) (hu : u ∈ s.dieUnits d) (x : UnitRecord) (st : StreamId)
    (hx : s.unit? u = some x) (ho : x.owner = some st) : s.Withdrawn u x st (s.unitsFaulted d) := by
  have struck := s.struck_only d
  obtain ⟨pool, replace, slot⟩ := (s.struck d).faultUnits_withdrawn _ (State.dieUnits_nodup _ d) u hu x st ((struck.unit? u).trans hx) ho
  rw [struck .pool (by decide)] at replace
  have found : (s.struck d).slotOf st u = s.slotOf st u := State.slotOf_congr _ _ st u (by rw [struck .streams (by decide)])
  exact ⟨pool, replace, fun q hopen hq => slot q hopen (found.trans hq)⟩

/-! ## The erases and checks of the die -/

theorem UnitRecord.toUnknown_not_erasing (x : UnitRecord) : x.toUnknown.state ≠ .erasing := by
  unfold UnitRecord.toUnknown; split
  · simp
  · assumption

theorem UnitRecord.toUnknown_not_opened (x : UnitRecord) (h : x.state ≠ .opened) : x.toUnknown.state ≠ .opened := by
  unfold UnitRecord.toUnknown; split
  · simp
  · exact h

theorem State.faultBackground_only (s : State) (d : DieId) (running : Option Nat) :
    s.Only [.units, .groups, .dies] (s.faultBackground d running) :=
  ((s.modDie_only d _).mono (by decide)).andThen (State.abandonUnits_only _ _)

/-- The queue empties, and its units and the one that was erased or checked join the waiting units (R131). -/
theorem State.faultBackground_die (s : State) (d : DieId) (running : Option Nat) :
    (s.faultBackground d running).dies.get d = { s.dies.get d with
      queue := []
      waiting := (running.toList ++ (s.dies.get d).queue.map (·.unit)).foldr insertNat (s.dies.get d).waiting } := by
  rw [State.faultBackground, State.abandonUnits_only _ _ .dies (by decide), State.modDie_dies, Table.get_modify_self]

theorem State.faultBackground_others (s : State) (d x : DieId) (running : Option Nat) (h : x ≠ d) :
    (s.faultBackground d running).dies.get x = s.dies.get x := by
  rw [State.faultBackground, State.abandonUnits_only _ _ .dies (by decide), State.modDie_dies, Table.get_modify_ne _ _ _ _ h]

/-- No unit of the die is ERASING, and no unit has become OPEN (R14, R131). -/
theorem State.faultBackground_unit (s : State) (d : DieId) (running : Option Nat) (u : Nat) :
    (u ∈ s.dieUnits d → (s.faultBackground d running).unitState u ≠ some .erasing) ∧
    (s.unitState u ≠ some .opened → (s.faultBackground d running).unitState u ≠ some .opened) := by
  unfold State.faultBackground
  dsimp only
  generalize hm : s.modDie d _ = m
  have units : m.unit? u = s.unit? u := by rw [← hm]; rfl
  simp only [State.unitState]
  constructor
  · intro hu
    by_cases he : s.unitState u = some .erasing
    · have listed : u ∈ s.erasingUnits d := List.mem_filter.mpr ⟨hu, decide_eq_true he⟩
      rw [m.abandonUnits_unit _ u listed, Option.map_map]
      intro h
      obtain ⟨x, -, hx⟩ := Option.map_eq_some_iff.mp h
      exact x.toUnknown_not_erasing hx
    · rcases (m.abandonUnits_abandons (s.erasingUnits d)).units u with same | unknown
      · rw [same, units]; exact he
      · rw [unknown, Option.map_map]
        intro h
        obtain ⟨x, -, hx⟩ := Option.map_eq_some_iff.mp h
        exact x.toUnknown_not_erasing hx
  · intro hn
    rcases (m.abandonUnits_abandons (s.erasingUnits d)).units u with same | unknown
    · rw [same, units]; exact hn
    · rw [unknown, units, Option.map_map]
      intro h
      obtain ⟨x, found, hx⟩ := Option.map_eq_some_iff.mp h
      exact x.toUnknown_not_opened (fun ho => hn (by rw [found, Option.map_some, ho])) hx

/-! ## The state once the background work is given up -/

theorem State.backgroundFaulted_only (s : State) (d : DieId) :
    s.Only [.units, .streams, .contexts, .lines, .pool, .waiters, .credit, .groups, .dies, .link, .masters] (s.backgroundFaulted d) :=
  ((((s.struck_only d).mono (by decide)).andThen (s.unitsFaulted_change d).only).andThen (State.faultBackground_only _ d _)).andThen
    (State.grantWindows_only _ d)

/-- The faulted die has no operation, timer or queue entry left, and its background work waits (R131). -/
theorem State.backgroundFaulted_die (s : State) (d : DieId) :
    ∃ waiting backlogs, (s.backgroundFaulted d).dies.get d = { (s.dies.get d).fault with
        queue := [], waiting := waiting, backlogs := backlogs,
        windows := (s.dies.get d).windows.map (Window.granted s.windowTicks) } ∧
      ∀ u, (s.dies.get d).current = some (.erase u) ∨ (s.dies.get d).current = some (.check u) ∨
        (∃ e ∈ (s.dies.get d).queue, e.unit = u) ∨ u ∈ (s.dies.get d).waiting → u ∈ waiting := by
  let running := (s.dies.get d).current.bind Operation.background
  have change := s.unitsFaulted_change d
  have record := change.dies d
  obtain ⟨-, queue, waits⟩ := change.closed d (s.struck_closed d)
  have only := (((s.struck_only d).mono (by decide)).andThen change.only).andThen (State.faultBackground_only (s.unitsFaulted d) d running)
    (gs := [.units, .streams, .contexts, .lines, .pool, .waiters, .credit, .groups, .dies, .link])
  have ticks : ((s.unitsFaulted d).faultBackground d running).windowTicks = s.windowTicks := by
    simp only [State.windowTicks, show ((s.unitsFaulted d).faultBackground d running).limits = s.limits from only .limits (by decide)]
  have die := State.grantWindows_die ((s.unitsFaulted d).faultBackground d running) d
  rw [State.faultBackground_die, ticks, record, queue, s.struck_die] at die
  refine ⟨_, _, die, fun u hu => (mem_foldr_insertNat _ _ _).mpr ?_⟩
  rw [s.struck_die] at waits
  rcases hu with erase | check | ⟨e, he, rfl⟩ | wait
  · exact .inl (List.mem_append_left _ (by simp [running, erase, Operation.background]))
  · exact .inl (List.mem_append_left _ (by simp [running, check, Operation.background]))
  · exact .inl (List.mem_append_right _ (List.mem_map_of_mem he))
  · exact .inr (waits wait)

theorem State.backgroundFaulted_others (s : State) (d x : DieId) (h : x ≠ d) :
    ((s.backgroundFaulted d).dies.get x).state = (s.dies.get x).state ∧
    ((s.backgroundFaulted d).dies.get x).current = (s.dies.get x).current := by
  rw [State.backgroundFaulted, State.grantWindows_others _ d x h, State.faultBackground_others _ d x _ h, (s.unitsFaulted_change d).dies x,
    s.struck_others d x h]
  exact ⟨rfl, rfl⟩

theorem State.backgroundFaulted_link (s : State) (d : DieId) : (s.backgroundFaulted d).link = s.link.releaseDie d := by
  rw [State.backgroundFaulted, State.grantWindows_only _ d .link (by decide), State.faultBackground_only _ d _ .link (by decide),
    (s.unitsFaulted_change d).only .link (by decide)]
  rfl

/-- What the turns of the units did to the unit, its pages and its slot stands, and none of the die's units is ERASING. -/
theorem State.backgroundFaulted_unit (s : State) (d : DieId) (u : Nat) (hu : u ∈ s.dieUnits d) :
    (s.backgroundFaulted d).unitState u ≠ some .erasing ∧
    ∀ x st, s.unit? u = some x → x.owner = some st → s.Withdrawn u x st (s.backgroundFaulted d) := by
  let m := s.unitsFaulted d
  let running := (s.dies.get d).current.bind Operation.background
  obtain ⟨erasing, opened⟩ := m.faultBackground_unit d running u
  have after := (State.grantWindows_only (m.faultBackground d running) d)
  have only : m.Only [.units, .groups, .dies, .masters] (s.backgroundFaulted d) :=
    ((m.faultBackground_only d running).mono (by decide)).andThen after
  have unit : (s.backgroundFaulted d).unitState u = (m.faultBackground d running).unitState u := congrArg (Option.map _) (after.unit? u)
  have same : m.dieUnits d = s.dieUnits d := by
    have mgmt : m.mgmt = s.mgmt := ((s.unitsFaulted_change d).only .mgmt (by decide)).trans (s.struck_only d .mgmt (by decide))
    unfold State.dieUnits State.dieCount State.bpd; rw [mgmt]
  rw [unit]
  refine ⟨erasing (same ▸ hu), fun x st hx ho => ?_⟩
  obtain ⟨pool, replace, slot⟩ := s.unitsFaulted_withdrawn d u hu x st hx ho
  refine ⟨by rw [only .pool (by decide)]; exact pool, by rw [only .lines (by decide)]; exact replace, fun q hopen hq => ?_⟩
  obtain ⟨left, empty⟩ := slot q hopen hq
  exact ⟨by rw [unit]; exact opened left, by rw [only .streams (by decide)]; exact empty⟩

/-! ## The notice to M -/

theorem State.offerManagement_ports (s : State) (kind : Nat) (body : List Byte) :
    (s.offerManagement kind body).mport = s.mport.offered (noticeRecord kind body) ∧
    (s.offerManagement kind body).mgmt = { s.mgmt with sticky := s.mgmt.sticky.offered s.mport } := by
  unfold State.offerManagement Ring.offered Sticky.offered
  split
  · exact ⟨rfl, rfl⟩
  · exact ⟨rfl, rfl⟩

/-- The sticky status records the cause and DIE-FAULTED is offered to M, which changes the port of M and its record alone (R131, R184). -/
theorem State.faultDie_reports (s : State) (d : DieId) (op : Operation) :
    (s.backgroundFaulted d).Only [.mport, .mgmt] (s.faultDie d op) ∧
    (s.faultDie d op).mport = s.mport.offered (noticeRecord kindDieFaulted (dieFaultedBody d op.cause op.unit op.page)) ∧
    (s.faultDie d op).mgmt = { s.mgmt with sticky :=
      ({ s.mgmt.sticky with dieFault := s.mgmt.sticky.dieFault.set d op.cause } : Sticky).offered s.mport } := by
  have sb := s.backgroundFaulted_only d
  have port : (s.backgroundFaulted d).mport = s.mport := sb .mport (by decide)
  have mgmt : (s.backgroundFaulted d).mgmt = s.mgmt := sb .mgmt (by decide)
  rw [s.faultDie_eq d op]
  generalize dieFaultedBody d op.cause op.unit op.page = body
  generalize s.backgroundFaulted d = b at port mgmt
  have bf := b.flagDieFault_only d op.cause
  have fport : (b.flagDieFault d op.cause).mport = s.mport := (bf .mport (by decide)).trans port
  have fmgmt : (b.flagDieFault d op.cause).mgmt =
      { s.mgmt with sticky := { s.mgmt.sticky with dieFault := s.mgmt.sticky.dieFault.set d op.cause } } := by
    rw [← mgmt]; rfl
  generalize b.flagDieFault d op.cause = f at bf fport fmgmt
  obtain ⟨offered, sticky⟩ := f.offerManagement_ports kindDieFaulted body
  exact ⟨(bf.mono (by decide)).andThen (f.offerManagement_only _ _), by rw [offered, fport], by rw [sticky, fport, fmgmt]⟩

/-! ## DIE_FAULT -/

theorem State.dieFault_run (s : State) (d : DieId) (op : Operation) (timed : (s.dies.get d).timedOperation = some op)
    (expired : (s.dies.get d).opTimer = some 0) (inService : (s.dies.get d).state ≠ .faulted) :
    exec (.dieFault d) s = .next (s.faultDie d op) := by
  have run : exec (.dieFault d) s = execDieFault d s := rfl
  rw [run]
  simp only [execDieFault, timed]
  exact if_pos ⟨expired, inService⟩

/-- Settles O16: the units of the die have their turns by R59 while its background queue is closed, then its background work waits. -/
theorem dieFaultStopsDie : Obligations.DieFaultStopsDie := by
  unfold Obligations.DieFaultStopsDie
  intro d s op timed expired inService
  refine ⟨_, s.dieFault_run d op timed expired inService, ?_⟩
  obtain ⟨bt, port, sticky⟩ := s.faultDie_reports d op
  generalize s.faultDie d op = t at bt port sticky
  have sb := s.backgroundFaulted_only d
  have others := s.backgroundFaulted_others d
  have unit := s.backgroundFaulted_unit d
  have released := s.backgroundFaulted_link d
  obtain ⟨waiting, backlogs, die, waits⟩ := s.backgroundFaulted_die d
  generalize s.backgroundFaulted d = b at bt sb others unit released die
  have dies : t.dies = b.dies := bt .dies (by decide)
  have link : t.link = s.link.releaseDie d := (bt .link (by decide)).trans released
  rw [dies, link, die]
  refine ⟨rfl, rfl, rfl, rfl, rfl, rfl, fun p => ?_, fun u hu => ?_, waits, fun u hu x st hx ho => ?_, rfl, rfl, rfl, others, port, sticky,
    (sb.mono (by decide)).andThen bt⟩
  · rw [Table.get_map]; cases (s.dies.get d).windows.get p <;> rfl
  · rw [State.unitState, bt.unit? u]
    exact (unit u hu).1
  · obtain ⟨pool, replace, slot⟩ := (unit u hu).2 x st hx ho
    rw [bt .pool (by decide), bt .lines (by decide), bt .streams (by decide), State.unitState, bt.unit? u]
    exact ⟨pool, replace, slot⟩

end Sys2Proof.Machine
end

section
/-!
PROOFS. The channel link (chapter 7): the limits of the outstanding tags and the descriptor queue through every single change and so through every
step (R138, R139), DESCRIPTOR_SEND (R139, R141, R191) and STRAY_COMPLETION (R143, R147, R183).
-/

namespace Sys2Proof.Machine

/-! ## The limits of the link -/

/-- A link within its limits: at most 32 tags outstanding, all distinct, and at most 32 descriptors in the queue (R138, R139). -/
def Link.Legal (l : Link) : Prop :=
  l.tags.length ≤ Config.linkLimit ∧ (l.tags.map (·.tag)).Nodup ∧ l.queue.length ≤ Config.linkLimit

theorem State.linkLegal_iff (s : State) : s.LinkLegal ↔ s.link.Legal := .rfl

/-- A link whose queue and table are among those of one within its limits is within them too, whatever phases its entries are in. -/
theorem Link.Within.legal {l l' : Link} (h : l.Within l') (hl : l.Legal) : l'.Legal := by
  obtain ⟨jobs, queue⟩ := h
  obtain ⟨outstanding, distinct, queued⟩ := hl
  have tags : (l'.tags.map (·.tag)).Sublist (l.tags.map (·.tag)) := by
    have := jobs.map Prod.fst
    rwa [List.map_map, List.map_map] at this
  have fewer : l'.tags.length ≤ l.tags.length := by simpa using jobs.length_le
  exact ⟨fewer.trans outstanding, distinct.sublist tags, queue.trans queued⟩

/-- With a place and a tag free the descriptor and its entry fit, and the first free tag is no other entry's (R138). -/
theorem Link.HandedOver.legal {l l' : Link} {kind : DescriptorKind} {d : DieId} {u block : Nat} {page : Option PageKey} {handle : Word}
    (h : l.HandedOver l' kind d u block page handle) (hp : l.hasPlace = true) (hl : l.Legal) : l'.Legal := by
  obtain ⟨tag, ⟨-, -, -, fresh, -⟩, rfl⟩ := h
  obtain ⟨place, free⟩ := l.hasPlace_iff.mp hp
  obtain ⟨-, distinct, -⟩ := hl
  refine ⟨?_, ?_, ?_⟩
  · rw [List.length_append]; exact free
  · rw [List.map_append]
    exact List.nodup_append.mpr ⟨distinct, List.nodup_singleton _, by simpa using fresh⟩
  · rw [List.length_append]; exact place

theorem State.Change.link_legal {s t : State} (h : s.Change t) (hs : s.link.Legal) : t.link.Legal := by
  cases h with
  | aside only => rw [only .link (by decide)]; exact hs
  | dies => exact hs
  | lines => exact hs
  | link l jobs queue => exact Link.Within.legal ⟨jobs, queue⟩ hs
  | handOver kind d u page place =>
    have free : s.link.tags.length < 32 := (s.link.hasPlace_iff.mp place).2
    exact (s.handOver_handedOver kind d u page (by omega)).legal place hs

theorem State.Evolves.link_legal {s t : State} (h : s.Evolves t) (hs : s.link.Legal) : t.link.Legal := by
  induction h with
  | refl => exact hs
  | tail _ change ih => exact change.link_legal ih

theorem exec_link_legal (c : Instr) (s t : State) (hs : s.link.Legal) (h : exec c s = .next t) : t.link.Legal := by
  by_cases hc : c = .plwNDeasserted
  · subst hc
    rw [execPlwNDeasserted_link s t h]; exact hs
  · exact (exec_evolves c s hc t h).link_legal hs

/-- Settles O4: a step is the command in front of the queue, or a REFCLK period, and the single changes of both keep the link's limits. -/
theorem stepKeepsTags : Obligations.StepKeepsTags := by
  unfold Obligations.StepKeepsTags
  intro s t hs ht
  rw [State.linkLegal_iff] at hs ⊢
  unfold step at ht; split at ht
  · exact (clockPeriod_evolves s t ht).link_legal hs
  · next c rest _ => exact exec_link_legal c { s with pending := rest } t hs ht

/-! ## DESCRIPTOR_SEND -/

/-- A descriptor has sixteen bytes (R191). -/
theorem Descriptor.encode_length (x : Descriptor) : x.encode.length = 16 := by
  simp only [Descriptor.encode, List.length_append, leBytes_length, List.length_cons, List.length_nil]

/-- The link once its head descriptor has been sent (R139, R141). -/
def Link.sent (l : Link) (x : Descriptor) (rest : List Descriptor) : Link :=
  { l with queue := rest, tags := l.markSent x.tag, lastSent := x.encode }

theorem exec_descriptorSend (s : State) (x : Descriptor) (rest : List Descriptor) (h : s.link.queue = x :: rest) :
    exec .descriptorSend s = .next { s with link := s.link.sent x rest } := by
  have run : exec .descriptorSend s = execDescriptorSend s := rfl
  rw [run, execDescriptorSend]
  simp only [h]
  rfl

/-! ## STRAY_COMPLETION -/

/-- A completion fails a test of R143, for the reason of the first test that it fails and with the entry of its tag, if there is one. -/
def State.Stray (s : State) (c : Completion) (reason : StrayReason) (e : Option TagEntry) : Prop :=
  (reason = .unknownTag ∧ e = none ∧ (∀ x ∈ s.link.tags, x.tag ≠ c.tag)) ∨
  (∃ x, e = some x ∧ s.link.tags.find? (fun y => decide (y.tag = c.tag)) = some x ∧
    ((reason = .notSent ∧ x.phase = .queued) ∨
     (reason = .wrongDie ∧ x.phase = .sent ∧ c.die.toNat ≠ x.die.val) ∨
     (reason = .wrongKind ∧ x.phase = .sent ∧ c.die.toNat = x.die.val ∧ x.kind.allows c.kind.toNat = false)))

/-- The tests of R143 are made in their order, so the reason is that of the first that fails. -/
theorem State.matchCompletion_stray {s : State} {c : Completion} {reason : StrayReason} {e : Option TagEntry} (h : s.Stray c reason e) :
    s.matchCompletion c = .stray reason e := by
  unfold State.matchCompletion
  rcases h with ⟨rfl, rfl, unknown⟩ | ⟨x, rfl, found, tests⟩
  · have none_found : s.link.tags.find? (fun y => decide (y.tag = c.tag)) = none := List.find?_eq_none.mpr (by simpa using unknown)
    rw [none_found]
  · rw [found]
    rcases tests with ⟨rfl, queued⟩ | ⟨rfl, sent, die⟩ | ⟨rfl, sent, die, kind⟩
    · simp only [queued, if_true]
    · simp only [sent, reduceCtorEq, if_false, if_pos die]
    · simp only [sent, reduceCtorEq, if_false, die, ne_eq, not_true_eq_false, kind, Bool.false_eq_true]

theorem exec_strayCompletion (s : State) (c : Completion) (reason : StrayReason) (e : Option TagEntry) (h : s.Stray c reason e) :
    exec (.strayCompletion c) s = .next (s.flagStray.offerManagement kindStrayCompletion (strayBody c reason e)) := by
  have run : exec (.strayCompletion c) s = execStrayCompletion c s := rfl
  rw [run, execStrayCompletion, State.matchCompletion_stray h]

/-- Settles O56: the head descriptor is sent whatever the link holds behind it, and a stray completion reaches M only. -/
theorem linkSendsAndDiscards : Obligations.LinkSendsAndDiscards := by
  unfold Obligations.LinkSendsAndDiscards
  refine ⟨fun s x rest hq => ?_, fun c s reason e stray => ?_⟩
  · exact ⟨_, exec_descriptorSend s x rest hq, rfl, rfl, x.encode_length, rfl, rfl, rfl, rfl, s.setLink_only _⟩
  · obtain ⟨port, sticky⟩ := s.flagStray.offerManagement_ports kindStrayCompletion (strayBody c reason e)
    exact ⟨_, exec_strayCompletion s c reason e stray, port, sticky,
      (s.flagStray_only.mono (by decide)).andThen (s.flagStray.offerManagement_only _ _)⟩

end Sys2Proof.Machine
end

section
/-!
PROOFS. Requests that a port only answers (R156, R157, R170), and the index writes of a port that no fence is due on: REQUEST_TAIL_WRITE (R151)
and REPLY_HEAD_WRITE (R154, R155).
-/

namespace Sys2Proof.Machine

/-! ## Requests that are only answered -/

/-- The body of a PING reply in the state with the request taken, whose reservation counts among the reply holdings (R153, R157). -/
theorem State.taken_pingBody (s : State) (p : PortId) : (s.taken p).pingBody (s.headRequest p) =
    packFields false [(4, (s.headRequest p).pingValue), (1, s.mgmt.device.code), (4, s.time.tick.toNat), (4, s.time.epoch.toNat),
      (1, (s.ring p).replyHoldings + 1), (1, match p with | .master m => s.credit.shares.get m | .management => 0)] := by
  have port : (s.headRequest p).port = p := rfl
  unfold State.pingBody
  rw [port, State.taken_replyHoldings, State.taken_mgmt, State.taken_time]
  cases p <;> rfl

@[simp] theorem State.taken_youngOwner (s : State) (p : PortId) (u : Nat) : (s.taken p).youngOwner u = s.youngOwner u := by
  simp [State.youngOwner]

/-- QUERY-UNIT answers by whether the unit exists (R157, R190). -/
theorem queryUnitRequest_cases (r : Request) (s : State) :
    (s.unit? r.unit = none → queryUnitRequest r s = r.answer s .badRequest) ∧
    ∀ x, s.unit? r.unit = some x → queryUnitRequest r s = r.answer s .ok (leBytes 2 r.unit ++ x.encode ++ leBytes 2 2)
      [valueWord (flagCode (s.youngOwner r.unit).isSome), optionWord ((s.youngOwner r.unit).map (·.val))] := by
  unfold queryUnitRequest
  refine ⟨fun h => by rw [h], fun x h => by rw [h]; rfl⟩

/-- The kinds that a master port takes, as numbers (R156, R187). -/
theorem isMasterKind_eq_false (k : Nat) (h : ¬ (1 ≤ k ∧ k ≤ 15)) : isMasterKind k = false := decide_eq_false h

/-- The kinds that port M takes, as numbers (R170, R187). -/
theorem isManagementKind_eq_false (k : Nat) (h : ¬ (32 ≤ k ∧ k ≤ 51)) (hp : k ≠ 14) : isManagementKind k = false :=
  decide_eq_false (by rintro (hk | hk); exacts [h hk, hp hk])

/-- Settles O36: each request is answered in the state with the request taken, and nothing else is done. -/
theorem queriesOnlyAnswer : Obligations.QueriesOnlyAnswer := by
  unfold Obligations.QueriesOnlyAnswer
  refine ⟨fun p s hr => ?_, fun p s hr => ?_, fun p s k hr hk => ?_, fun s k hr hk hp => ?_⟩
  · have he := exec_of_kind s p kindPing (fun r s => r.answer s .ok (s.pingBody r)) (.ping p) rfl hr
    simp only [State.taken_pingBody] at he
    exact onlyAnswered_of_exec he
  · have he := exec_of_kind s (.master p) kindQueryUnit queryUnitRequest (.queryUnit p) rfl hr
    obtain ⟨absent, present⟩ := queryUnitRequest_cases (s.headRequest (.master p)) (s.taken (.master p))
    simp only [State.taken_unit?, State.taken_youngOwner] at absent present
    exact ⟨fun h => onlyAnswered_of_exec (he.trans (congrArg _ (absent h))),
      fun x h => onlyAnswered_of_exec (he.trans (congrArg _ (present x h)))⟩
  · exact onlyAnswered_of_exec (exec_of_ready s (.master p) k (fun k => !isMasterKind k) (fun r s => r.answer s .badRequest)
      (.unknownMasterRequest p) rfl hr (by simp [isMasterKind_eq_false k hk]))
  · exact onlyAnswered_of_exec (exec_of_ready s .management k (fun k => !isManagementKind k) (fun r s => r.answer s .badRequest)
      .unknownMgmtRequest rfl hr (by simp [isManagementKind_eq_false k hk hp]))

/-! ## Index writes -/

/-- No event comes before an index write of a port that no fence is due on (R159). -/
theorem State.settlePort_noFenceDue (s : State) (p : PortId) (h : s.NoFenceDue p) : s.settlePort p = s := by
  cases p with
  | management => rfl
  | master m =>
    show s.dueFence m = s
    rw [State.dueFence, if_neg]
    simp only [State.fencePending, Bool.and_eq_true, decide_eq_true_eq]
    exact fun ⟨due, active⟩ => Bool.false_ne_true ((h m rfl active).symm.trans due)

/-- Changing the rings of a port leaves whether each port is in service. -/
@[simp] theorem State.modRing_inService (s : State) (p q : PortId) (f : Ring → Ring) : (s.modRing p f).inService q = s.inService q := by
  cases p with
  | management => cases q <;> rfl
  | master m =>
    cases q with
    | management => rfl
    | master n =>
      have : ((s.modRing (.master m) f).masters.get n).state = (s.masters.get n).state := by
        rw [State.modRing_master_masters, Table.get_modify]; split <;> rfl
      simp only [State.inService, this]

/-- Changing the rings of a port changes nothing else of any master port. -/
theorem State.modRing_master (s : State) (p : PortId) (f : Ring → Ring) (m : MasterId) :
    (s.modRing p f).masters.get m = { s.masters.get m with ring := ((s.modRing p f).masters.get m).ring } := by
  cases p with
  | management => rfl
  | master n =>
    rw [State.modRing_master_masters, Table.get_modify]; split <;> rfl

/-- Two changes of the rings of one port are one. -/
theorem State.modRing_modRing (s : State) (p : PortId) (f g : Ring → Ring) :
    (s.modRing p f).modRing p g = s.modRing p (fun r => g (f r)) := by
  cases p with
  | management => rfl
  | master m =>
    have : (s.masters.modify m (fun x => { x with ring := f x.ring })).modify m (fun x => { x with ring := g x.ring }) =
        s.masters.modify m (fun x => { x with ring := g (f x.ring) }) := Table.ext_get _ _ (fun n => by
      simp only [Table.get_modify]; split <;> rfl)
    simp only [State.modRing, State.modMaster, this]

/-- What the word of an index reads once a master has written it, and the memory around it (R187). -/
theorem Ring.holdIndex_read (r : Ring) (offset : Nat) (w : IndexWrite) (a : Nat) : (r.holdIndex offset w).mem.read a =
    if offset ≤ a ∧ a < offset + (w.index :: w.rest.take 3).length then (w.index :: w.rest.take 3).getD (a - offset) 0
    else r.mem.read a := by
  rw [Ring.holdIndex_mem, Memory.read_write]

/-- REQUEST_TAIL_WRITE on a port that no fence is due on (R151). -/
theorem exec_requestTailWrite (p : PortId) (w : IndexWrite) (s : State) (h : s.NoFenceDue p) :
    exec (.requestTailWrite p w) s = .next (s.modRing p (fun r =>
      if s.inService p then (r.holdIndex requestTailOffset w).writeTail w.index else r.holdIndex requestTailOffset w)) := by
  show execRequestTailWrite p w s = _
  simp only [execRequestTailWrite, s.settlePort_noFenceDue p h, State.modRing_inService, State.modRing_modRing]
  split <;> rfl

/-- A tail write changes the tail or the refusals, and no byte of memory (R151). -/
theorem Ring.writeTail_cases (r : Ring) (value : Byte) :
    let v : BitVec 6 := value.setWidth 6
    ((v - r.requestHead).toNat ≤ 32 → r.writeTail value = { r with requestTail := v }) ∧
    (32 < (v - r.requestHead).toNat → r.writeTail value = { r with refusals := min 65535 (r.refusals + 1) }) ∧
    (r.writeTail value).mem = r.mem := by
  refine ⟨fun h => if_pos h, fun h => if_neg (Nat.not_le.mpr h), ?_⟩
  unfold Ring.writeTail; dsimp only; split <;> rfl

/-- Settles O18: the write is one change of the port's rings, whose memory is that of `Ring.holdIndex`. -/
theorem tailWriteMovesTail : Obligations.TailWriteMovesTail := by
  unfold Obligations.TailWriteMovesTail
  intro p value s hdue r v written
  refine ⟨_, exec_requestTailWrite p value s hdue, ?_⟩
  let held := r.holdIndex requestTailOffset value
  obtain ⟨taken, refused, mem⟩ := held.writeTail_cases value.index
  let f : Ring → Ring := fun r =>
    if s.inService p then (r.holdIndex requestTailOffset value).writeTail value.index else r.holdIndex requestTailOffset value
  have inService : s.inService p = true → f r = held.writeTail value.index := fun hs => if_pos hs
  have fenced : s.inService p = false → f r = held := fun hs => if_neg (by rw [hs]; exact Bool.false_ne_true)
  have memory : (f r).mem = held.mem := by
    cases hs : s.inService p with
    | true => rw [inService hs, mem]
    | false => rw [fenced hs]
  have ring : (s.modRing p f).ring p = f r := s.ring_modRing_self p f
  rw [ring]
  refine ⟨fun a => ?_, fun hs hv => ?_, fun hs hv => ?_, fun hs => ?_, fun x hx => s.ring_modRing_ne p x f hx, s.modRing_only p f,
    fun m => s.modRing_master p f m⟩
  · rw [memory]; exact r.holdIndex_read requestTailOffset value a
  · rw [memory, inService hs, taken hv]; rfl
  · rw [memory, inService hs, refused hv]; rfl
  · rw [fenced hs]; rfl

/-- The interrupt line of a port is asserted exactly while the port is in service and holds an unread record (R154). -/
theorem State.interrupt_iff (s : State) (x : PortId) : s.interrupt x = true ↔
    (∀ m, x = .master m → (s.masters.get m).state = .active) ∧ (s.ring x).replyTail ≠ (s.ring x).replyHead := by
  cases x <;> simp [State.interrupt, State.inService]

/-- The records of a class among those that the reply head passes (R155). -/
theorem Ring.passedOf_eq (r : Ring) (n : Nat) (cls : SlotClass) : r.passedOf n cls =
    ((List.range n).filter (fun k => decide (r.classes.get (Fin.ofNat 64 (r.replyHead.toNat + k)) = cls))).length := by
  rw [Ring.passedOf, Ring.passed, List.filter_map, List.length_map]; rfl

/-- A port that is heard from keeps its rings and its place in service, and has its inactivity count 0 (R155). -/
theorem State.heard_cases (s : State) (p : PortId) : (∀ x, (s.heard p).ring x = s.ring x) ∧ s.Only [.masters] (s.heard p) ∧
    ∀ m, p = .master m → ((s.heard p).masters.get m).inactivity = 0 := by
  refine ⟨fun x => ?_, s.heard_only p, fun m hm => ?_⟩
  · cases p with
    | management => rfl
    | master m =>
      cases x with
      | management => rfl
      | master n =>
        show ((s.masters.modify m _).get n).ring = _
        rw [Table.get_modify]; split <;> rfl
  · subst hm
    show ((s.masters.modify m _).get m).inactivity = 0
    rw [Table.get_modify_self]

/-- REPLY_HEAD_WRITE on a port that no fence is due on and for which no notice waits (R155). -/
theorem exec_replyHeadWrite (p : PortId) (w : IndexWrite) (s : State) (h : s.NoFenceDue p)
    (hn : ∀ m, p = .master m → s.reclaim.notices.get m = []) :
    let hold := fun r : Ring => r.holdIndex replyHeadOffset w
    let v : BitVec 7 := w.index.setWidth 7
    (s.inService p = true → (v - (s.ring p).replyHead).toNat ≤ (s.ring p).unread →
      exec (.replyHeadWrite p w) s = .next ((s.modRing p (fun r => (hold r).advanceHead v)).heard p)) ∧
    (s.inService p = true → (s.ring p).unread < (v - (s.ring p).replyHead).toNat →
      exec (.replyHeadWrite p w) s = .next (s.modRing p (fun r => (hold r).refuse))) ∧
    (s.inService p = false → exec (.replyHeadWrite p w) s = .next (s.modRing p hold)) := by
  intro hold v
  have run : exec (.replyHeadWrite p w) s = execReplyHeadWrite p w s := rfl
  have silent : ∀ f : Ring → Ring, ((s.modRing p f).heard p).noticesFreed p = (s.modRing p f).heard p := fun f => by
    cases p with
    | management => rfl
    | master m =>
      refine State.flushNotices_nil _ _ m ?_
      rw [((s.modRing (.master m) f).heard_only _) .reclaim (by decide), State.modRing_reclaim]
      exact hn m rfl
  simp only [run, execReplyHeadWrite, s.settlePort_noFenceDue p h, State.modRing_inService, State.modRing_modRing,
    State.ring_modRing_self, silent]
  refine ⟨fun hs hv => ?_, fun hs hv => ?_, fun hs => ?_⟩
  · rw [if_pos hs]; exact if_pos hv
  · rw [if_pos hs]; exact if_neg (Nat.not_le.mpr hv)
  · rw [hs]; rfl

/-- Settles O19: the branches of `exec_replyHeadWrite`, each one change of the port's rings with the memory of `Ring.holdIndex`. -/
theorem headWriteReleases : Obligations.HeadWriteReleases := by
  unfold Obligations.HeadWriteReleases
  intro p value s hdue hnone r w n passed written
  obtain ⟨taken, refused, fenced⟩ := exec_replyHeadWrite p value s hdue hnone
  let held := r.holdIndex replyHeadOffset value
  have memory : ∀ a, held.mem.read a = if 0x0C0C ≤ a ∧ a < 0x0C0C + written.length then written.getD (a - 0x0C0C) 0 else r.mem.read a :=
    r.holdIndex_read replyHeadOffset value
  cases hs : s.inService p with
  | false =>
    refine ⟨_, fenced hs, ?_, nofun, nofun, fun _ => ?_, State.interrupt_iff _, fun x hx => s.ring_modRing_ne p x _ hx, s.modRing_only p _⟩
    · rw [s.ring_modRing_self]; exact memory
    · rw [s.ring_modRing_self]; rfl
  | true =>
    by_cases hw : n ≤ r.unread
    · let moved := s.modRing p (fun r => (r.holdIndex replyHeadOffset value).advanceHead w)
      obtain ⟨rings, only, heard⟩ := moved.heard_cases p
      have ring : (moved.heard p).ring p = held.advanceHead w := (rings p).trans (s.ring_modRing_self p _)
      refine ⟨_, taken hs hw, ?_, fun _ _ => ⟨?_, heard⟩, fun _ h => absurd hw (Nat.not_le.mpr h), nofun, State.interrupt_iff _,
        fun x hx => (rings x).trans (s.ring_modRing_ne p x _ hx), (s.modRing_only p _).andThen only⟩
      · rw [ring]; exact memory
      · rw [ring, Ring.advanceHead, Ring.passedOf_eq, Ring.passedOf_eq]; rfl
    · refine ⟨_, refused hs (Nat.not_le.mp hw), ?_, fun _ h => absurd h hw, fun _ _ => ?_, nofun, State.interrupt_iff _,
        fun x hx => s.ring_modRing_ne p x _ hx, s.modRing_only p _⟩
      · rw [s.ring_modRing_self]; exact memory
      · rw [s.ring_modRing_self]; rfl

end Sys2Proof.Machine
end

section
/-!
PROOFS. What a fence does part by part (R160): streams that are parked (R31), requests that are orphaned or leave the credit wait list (R66,
R67, R80), orders that end (R104), read windows that close (R127) and the ring that empties (R163).
-/

namespace Sys2Proof.Machine

/-! ## Streams, windows and credit that a seal or an end leaves -/

/-- A stream that is parked and holds nothing of the part (R31). -/
def StreamRecord.Parked (r : StreamRecord) : Prop :=
  r.state = .parked ∧ r.port = none ∧ r.young = [] ∧ ∀ q, r.slots.get q = none

/-- A stream record that becomes another by seals: its state, port and drain stay, no slot of it is filled, and, while it is not bound, no
unit joins its young list (R38, R58). -/
structure StreamRecord.Settles (r r' : StreamRecord) : Prop where
  state : r'.state = r.state
  port : r'.port = r.port
  drain : r'.drain = r.drain
  slots : ∀ k, r.slots.get k = none → r'.slots.get k = none
  young : r.state.bound = false → r'.young ⊆ r.young

theorem StreamRecord.Settles.refl (r : StreamRecord) : r.Settles r := ⟨rfl, rfl, rfl, fun _ h => h, fun _ _ h => h⟩

theorem StreamRecord.Settles.trans {r r' r'' : StreamRecord} (h : r.Settles r') (k : r'.Settles r'') : r.Settles r'' where
  state := k.state.trans h.state
  port := k.port.trans h.port
  drain := k.drain.trans h.drain
  slots q hq := k.slots q (h.slots q hq)
  young hb := List.Subset.trans (k.young (by rw [h.state]; exact hb)) (h.young hb)

theorem StreamRecord.Settles.parked {r r' : StreamRecord} (h : r.Settles r') (hp : r.Parked) : r'.Parked := by
  obtain ⟨state, port, young, slots⟩ := hp
  refine ⟨h.state.trans state, h.port.trans port, ?_, fun q => h.slots q (slots q)⟩
  have := h.young (by rw [state]; rfl)
  rw [young] at this
  exact List.subset_nil.mp this

/-- Two states agree on every die's windows and lapsed flags. -/
def State.WindowsKept (s t : State) : Prop :=
  ∀ d, (t.dies.get d).windows = (s.dies.get d).windows ∧ (t.dies.get d).lapsed = (s.dies.get d).lapsed

theorem State.WindowsKept.trans {s t v : State} (h : s.WindowsKept t) (k : t.WindowsKept v) : s.WindowsKept v := fun d =>
  ⟨(k d).1.trans (h d).1, (k d).2.trans (h d).2⟩

theorem State.WindowsKept.of_dies {s t : State} (h : t.dies = s.dies) : s.WindowsKept t := fun d => by rw [h]; exact ⟨rfl, rfl⟩

/-- What seals, and the ends of orphaned requests and of orders, leave of the streams, the windows and the credit. -/
structure State.Settles (s t : State) : Prop where
  streams : ∀ x, (s.streams.get x).Settles (t.streams.get x)
  windows : s.WindowsKept t
  waiting : ∀ e ∈ t.credit.waitList, ∃ y ∈ s.credit.waitList, y.ctx = e.ctx
  shares : t.credit.shares = s.credit.shares

theorem State.Settles.refl (s : State) : s.Settles s := ⟨fun _ => .refl _, .of_dies rfl, fun e h => ⟨e, h, rfl⟩, rfl⟩

theorem State.Settles.trans {s t v : State} (h : s.Settles t) (k : t.Settles v) : s.Settles v where
  streams x := (h.streams x).trans (k.streams x)
  windows := h.windows.trans k.windows
  waiting e he := by
    obtain ⟨y, hy, hye⟩ := k.waiting e he
    obtain ⟨z, hz, hzy⟩ := h.waiting y hy
    exact ⟨z, hz, hzy.trans hye⟩
  shares := k.shares.trans h.shares

theorem State.Settles.foldl {α : Type} {f : State → α → State} (l : List α) (h : ∀ (s : State), ∀ a ∈ l, s.Settles (f s a)) (s : State) :
    s.Settles (l.foldl f s) := by
  induction l generalizing s with
  | nil => exact .refl s
  | cons a l ih => exact (h s a (.head _)).trans (ih (fun t b hb => h t b (.tail _ hb)) (f s a))

/-- A change of none of the streams, the dies and the credit. -/
theorem State.Only.settles {s t : State} {fs : List Field} (h : s.Only fs t) (hs : Field.streams ∉ fs := by decide)
    (hd : Field.dies ∉ fs := by decide) (hc : Field.credit ∉ fs := by decide) : s.Settles t where
  streams x := by rw [h .streams hs]; exact .refl _
  windows := .of_dies (h .dies hd)
  waiting e he := ⟨e, by rwa [h .credit hc] at he, rfl⟩
  shares := congrArg Credit.shares (h .credit hc)

/-- A transition of a unit that puts none on the young list of a stream that is not bound. -/
theorem State.UnitChange.settles {s t : State} {u : Nat} (h : s.UnitChange u t)
    (young : ∀ x, (s.streams.get x).state.bound = false → (t.streams.get x).young ⊆ (s.streams.get x).young) : s.Settles t where
  streams x := by
    have hx := h.streams x
    exact ⟨by rw [hx], by rw [hx], by rw [hx], fun k hk => by rw [hx]; exact hk, young x⟩
  windows d := by rw [h.dies d]; exact ⟨rfl, rfl⟩
  waiting e he := ⟨e, by rwa [h.only .credit (by decide)] at he, rfl⟩
  shares := congrArg Credit.shares (h.only .credit (by decide))

theorem State.sealUnit_settles (s : State) (u : Nat) : s.Settles (s.sealUnit u) := (s.sealUnit_change u).settles (s.sealUnit_young u)

theorem State.returnToSealed_settles (s : State) (u : Nat) : s.Settles (s.returnToSealed u) :=
  (s.returnToSealed_change u).settles (fun x _ => by
    have := (s.toSealed u).checkEmpty_young u x
    rwa [s.toSealed_only u .streams (by decide)] at this)

/-- A change of one stream's record that is a settling one. -/
theorem State.modStream_settles (s : State) (st : StreamId) (f : StreamRecord → StreamRecord)
    (h : ∀ r : StreamRecord, r.Settles (f r)) :
    s.Settles (s.modStream st f) where
  streams x := by
    rw [State.modStream_streams, Table.get_modify]; split
    · exact h _
    · exact .refl _
  windows := .of_dies rfl
  waiting e he := ⟨e, he, rfl⟩
  shares := rfl

theorem State.emptySlot_settles (s : State) (st : StreamId) (q : Position) : s.Settles (s.emptySlot st q) :=
  s.modStream_settles st _ (fun r => ⟨rfl, rfl, rfl, fun k hk => by rw [Table.get_set]; split <;> [rfl; exact hk], fun _ _ h => h⟩)

/-- Calling for waiting work marks entries, and changes none otherwise (R55). -/
theorem State.callWork_settles (s : State) (p : StreamId → Bool) : s.Settles (s.callWork p) where
  streams _ := .refl _
  windows := .of_dies rfl
  waiting e he := by
    obtain ⟨y, hy, rfl⟩ := List.mem_map.mp he
    exact ⟨y, hy, by split <;> rfl⟩
  shares := rfl

theorem State.applyPending_settles (s : State) (st : StreamId) : s.Settles (s.applyPending st) := by
  unfold State.applyPending; dsimp only; split
  · split
    · refine .trans (s.modStream_settles st _ (fun _ => ?_)) (State.callWork_settles _ _)
      exact ⟨rfl, rfl, rfl, fun _ h => h, fun _ _ h => h⟩
    · exact .refl s
  · exact .refl s

theorem State.sealSlot_settles (s : State) (st : StreamId) (q : Position) : s.Settles (s.sealSlot st q) := by
  unfold State.sealSlot; split
  · exact .refl s
  · exact ((s.emptySlot_settles st q).trans (State.sealUnit_settles _ _)).trans (State.applyPending_settles _ st)

theorem State.sealAllSlots_settles (s : State) (st : StreamId) : s.Settles (s.sealAllSlots st) :=
  (State.Settles.foldl _ (fun s q _ => s.sealSlot_settles st q) s).trans (State.applyPending_settles _ st)

theorem State.requestGone_settles (s : State) (st : StreamId) : s.Settles (s.requestGone st) := by
  have counted : s.Settles (s.modStream st (fun r => { r with outstanding := r.outstanding - 1 })) :=
    s.modStream_settles st _ (fun _ => ⟨rfl, rfl, rfl, fun _ h => h, fun _ _ h => h⟩)
  unfold State.requestGone; dsimp only; split
  · exact counted.trans (State.sealAllSlots_settles _ st)
  · exact counted

/-! ## Reservations that are released -/

/-- Port `p` with the reservations of the slots in a list released in turn, and the other ports as before (R153, R161). -/
structure State.Releases (s : State) (p : MasterId) (l : List ReplySlot) (t : State) : Prop where
  self : t.masters.get p = { s.masters.get p with ring := l.foldl Ring.release (s.masters.get p).ring }
  others : s.OtherPorts p t

theorem State.Releases.of_masters {s t : State} {p : MasterId} (h : t.masters = s.masters) : s.Releases p [] t :=
  ⟨by rw [h]; rfl, fun q _ => by rw [h]⟩

theorem State.Releases.trans {s t v : State} {p : MasterId} {l m : List ReplySlot} (h : s.Releases p l t) (k : t.Releases p m v) :
    s.Releases p (l ++ m) v where
  self := by rw [k.self, h.self, List.foldl_append]
  others q hq := (k.others q hq).trans (h.others q hq)

/-- A change that leaves the ports, before or after a release. -/
theorem State.Releases.after {s t v : State} {p : MasterId} {l : List ReplySlot} (h : s.Releases p l t) (k : v.masters = t.masters) :
    s.Releases p l v := by simpa using h.trans (.of_masters k)

theorem State.Releases.before {s t v : State} {p : MasterId} {l : List ReplySlot} (k : t.masters = s.masters) (h : t.Releases p l v) :
    s.Releases p l v := (State.Releases.of_masters k).trans h

theorem State.releaseSlot_releases (s : State) (p : MasterId) (i : ReplySlot) : s.Releases p [i] (s.releaseSlot p i) where
  self := by rw [State.releaseSlot, State.modRing_master_masters, Table.get_modify_self]; rfl
  others q hq := by rw [State.releaseSlot, State.modRing_master_masters, Table.get_modify_ne _ _ _ _ hq]

theorem State.releaseSlots_cases (s : State) (p : MasterId) (l : List ReplySlot) :
    s.Only [.masters] (l.foldl (fun t i => t.releaseSlot p i) s) ∧ s.Releases p l (l.foldl (fun t i => t.releaseSlot p i) s) := by
  refine ⟨.foldl _ _ _ (fun s i => s.releaseSlot_only p i) s, ?_⟩
  induction l generalizing s with
  | nil => exact .of_masters rfl
  | cons i l ih => exact (s.releaseSlot_releases p i).trans (ih (s.releaseSlot p i))

/-- Released reservations leave the holdings and the list of reservations, and the ring nothing else. -/
theorem Ring.foldl_release (l : List ReplySlot) (r : Ring) : l.foldl Ring.release r = { r with
    reservations := (l.foldl Ring.release r).reservations
    replyHoldings := (l.foldl Ring.release r).replyHoldings } := by
  induction l generalizing r with
  | nil => rfl
  | cons i l ih => rw [List.foldl_cons, ih]; rfl

/-! ## The streams that are parked (R31) -/

/-- The slot of a drain that is cut off. -/
def State.drainSlots (s : State) (st : StreamId) : List ReplySlot := ((s.streams.get st).drain.map (·.slot)).toList

theorem State.mem_boundStreams (s : State) (p : MasterId) (st : StreamId) : st ∈ s.boundStreams p ↔ (s.streams.get st).port = some p := by
  simp [State.boundStreams, Table.mem_indices]

theorem State.boundStreams_nodup (s : State) (p : MasterId) : (s.boundStreams p).Nodup := (List.nodup_finRange _).filter _

/-- A stream of a fenced port before the reservation of its drain is released (R31). -/
def State.unbindStream (s : State) (st : StreamId) : State :=
  ((s.sealAllSlots st).emptyYoung st).modStream st (fun r => { r with state := .parked, port := none, drain := none })

theorem State.unbindStream_cases (s : State) (st : StreamId) :
    ((s.unbindStream st).streams.get st).Parked ∧ (∀ x, x ≠ st → (s.streams.get x).Settles ((s.unbindStream st).streams.get x)) ∧
    s.WindowsKept (s.unbindStream st) ∧ (s.unbindStream st).masters = s.masters := by
  unfold State.unbindStream
  obtain ⟨-, empty, -⟩ := s.sealAllSlots_cases st
  have settles := s.sealAllSlots_settles st
  have only := s.sealAllSlots_only st
  generalize s.sealAllSlots st = a at empty settles only
  have streams := a.emptyYoung_streams st
  have only' := a.emptyYoung_only st
  generalize a.emptyYoung st = b at streams only'
  refine ⟨?_, fun x hx => ?_, settles.windows.trans (.of_dies (only' .dies (by decide))),
    (only' .masters (by decide)).trans (only .masters (by decide))⟩
  · rw [State.modStream_streams, Table.get_modify_self, streams, Table.get_modify_self]
    exact ⟨rfl, rfl, rfl, empty⟩
  · rw [State.modStream_streams, Table.get_modify_ne _ _ _ _ hx, streams, Table.get_modify_ne _ _ _ _ hx]
    exact settles.streams x

/-- Parking a stream of a port unbinds it and releases the reservation of its drain, if it has one (R29, R161). -/
theorem State.parkStream_eq (s : State) (p : MasterId) (st : StreamId) (h : (s.streams.get st).port = some p) :
    s.parkStream st = (s.drainSlots st).foldl (fun t i => t.releaseSlot p i) (s.unbindStream st) := by
  have settled := (s.sealAllSlots_settles st).streams st
  unfold State.parkStream State.unbindStream
  generalize s.sealAllSlots st = a at settled
  have record : (a.emptyYoung st).streams.get st = { a.streams.get st with young := [] } := by
    rw [State.emptyYoung_streams, Table.get_modify_self]
  generalize a.emptyYoung st = b at record
  have port : (b.streams.get st).port = some p := by rw [record]; exact settled.port.trans h
  have drain : (b.streams.get st).drain = (s.streams.get st).drain := by rw [record]; exact settled.drain
  dsimp only
  rw [port, drain, State.drainSlots]
  cases (s.streams.get st).drain <;> rfl

/-- What parking a stream of a port does: the stream is parked, its drain's reservation is released, and the others settle (R29, R31). -/
theorem State.parkStream_cases (s : State) (p : MasterId) (st : StreamId) (h : (s.streams.get st).port = some p) :
    ((s.parkStream st).streams.get st).Parked ∧ (∀ x, x ≠ st → (s.streams.get x).Settles ((s.parkStream st).streams.get x)) ∧
    s.WindowsKept (s.parkStream st) ∧ s.Releases p (s.drainSlots st) (s.parkStream st) := by
  rw [s.parkStream_eq p st h]
  obtain ⟨parked, others, windows, masters⟩ := s.unbindStream_cases st
  generalize s.unbindStream st = c at parked others windows masters
  obtain ⟨only, releases⟩ := c.releaseSlots_cases p (s.drainSlots st)
  generalize (s.drainSlots st).foldl (fun t i => t.releaseSlot p i) c = t at only releases
  have streams : t.streams = c.streams := only .streams (by decide)
  exact ⟨by rw [streams]; exact parked, by rw [streams]; exact others, windows.trans (.of_dies (only .dies (by decide))),
    releases.before masters⟩

/-- What parking streams of a port one after another does. -/
theorem State.parkStreams_fold (s : State) (p : MasterId) (l : List StreamId) (nodup : l.Nodup)
    (bound : ∀ st ∈ l, (s.streams.get st).port = some p) :
    (∀ st ∈ l, ((l.foldl State.parkStream s).streams.get st).Parked) ∧
    (∀ st, st ∉ l → (s.streams.get st).Settles ((l.foldl State.parkStream s).streams.get st)) ∧
    s.WindowsKept (l.foldl State.parkStream s) ∧ s.Releases p (l.flatMap s.drainSlots) (l.foldl State.parkStream s) := by
  induction l using List.reverseRecOn with
  | nil => exact ⟨nofun, fun _ _ => .refl _, .of_dies rfl, .of_masters rfl⟩
  | append_singleton l a ih =>
    obtain ⟨hl, -, hne⟩ := List.nodup_append.mp nodup
    obtain ⟨parked, others, windows, releases⟩ := ih hl (fun st h => bound st (List.mem_append_left _ h))
    rw [List.foldl_append, List.foldl_cons, List.foldl_nil]
    generalize l.foldl State.parkStream s = m at parked others windows releases
    have same := others a (fun h => hne a h a (.head _) rfl)
    obtain ⟨parks, settles, kept, frees⟩ := m.parkStream_cases p a (same.port.trans (bound a (by simp)))
    generalize m.parkStream a = t at parks settles kept frees
    have drains : m.drainSlots a = s.drainSlots a := by simp only [State.drainSlots, same.drain]
    refine ⟨fun st h => ?_, fun st h => ?_, windows.trans kept, ?_⟩
    · by_cases ha : st = a
      · rw [ha]; exact parks
      · exact (settles st ha).parked (parked st ((List.mem_append.mp h).resolve_right (by simpa using ha)))
    · simp only [List.mem_append, List.mem_singleton, not_or] at h
      exact (others st h.1).trans (settles st h.2)
    · rw [List.flatMap_append, List.flatMap_singleton, ← drains]
      exact releases.trans frees

/-- What parking every stream of a port does (R31, R160). -/
theorem State.parkStreams_cases (s : State) (p : MasterId) :
    let t := (s.boundStreams p).foldl State.parkStream s
    (∀ st, (s.streams.get st).port = some p → (t.streams.get st).Parked) ∧
    (∀ st, (s.streams.get st).port ≠ some p → (t.streams.get st).port = (s.streams.get st).port) ∧ s.WindowsKept t ∧
    s.Releases p ((s.boundStreams p).flatMap s.drainSlots) t := by
  have bound := s.mem_boundStreams p
  obtain ⟨parked, others, windows, releases⟩ :=
    s.parkStreams_fold p (s.boundStreams p) (s.boundStreams_nodup p) (fun st => (bound st).mp)
  exact ⟨fun st h => parked st ((bound st).mpr h), fun st h => (others st (fun hm => h ((bound st).mp hm))).port, windows, releases⟩

/-! ## The requests that are orphaned (R66, R67, R80) -/

/-- Two states agree on every re-placement list. -/
def State.ReplaceKept (s t : State) : Prop := ∀ st, (t.lines.get st).replace = (s.lines.get st).replace

theorem State.ReplaceKept.trans {s t v : State} (h : s.ReplaceKept t) (k : t.ReplaceKept v) : s.ReplaceKept v := fun st =>
  (k st).trans (h st)

theorem State.ReplaceKept.foldl {α : Type} {f : State → α → State} (h : ∀ (s : State) (a : α), s.ReplaceKept (f s a)) (l : List α)
    (s : State) : s.ReplaceKept (l.foldl f s) := by
  induction l generalizing s with
  | nil => exact fun _ => rfl
  | cons a l ih => exact (h s a).trans (ih (f s a))

theorem State.modLines_replaceKept (s : State) (i : StreamId) (f : StreamLines → StreamLines) (h : ∀ l, (f l).replace = l.replace) :
    s.ReplaceKept (s.modLines i f) := fun st => by
  rw [State.modLines_lines, Table.get_modify]; split
  · exact h _
  · rfl

theorem State.examineCredit_replaceKept (s : State) (n : Tenant) : s.ReplaceKept (s.examineCredit n) :=
  .foldl (fun s e => by
    unfold State.examineEntry; split
    · intro st
      rw [State.admitEntry_lines]
      exact s.modLines_replaceKept e.stream _ (fun l => by cases e.cls <;> rfl) st
    · exact fun _ => rfl) _ s

/-- Whether a request has ended is read from its context and the re-placement lists alone (R62, R67). -/
theorem State.ReplaceKept.requestEnded {s t : State} (h : s.ReplaceKept t) (x : WriteContext) : t.requestEnded x = s.requestEnded x := by
  have waits : t.replaceWaits x.id = s.replaceWaits x.id := by
    rw [Bool.eq_iff_iff]
    simp only [State.replaceWaits, List.any_eq_true, Table.mem_items, exists_exists_eq_and]
    exact exists_congr (fun st => by rw [h st])
  simp only [State.requestEnded, waits]

/-- A request as a fence of port `p` leaves its context (R67). -/
def WriteContext.orphanedBy (p : MasterId) (x : WriteContext) : WriteContext := if x.id.port = p then { x with orphaned := true } else x

theorem WriteContext.orphanedBy_id (p : MasterId) (x : WriteContext) : (x.orphanedBy p).id = x.id := by
  unfold orphanedBy; split <;> rfl

theorem WriteContext.orphanedBy_orphaned (p : MasterId) (x : WriteContext) (h : (x.orphanedBy p).id.port = p) :
    (x.orphanedBy p).orphaned = true := by
  rw [WriteContext.orphanedBy_id] at h
  unfold orphanedBy; rw [if_pos h]

theorem State.orphanContexts_cases (s : State) (p : MasterId) :
    (s.orphanContexts p).contexts = s.contexts.map (WriteContext.orphanedBy p) ∧ s.ReplaceKept (s.orphanContexts p) := by
  have left := State.ReplaceKept.foldl (f := fun s (x : WriteContext) => s.leaveLines x.stream x.id)
    (fun s x => s.modLines_replaceKept x.stream _ (fun _ => rfl)) (s.liveContexts p) s
  have only := State.Only.foldl [.lines] (s.liveContexts p) _ (fun (s : State) (x : WriteContext) => s.leaveLines_only x.stream x.id) s
  exact ⟨congrArg (List.map _) (only .contexts (by decide)), left⟩

/-- What a fence does to the credit wait list and the shares (R80). -/
theorem State.fenceCredit_cases (s : State) (p : MasterId) :
    (∀ e ∈ (s.fenceCredit p).credit.waitList, e.ctx.port ≠ p) ∧ (s.fenceCredit p).credit.shares.get p = 0 ∧
    s.ReplaceKept (s.fenceCredit p) := by
  have eq : s.fenceCredit p = ((List.finRange 64).filter (fun t =>
      (s.credit.waitList.filter (fun e => decide (e.ctx.port = p))).any (fun e => decide (e.tenant = t)))).foldl State.examineCredit
      { s with credit := { s.credit with
          waitList := s.credit.waitList.filter (fun e => decide (e.ctx.port ≠ p)), shares := s.credit.shares.set p 0 } } := rfl
  rw [eq]
  generalize (List.finRange 64).filter _ = l
  generalize hu : ({ s with credit := { s.credit with
    waitList := s.credit.waitList.filter (fun e => decide (e.ctx.port ≠ p)), shares := s.credit.shares.set p 0 } } : State) = u
  have waits : ∀ e ∈ u.credit.waitList, e.ctx.port ≠ p := fun e he => by
    subst hu; exact of_decide_eq_true (List.mem_filter.mp he).2
  have share : u.credit.shares.get p = 0 := by subst hu; exact Table.get_set_self _ _ _
  have lines : s.ReplaceKept u := by subst hu; exact fun _ => rfl
  have admitted : u.Admitted (l.foldl State.examineCredit u) := by
    clear hu waits share lines eq
    induction l generalizing u with
    | nil => exact .refl u
    | cons n l ih => exact (u.examineCredit_admitted n).trans (ih _)
  exact ⟨fun e he => waits e (admitted.waitList he), by rw [admitted.shares]; exact share,
    lines.trans (.foldl State.examineCredit_replaceKept l u)⟩

/-- The end of an orphaned request of a port: its reservation is released, its context goes, and the rest settles (R62, R67). -/
theorem State.endRequest_orphaned (s : State) (p : MasterId) (x : WriteContext) (ho : x.orphaned = true) (hp : x.id.port = p) :
    s.Settles (s.endRequest x) ∧ (s.endRequest x).contexts ⊆ s.contexts ∧ s.Releases p [x.id.slot] (s.endRequest x) := by
  have answered : s.answerWrite x = s.releaseSlot p x.id.slot := by rw [State.answerWrite, if_pos ho, hp]
  have shared : (s.releaseSlot p x.id.slot).leaveShare x = s.releaseSlot p x.id.slot := by simp [State.leaveShare, ho]
  have eq : s.endRequest x = ((s.releaseSlot p x.id.slot).dropContext x.id).requestGone x.stream := by
    rw [State.endRequest, answered, shared]
  rw [eq]
  have sa := s.releaseSlot_only p x.id.slot
  have releases := s.releaseSlot_releases p x.id.slot
  generalize s.releaseSlot p x.id.slot = a at sa releases
  have ab := a.dropContext_only x.id
  have bt := (a.dropContext x.id).requestGone_only x.stream
  refine ⟨(sa.settles.trans ab.settles).trans (State.requestGone_settles _ _), ?_,
    (releases.after (ab .masters (by decide))).after (bt .masters (by decide))⟩
  rw [bt .contexts (by decide), ← sa .contexts (by decide)]
  exact List.filter_subset_self _

theorem State.endOrphaned_fold (p : MasterId) (l : List WriteContext) (s : State) (h : ∀ x ∈ l, x.orphaned = true ∧ x.id.port = p) :
    let t := l.foldl State.endRequest s
    s.Settles t ∧ t.contexts ⊆ s.contexts ∧ s.Releases p (l.map (·.id.slot)) t := by
  induction l generalizing s with
  | nil => exact ⟨.refl s, fun _ h => h, .of_masters rfl⟩
  | cons x l ih =>
    obtain ⟨ho, hp⟩ := h x (.head _)
    obtain ⟨settles, contexts, releases⟩ := s.endRequest_orphaned p x ho hp
    obtain ⟨settles', contexts', releases'⟩ := ih (s.endRequest x) (fun y hy => h y (.tail _ hy))
    exact ⟨settles.trans settles', List.Subset.trans contexts' contexts, releases.trans releases'⟩

/-- The slots of the requests of a port that a fence ends within its event, as nothing holds them open (R66, R67; log entry 12). -/
def State.orphanSlots (s : State) (p : MasterId) : List ReplySlot :=
  ((s.contexts.map (WriteContext.orphanedBy p)).filter (fun x => decide (x.id.port = p) && x.orphaned && s.requestEnded x)).map (·.id.slot)

/-- What a fence does to the requests of its port (R66, R67, R80). -/
theorem State.fenceRequests_cases (s : State) (p : MasterId) :
    let t := ((s.orphanContexts p).fenceCredit p).endOrphans p
    (∀ x ∈ t.contexts, x.id.port = p → x.orphaned = true) ∧ (∀ e ∈ t.credit.waitList, e.ctx.port ≠ p) ∧ t.credit.shares.get p = 0 ∧
    (∀ st, (s.streams.get st).Settles (t.streams.get st)) ∧ s.WindowsKept t ∧ s.Releases p (s.orphanSlots p) t := by
  obtain ⟨contexts, alines⟩ := s.orphanContexts_cases p
  have sa := s.orphanContexts_only p
  generalize s.orphanContexts p = a at contexts alines sa
  obtain ⟨waiting, share, blines⟩ := a.fenceCredit_cases p
  have ab := a.fenceCredit_only p
  have bcontexts : (a.fenceCredit p).contexts = s.contexts.map (WriteContext.orphanedBy p) :=
    (ab .contexts (by decide)).trans contexts
  generalize a.fenceCredit p = b at waiting share blines ab bcontexts
  have sb : s.Only [.contexts, .lines, .tenants, .credit] b := (sa.mono (by decide)).andThen ab
  have slots : (b.contexts.filter (fun x => decide (x.id.port = p) && x.orphaned && b.requestEnded x)).map (·.id.slot) = s.orphanSlots p := by
    simp only [State.orphanSlots, bcontexts, (alines.trans blines).requestEnded]
  have ended : ∀ x ∈ b.contexts.filter (fun x => decide (x.id.port = p) && x.orphaned && b.requestEnded x),
      x.orphaned = true ∧ x.id.port = p := fun x hx => by
    have := (List.mem_filter.mp hx).2
    simp only [Bool.and_eq_true, decide_eq_true_eq] at this
    exact ⟨this.1.2, this.1.1⟩
  obtain ⟨settles, fewer, releases⟩ := State.endOrphaned_fold p _ b ended
  rw [slots] at releases
  have streams : ∀ st, (s.streams.get st).Settles (b.streams.get st) := fun st => by rw [sb .streams (by decide)]; exact .refl _
  refine ⟨fun x hx hp => ?_, fun e he => ?_, ?_, fun st => (streams st).trans (settles.streams st),
    (State.WindowsKept.of_dies (sb .dies (by decide))).trans settles.windows, releases.before (sb .masters (by decide))⟩
  · obtain ⟨y, -, rfl⟩ := List.mem_map.mp (bcontexts ▸ fewer hx)
    exact y.orphanedBy_orphaned p hp
  · obtain ⟨y, hy, hye⟩ := settles.waiting e he
    rw [← hye]; exact waiting y hy
  · show (State.credit _).shares.get p = 0
    rw [State.endOrphans, settles.shares]; exact share

/-! ## The orders that end (R104) -/

/-- The end of one slot's order at a fence of its port: no order of the port is left in the slot, and the others stay (R104). -/
theorem State.fenceSlot_cases (s : State) (p : MasterId) (r : NoticeRef) :
    (∀ o, (s.fenceSlot p r).order r = some o → o.port ≠ p) ∧ (∀ x, x ≠ r → (s.fenceSlot p r).order x = s.order x) ∧
    s.Settles (s.fenceSlot p r) := by
  have freed : ∀ a : State, (∀ x, a.order x = s.order x) → s.Settles a →
      (∀ o, (a.setOrder r none).order r = some o → o.port ≠ p) ∧ (∀ x, x ≠ r → (a.setOrder r none).order x = s.order x) ∧
      s.Settles (a.setOrder r none) := fun a orders settles =>
    ⟨fun o h => (by rw [a.order_setOrder_none] at h; cases h), fun x hx => (a.order_setOrder_ne r x none hx).trans (orders x),
      settles.trans (a.setOrder_only r none).settles⟩
  have returned : ∀ u, (∀ x, (s.returnToSealed u).order x = s.order x) ∧ s.Settles (s.returnToSealed u) := fun u =>
    ⟨(s.returnToSealed_change u).order, s.returnToSealed_settles u⟩
  have dropped : ∀ (a : State) (q : MasterId), (∀ x, (a.dropNotice q r).order x = a.order x) ∧ a.Settles (a.dropNotice q r) := fun a q =>
    ⟨State.order_congr (a.dropNotice_only q r .groups (by decide)), (a.dropNotice_only q r).settles⟩
  unfold State.fenceSlot
  cases ho : s.order r with
  | none => exact ⟨fun o h => (by rw [ho] at h; cases h), fun _ _ => rfl, .refl s⟩
  | some o =>
    dsimp only
    split
    · cases o.phase with
      | pending =>
        obtain ⟨orders, settles⟩ := returned o.unit
        obtain ⟨orders', settles'⟩ := dropped (s.returnToSealed o.unit) o.port
        exact freed _ (fun x => (orders' x).trans (orders x)) (settles.trans settles')
      | issued n => exact freed _ (returned o.unit).1 (returned o.unit).2
      | closing c => exact freed _ (dropped s p).1 (dropped s p).2
    · next hp => exact ⟨fun v h => (by rw [ho] at h; cases h; exact hp), fun _ _ => rfl, .refl s⟩

/-- What a fence does to the orders, the notices and the expiry memory of its port (R104). -/
theorem State.fenceOrders_cases (s : State) (p : MasterId) :
    let t := s.fenceOrders p
    (∀ r o, t.order r = some o → o.port ≠ p) ∧ t.reclaim.notices.get p = [] ∧ t.reclaim.expiry.get p = [] ∧ s.Settles t := by
  have ended := foldl_done (fun done t => (∀ r ∈ done, ∀ o, t.order r = some o → o.port ≠ p) ∧ s.Settles t)
    (fun s r => s.fenceSlot p r) allSlots allSlots_nodup s ⟨nofun, .refl s⟩ (fun done t a ha ⟨free, settles⟩ => by
      obtain ⟨now, others, settles'⟩ := t.fenceSlot_cases p a
      refine ⟨fun r hr o h => ?_, settles.trans settles'⟩
      by_cases hra : r = a
      · subst hra; exact now o h
      · rw [others r hra] at h
        exact free r ((List.mem_append.mp hr).resolve_right (by simpa using hra)) o h)
  obtain ⟨free, settles⟩ := ended
  generalize hm : allSlots.foldl (fun s r => s.fenceSlot p r) s = m at free settles
  have eq : s.fenceOrders p = { m.modNotices p (fun _ => []) with reclaim :=
      { (m.modNotices p (fun _ => [])).reclaim with expiry := (m.modNotices p (fun _ => [])).reclaim.expiry.set p [] } } := by
    rw [← hm]; rfl
  rw [eq]
  exact ⟨fun r o h => free r (mem_allSlots r) o h, Table.get_modify_self _ _ _, Table.get_set_self _ _ _,
    settles.trans ((m.modNotices_only p _).settles.trans (State.setReclaim_only _ _).settles)⟩

/-! ## The windows that close (R127) -/

/-- The slot of a READ-WINDOW that waits on a die. -/
def State.windowSlots (s : State) (p : MasterId) (d : DieId) : List ReplySlot :=
  match (s.dies.get d).windows.get p with
  | .waiting pl => [pl.slot]
  | _ => []

theorem State.fenceWindow_eq (s : State) (p : MasterId) (d : DieId) : s.fenceWindow p d =
    (s.windowSlots p d).foldl (fun t i => t.releaseSlot p i)
      (s.modDie d (fun r => { r with windows := r.windows.set p .closed, lapsed := r.lapsed.set p false })) := by
  unfold State.fenceWindow State.windowSlots
  cases (s.dies.get d).windows.get p <;> rfl

theorem State.fenceWindow_cases (s : State) (p : MasterId) (d : DieId) :
    ((s.fenceWindow p d).dies.get d).windows.get p = .closed ∧ ((s.fenceWindow p d).dies.get d).lapsed.get p = false ∧
    s.OtherDies d (s.fenceWindow p d) ∧ s.Releases p (s.windowSlots p d) (s.fenceWindow p d) := by
  rw [s.fenceWindow_eq]
  obtain ⟨only, releases⟩ := State.releaseSlots_cases
    (s.modDie d (fun r => { r with windows := r.windows.set p .closed, lapsed := r.lapsed.set p false })) p (s.windowSlots p d)
  rw [State.OtherDies, only .dies (by decide), State.modDie_dies, Table.get_modify_self]
  exact ⟨Table.get_set_self _ _ _, Table.get_set_self _ _ _, fun x hx => Table.get_modify_ne _ _ _ _ hx, releases.before (State.modDie_masters _ _ _)⟩

/-- What a fence does to the windows of its port (R127). -/
theorem State.fenceWindows_cases (s : State) (p : MasterId) :
    let t := (List.finRange 32).foldl (fun s d => s.fenceWindow p d) s
    (∀ d, (t.dies.get d).windows.get p = .closed ∧ (t.dies.get d).lapsed.get p = false) ∧
    s.Releases p ((List.finRange 32).flatMap (s.windowSlots p)) t := by
  obtain ⟨closed, -, releases⟩ := foldl_done (fun done t =>
      (∀ d ∈ done, (t.dies.get d).windows.get p = .closed ∧ (t.dies.get d).lapsed.get p = false) ∧
      (∀ d, d ∉ done → t.dies.get d = s.dies.get d) ∧ s.Releases p (done.flatMap (s.windowSlots p)) t)
    (fun s d => s.fenceWindow p d) (List.finRange 32) (List.nodup_finRange 32) s ⟨nofun, fun _ _ => rfl, .of_masters rfl⟩
    (fun done t a ha ⟨closed, others, releases⟩ => by
      obtain ⟨window, lapsed, rest, frees⟩ := t.fenceWindow_cases p a
      have slots : t.windowSlots p a = s.windowSlots p a := by simp only [State.windowSlots, others a ha]
      refine ⟨fun d hd => ?_, fun d hd => ?_, ?_⟩
      · by_cases hda : d = a
        · subst hda; exact ⟨window, lapsed⟩
        · rw [rest d hda]
          exact closed d ((List.mem_append.mp hd).resolve_right (by simpa using hda))
      · simp only [List.mem_append, List.mem_singleton, not_or] at hd
        rw [rest d hd.2, others d hd.1]
      · rw [List.flatMap_append, List.flatMap_singleton, ← slots]
        exact releases.trans frees)
  exact ⟨fun d => closed d (List.mem_finRange d), releases⟩

/-! ## The ring that empties (R163) -/

/-- An index word of 0 reads 0, and the memory around it stays. -/
theorem Memory.read_write_zero (m : Memory) (a x : Nat) :
    (m.write a (indexWord 0)).read x = if a ≤ x ∧ x < a + 4 then 0 else m.read x := by
  have word : indexWord 0 = List.replicate 4 0 := by decide
  rw [Memory.read_write, word]
  simp only [List.length_replicate, List.getD_eq_getElem?_getD, List.getElem?_replicate]
  split
  · split <;> rfl
  · rfl

/-- The memory of an emptied ring: the four index words are 0 (R160). -/
theorem Ring.emptied_read (r : Ring) (a : Nat) : r.emptied.mem.read a = if 0x0C00 ≤ a ∧ a < 0x0C10 then 0 else r.mem.read a := by
  have mem : r.emptied.mem = (((r.mem.write requestTailOffset (indexWord 0)).write requestHeadOffset (indexWord 0)).write replyTailOffset
      (indexWord 0)).write replyHeadOffset (indexWord 0) := rfl
  simp only [mem, Memory.read_write_zero, requestTailOffset, requestHeadOffset, replyTailOffset, replyHeadOffset]
  by_cases h : 0x0C00 ≤ a ∧ a < 0x0C10
  · rw [if_pos h]
    repeat (split; · rfl)
    omega
  · rw [if_neg h, if_neg (by omega), if_neg (by omega), if_neg (by omega), if_neg (by omega)]

/-- An emptied ring: its indices are 0, no notice is held and the reply holdings are the reservations (R160). -/
theorem Ring.emptied_eq (r : Ring) : r.emptied = { r with
    requestTail := 0, requestHead := 0, replyTail := 0, replyHead := 0
    replyHoldings := r.reservations.length, noticeHoldings := 0, mem := r.emptied.mem } := rfl

end Sys2Proof.Machine
end

section
/-!
PROOFS. The fence of a master port as a whole (R159, R160): INACTIVITY_FENCE, FENCE_PORT (R162) and REVIVE_PORT (R163).
-/

namespace Sys2Proof.Machine

/-! ## The fence, part after part -/

/-- A port that is marked as FENCED, with the cause in its record and in the sticky status (R160, R184). -/
def State.markFenced (s : State) (p : MasterId) (c : FenceCause) : State :=
  (s.modMaster p (fun m => { m with state := .fenced, cause := c, fenceDue := false })).flagFence p c

theorem State.markFenced_only (s : State) (p : MasterId) (c : FenceCause) : s.Only [.masters, .mgmt] (s.markFenced p c) :=
  ((s.modMaster_only p _).mono (by decide)).andThen (State.flagFence_only _ p c)

theorem State.markFenced_port (s : State) (p : MasterId) (c : FenceCause) :
    (s.markFenced p c).masters.get p = { s.masters.get p with state := .fenced, cause := c, fenceDue := false } ∧
    s.OtherPorts p (s.markFenced p c) ∧ (s.markFenced p c).mgmt.sticky.portFence.get p = c :=
  ⟨Table.get_modify_self _ _ _, fun _ hq => Table.get_modify_ne _ _ _ _ hq, Table.get_set_self _ _ _⟩

/-- The first part of a fence: the port is marked and its streams are parked (R31, R160). -/
def State.fenceStreams (s : State) (p : MasterId) (c : FenceCause) : State :=
  ((s.markFenced p c).boundStreams p).foldl State.parkStream (s.markFenced p c)

/-- A fence before its notice to M: the requests, orders and windows of the port have ended, and its ring is empty (R160). -/
def State.fenceHoldings (s : State) (p : MasterId) : State :=
  ((List.finRange 32).foldl (fun s d => s.fenceWindow p d) ((((s.orphanContexts p).fenceCredit p).endOrphans p).fenceOrders p)).modRing
    (.master p) Ring.emptied

theorem State.fence_eq (s : State) (p : MasterId) (c : FenceCause) : s.fence p c =
    (((s.fenceStreams p c).fenceHoldings p).offerManagement kindPortFenced
      (portFencedBody p c (s.boundStreams p).length (s.liveContexts p).length)).serveSuspended := rfl

/-- The reservations that a fence releases: those of drains that are cut off, of requests that end with it and of windows that wait (R161). -/
def State.fencedSlots (s : State) (p : MasterId) : List ReplySlot :=
  (s.boundStreams p).flatMap s.drainSlots ++ s.orphanSlots p ++ (List.finRange 32).flatMap (s.windowSlots p)

/-- A master port's record as a fence leaves it. -/
def MasterPort.fencedBy (m : MasterPort) (c : FenceCause) (slots : List ReplySlot) : MasterPort :=
  { m with state := .fenced, cause := c, fenceDue := false, ring := (slots.foldl Ring.release m.ring).emptied }

theorem State.fenceStreams_parks (s : State) (p : MasterId) (c : FenceCause) :
    (s.markFenced p c).Only [.units, .streams, .waiters, .credit, .groups, .dies, .masters] (s.fenceStreams p c) :=
  .foldl _ _ _ State.parkStream_only _

theorem State.fenceStreams_only (s : State) (p : MasterId) (c : FenceCause) :
    s.Only [.units, .streams, .waiters, .credit, .groups, .dies, .masters, .mgmt] (s.fenceStreams p c) :=
  ((s.markFenced_only p c).mono (by decide)).andThen (s.fenceStreams_parks p c)

/-- What the first part of a fence leaves of the streams, the windows and the ports. -/
theorem State.fenceStreams_cases (s : State) (p : MasterId) (c : FenceCause) :
    (∀ st, (s.streams.get st).port = some p → ((s.fenceStreams p c).streams.get st).Parked) ∧
    (∀ st, (s.streams.get st).port ≠ some p → ((s.fenceStreams p c).streams.get st).port ≠ some p) ∧
    s.WindowsKept (s.fenceStreams p c) ∧
    (s.markFenced p c).Releases p ((s.boundStreams p).flatMap s.drainSlots) (s.fenceStreams p c) ∧
    (s.fenceStreams p c).mgmt.sticky.portFence.get p = c := by
  obtain ⟨parked, others, windows, releases⟩ := (s.markFenced p c).parkStreams_cases p
  obtain ⟨-, -, flagged⟩ := s.markFenced_port p c
  refine ⟨parked, fun st h e => h ((others st h).symm.trans e), windows, releases, ?_⟩
  rw [s.fenceStreams_parks p c .mgmt (by decide)]; exact flagged

/-- What the second part of a fence leaves of its port and of what the port held (R160). -/
structure State.HoldingsFenced (s : State) (p : MasterId) (t : State) : Prop where
  contexts : ∀ x ∈ t.contexts, x.id.port = p → x.orphaned = true
  waiting : ∀ e ∈ t.credit.waitList, e.ctx.port ≠ p
  share : t.credit.shares.get p = 0
  orders : ∀ r o, t.order r = some o → o.port ≠ p
  notices : t.reclaim.notices.get p = []
  expiry : t.reclaim.expiry.get p = []
  windows : ∀ d, (t.dies.get d).windows.get p = .closed ∧ (t.dies.get d).lapsed.get p = false
  streams : ∀ st, (s.streams.get st).Settles (t.streams.get st)
  port : t.masters.get p = { s.masters.get p with
    ring := ((s.orphanSlots p ++ (List.finRange 32).flatMap (s.windowSlots p)).foldl Ring.release (s.masters.get p).ring).emptied }
  others : s.OtherPorts p t
  only : s.Only [.units, .streams, .tenants, .contexts, .lines, .waiters, .credit, .groups, .reclaim, .dies, .masters] t

theorem State.WindowsKept.windowSlots {s t : State} (h : s.WindowsKept t) (p : MasterId) : t.windowSlots p = s.windowSlots p :=
  funext (fun d => by simp only [State.windowSlots, (h d).1])

theorem State.fenceHoldings_fenced (s : State) (p : MasterId) : s.HoldingsFenced p (s.fenceHoldings p) := by
  unfold State.fenceHoldings
  obtain ⟨contexts, waiting, share, streams, windows, releases⟩ := s.fenceRequests_cases p
  have requestsOnly := ((((State.Only.refl s
    [.units, .streams, .tenants, .contexts, .lines, .waiters, .credit, .groups, .reclaim, .dies, .masters]).andThen
    (s.orphanContexts_only p)).andThen (State.fenceCredit_only _ p)).andThen (State.endOrphans_only _ p))
  generalize ((s.orphanContexts p).fenceCredit p).endOrphans p = a at contexts waiting share streams windows releases requestsOnly
  obtain ⟨orders, notices, expiry, settles⟩ := a.fenceOrders_cases p
  have ordersOnly := a.fenceOrders_only p
  generalize a.fenceOrders p = b at orders notices expiry settles ordersOnly
  obtain ⟨closed, frees⟩ := b.fenceWindows_cases p
  have windowsOnly := State.Only.foldl [.dies, .masters] (List.finRange 32) _ (fun s d => s.fenceWindow_only p d) b
  generalize (List.finRange 32).foldl (fun s d => s.fenceWindow p d) b = e at closed frees windowsOnly
  let t := e.modRing (.master p) Ring.emptied
  have bt : b.Only [.dies, .masters] t := windowsOnly.andThen (e.modRingMaster_only p _)
  have at' : a.Only [.units, .streams, .groups, .reclaim, .dies, .masters] t := (ordersOnly.mono (by decide)).andThen bt
  have all : s.Releases p (s.orphanSlots p ++ (List.finRange 32).flatMap (s.windowSlots p)) e := by
    rw [← (windows.trans settles.windows).windowSlots p]
    exact (releases.after (ordersOnly .masters (by decide))).trans frees
  refine ⟨?_, fun y hy => ?_, ?_, fun r o h => ?_, ?_, ?_, closed, fun st => ?_, ?_, fun q hq => ?_, requestsOnly.andThen at'⟩
  · rw [at' .contexts (by decide)]; exact contexts
  · exact waiting y (by rwa [at' .credit (by decide)] at hy)
  · rw [at' .credit (by decide)]; exact share
  · exact orders r o ((State.order_congr (bt .groups (by decide)) r).symm.trans h)
  · rw [bt .reclaim (by decide)]; exact notices
  · rw [bt .reclaim (by decide)]; exact expiry
  · rw [bt .streams (by decide)]; exact (streams st).trans (settles.streams st)
  · rw [State.modRing_master_masters, Table.get_modify_self, all.self]
  · rw [State.modRing_master_masters, Table.get_modify_ne _ _ _ _ hq]; exact all.others q hq

/-- What a fence does to the ports: the port's own record, the notice that is offered to M, and nothing to the others (R160, R183). -/
theorem State.fence_ports (s : State) (p : MasterId) (c : FenceCause) :
    (s.fence p c).masters.get p = (s.masters.get p).fencedBy c (s.fencedSlots p) ∧ s.OtherPorts p (s.fence p c) ∧
    (s.fence p c).mport = s.mport.offered (noticeRecord kindPortFenced
      (portFencedBody p c (s.boundStreams p).length (s.liveContexts p).length)) := by
  obtain ⟨-, -, windows, releases, -⟩ := s.fenceStreams_cases p c
  obtain ⟨marked, unmarked, -⟩ := s.markFenced_port p c
  have streamsOnly := s.fenceStreams_only p c
  rw [s.fence_eq]
  generalize portFencedBody p c _ _ = body
  generalize s.fenceStreams p c = a at windows releases streamsOnly
  have made := a.fenceHoldings_fenced p
  generalize a.fenceHoldings p = b at made
  obtain ⟨offered, -⟩ := b.offerManagement_ports kindPortFenced body
  have offer := b.offerManagement_only kindPortFenced body
  generalize b.offerManagement kindPortFenced body = e at offered offer
  have serve := e.serveSuspended_only
  have masters : e.serveSuspended.masters = b.masters := (serve .masters (by decide)).trans (offer .masters (by decide))
  have mport : b.mport = s.mport := (made.only .mport (by decide)).trans (streamsOnly .mport (by decide))
  have lines : s.ReplaceKept a := fun st => by rw [streamsOnly .lines (by decide)]
  have slots : a.orphanSlots p = s.orphanSlots p := by
    have contexts : a.contexts = s.contexts := streamsOnly .contexts (by decide)
    simp only [State.orphanSlots, lines.requestEnded, contexts]
  refine ⟨?_, fun q hq => ?_, by rw [serve .mport (by decide), offered, mport]⟩
  · rw [masters, made.port, releases.self, slots, windows.windowSlots p, marked]
    simp only [← List.foldl_append, ← List.append_assoc]
    rfl
  · rw [masters, made.others q hq, releases.others q hq, unmarked q hq]

/-- The memory of a fenced port: its index words are 0, and the rest stays (R160). -/
theorem MasterPort.fencedBy_read (m : MasterPort) (c : FenceCause) (slots : List ReplySlot) (a : Nat) :
    (m.fencedBy c slots).ring.mem.read a = if 0x0C00 ≤ a ∧ a < 0x0C10 then 0 else m.ring.mem.read a := by
  have mem : (slots.foldl Ring.release m.ring).mem = m.ring.mem := by rw [Ring.foldl_release]
  rw [MasterPort.fencedBy, Ring.emptied_read, mem]

/-- A fence leaves its port as R160 says. -/
theorem State.fence_fenced (s : State) (p : MasterId) (c : FenceCause) : s.Fenced p c (s.fence p c) := by
  obtain ⟨self, others, -⟩ := s.fence_ports p c
  have frame := s.fence_only p c
  obtain ⟨parked, unbound, -, -, flagged⟩ := s.fenceStreams_cases p c
  have eq := s.fence_eq p c
  generalize s.fence p c = t at self others frame eq
  generalize s.fencedSlots p = slots at self
  generalize portFencedBody p c _ _ = body at eq
  generalize s.fenceStreams p c = a at parked unbound flagged eq
  have made := a.fenceHoldings_fenced p
  generalize a.fenceHoldings p = b at made eq
  obtain ⟨-, sticky⟩ := b.offerManagement_ports kindPortFenced body
  have offer := b.offerManagement_only kindPortFenced body
  generalize b.offerManagement kindPortFenced body = e at offer sticky eq
  have serve : e.Only [.dies, .link] t := eq ▸ e.serveSuspended_only
  have kept : ∀ d, (t.dies.get d).windows = (b.dies.get d).windows ∧ (t.dies.get d).lapsed = (b.dies.get d).lapsed := fun d => by
    rw [eq, ← offer .dies (by decide)]; exact e.serveSuspended_windows d
  have bt : b.Only [.mport, .mgmt, .dies, .link] t := (offer.mono (by decide)).andThen serve
  have read := fun x => (s.masters.get p).fencedBy_read c slots x
  have streams : ∀ st, (a.streams.get st).Settles (t.streams.get st) := fun st => by
    rw [bt .streams (by decide)]; exact made.streams st
  exact {
    state := by rw [self]; rfl
    recorded := by rw [self]; rfl
    sticky := by
      have mgmt : t.mgmt = { a.mgmt with sticky := a.mgmt.sticky.offered b.mport } := by
        rw [serve .mgmt (by decide), sticky, made.only .mgmt (by decide)]
      rw [mgmt, ← flagged]
      unfold Sticky.offered; dsimp only; split <;> rfl
    indices := by rw [self]; exact ⟨rfl, rfl, rfl, rfl⟩
    words := fun x hx => by rw [self, read]; exact if_pos hx
    memory := fun x hx => by rw [self, read]; exact if_neg hx
    notices := by rw [self]; rfl
    holdings := by rw [self]; rfl
    others := others
    streams := fun st h => (streams st).parked (parked st h)
    unbound := fun st h => by
      rw [(streams st).port] at h
      by_cases hp : (s.streams.get st).port = some p
      · rw [(parked st hp).2.1] at h; cases h
      · exact unbound st hp h
    contexts := by rw [bt .contexts (by decide)]; exact made.contexts
    waiting := by rw [bt .credit (by decide)]; exact made.waiting
    share := by rw [bt .credit (by decide)]; exact made.share
    orders := fun r o h => made.orders r o ((State.order_congr (bt .groups (by decide)) r).symm.trans h)
    expiry := by rw [bt .reclaim (by decide)]; exact ⟨made.notices, made.expiry⟩
    windows := fun d => by rw [(kept d).1, (kept d).2]; exact made.windows d
    frame := frame }

/-! ## Fences that are due -/

theorem State.dueFence_fenced (s : State) (p : MasterId) (h : (s.masters.get p).state = .fenced) : s.dueFence p = s := by
  simp [State.dueFence, State.fencePending, h]

theorem State.dueFence_due (s : State) (p : MasterId) (hd : (s.masters.get p).fenceDue = true) (ha : (s.masters.get p).state = .active) :
    s.dueFence p = s.fence p .inactivity := by
  simp [State.dueFence, State.fencePending, hd, ha]

/-- A request command of a port that is FENCED once its due fence is made takes nothing (R159). -/
theorem State.onRequest_fenced (s : State) (p : MasterId) (accepts : Nat → Bool) (act : Request → State → State)
    (h : ((s.dueFence p).masters.get p).state = .fenced) : s.onRequest (.master p) accepts act = .next (s.dueFence p) := by
  have settled : s.settlePort (.master p) = s.dueFence p := rfl
  have closed : (s.dueFence p).mayTake (.master p) = false := by simp [State.mayTake, State.mayTakeMaster, h]
  simp [State.onRequest, settled, closed]

/-- An index write comes after the due fence of its port (R159). -/
theorem exec_indexWrite_fenced (s : State) (p : MasterId) (w : IndexWrite) (h : ((s.dueFence p).masters.get p).state = .fenced) :
    exec (.requestTailWrite (.master p) w) s = exec (.requestTailWrite (.master p) w) (s.dueFence p) ∧
    exec (.replyHeadWrite (.master p) w) s = exec (.replyHeadWrite (.master p) w) (s.dueFence p) := by
  have settled : (s.dueFence p).settlePort (.master p) = s.settlePort (.master p) := (s.dueFence p).dueFence_fenced p h
  constructor
  · show execRequestTailWrite (.master p) w s = execRequestTailWrite (.master p) w (s.dueFence p)
    rw [execRequestTailWrite, execRequestTailWrite, settled]
  · show execReplyHeadWrite (.master p) w s = execReplyHeadWrite (.master p) w (s.dueFence p)
    rw [execReplyHeadWrite, execReplyHeadWrite, settled]

/-! ## FENCE-PORT -/

/-- A fence made on the state with a management request taken, and the request answered: the port is left as the fence leaves it. -/
theorem State.Fenced.answered {s u : State} {p : MasterId} {c : FenceCause} (h : (s.taken .management).Fenced p c u) (status : Status) :
    s.Fenced p c ((s.headRequest .management).answer u status) :=
  { state := h.state, recorded := h.recorded, sticky := h.sticky, indices := h.indices, words := h.words, memory := h.memory
    notices := h.notices, holdings := h.holdings, others := h.others, streams := h.streams, unbound := h.unbound
    contexts := h.contexts, waiting := h.waiting, share := h.share, orders := h.orders, expiry := h.expiry, windows := h.windows
    frame := ((s.taken_only_management.mono (by decide)).andThen h.frame).andThen (Request.answer_only_management _ rfl u status [] []) }

/-- The rings of M once a fence has offered its notice and the request that asked for it is answered. -/
theorem State.fence_answered_mport (s : State) (p : MasterId) (c : FenceCause) (status : Status) :
    ((s.headRequest .management).answer ((s.taken .management).fence p c) status).mport =
      (s.mport.take.offered (noticeRecord kindPortFenced
        (portFencedBody p c (s.boundStreams p).length (s.liveContexts p).length))).writeReply s.mport.freeSlot
        (replyRecord (s.headRequest .management).kind (s.headRequest .management).tag status []) [] := by
  obtain ⟨-, -, mport⟩ := (s.taken .management).fence_ports p c
  show ((s.taken .management).fence p c).mport.writeReply s.mport.freeSlot _ _ = _
  rw [mport]; rfl

/-- Settles O17: a fence is `State.fence_fenced`, and every command of a port with a fence due makes it first. -/
theorem fenceStopsPort : Obligations.FenceStopsPort := by
  unfold Obligations.FenceStopsPort
  refine ⟨fun p s hdue hactive => ?_, fun s hr hq => ?_, fun p s hr => ?_⟩
  · have due := s.dueFence_due p hdue hactive
    have fenced := s.fence_fenced p .inactivity
    have closed : ((s.dueFence p).masters.get p).state = .fenced := by rw [due]; exact fenced.state
    have taken : ∀ accepts act, s.onRequest (.master p) accepts act = .next (s.fence p .inactivity) := fun accepts act =>
      due ▸ s.onRequest_fenced p accepts act closed
    refine ⟨s.fence p .inactivity, congrArg Host.Outcome.next due, fenced, (s.fence_ports p .inactivity).2.2, fun c hc => ?_, fun w => ?_⟩
    · fin_cases hc <;> (dsimp only [exec]; exact taken _ _)
    · rw [← due]; exact exec_indexWrite_fenced s p w closed
  · have he := exec_of_kind s .management kindFencePort fencePortRequest .fencePort rfl hr
    have port : (s.headRequest .management).masterPort = none := asFin_none hq
    simp only [fencePortRequest, port] at he
    exact onlyAnswered_of_exec he
  · have he := exec_of_kind s .management kindFencePort fencePortRequest .fencePort rfl hr
    intro q hq
    have port : q.masterPort = some p := asFin_val _ p hq
    have kind : q.kind = kindFencePort := hr.2
    let a := s.taken .management
    refine ⟨fun hactive hdue => ?_, fun hactive hdue => ?_, fun hfenced => ?_⟩
    · have run : fencePortRequest q a = q.answer (a.fence p .inactivity) .wrongState := by
        simp only [fencePortRequest, port, a.dueFence_due p hdue hactive, (a.fence_fenced p .inactivity).state, if_true]
      exact ⟨_, he.trans (congrArg _ run), (a.fence_fenced p .inactivity).answered .wrongState,
        (s.fence_answered_mport p .inactivity .wrongState).trans (by rw [kind])⟩
    · have run : fencePortRequest q a = q.answer (a.fence p .management) .ok := by
        have active : (a.masters.get p).state = .active := hactive
        simp [fencePortRequest, port, a.dueFence_none p hdue, active]
      exact ⟨_, he.trans (congrArg _ run), (a.fence_fenced p .management).answered .ok,
        (s.fence_answered_mport p .management .ok).trans (by rw [kind])⟩
    · have run : fencePortRequest q a = q.answer a .wrongState := by
        have closed : (a.masters.get p).state = .fenced := hfenced
        simp only [fencePortRequest, port, a.dueFence_fenced p closed, closed, if_true]
      exact onlyAnswered_of_exec (he.trans (congrArg _ run))

/-! ## REVIVE-PORT -/

/-- The record of a port that is revived (R163). -/
def MasterPort.revived (m : MasterPort) : MasterPort :=
  { m with state := .active, ring := m.ring.emptied, inactivity := 0, fenceDue := false }

/-- Reviving a port changes its record alone, and its interrupt line is deasserted (R154, R163). -/
theorem State.revive_cases (s : State) (p : MasterId) :
    (s.revive p).masters.get p = (s.masters.get p).revived ∧ s.OtherPorts p (s.revive p) ∧ s.Only [.masters] (s.revive p) :=
  ⟨Table.get_modify_self _ _ _, fun _ hq => Table.get_modify_ne _ _ _ _ hq, s.modMaster_only p _⟩

/-- The reservations that a fence releases are read from the streams, the requests and the dies, which taking a management request leaves. -/
theorem State.taken_fencedSlots (s : State) (p : MasterId) : (s.taken .management).fencedSlots p = s.fencedSlots p := rfl

/-- Settles O49: the port is FENCED, or is fenced first by the fence that is due, and `State.revive` makes its record anew. -/
theorem revivePortEmptiesRings : Obligations.RevivePortEmptiesRings := by
  unfold Obligations.RevivePortEmptiesRings
  intro s hr q
  let a := s.taken .management
  have he := exec_of_kind s .management kindRevivePort revivePortRequest .revivePort rfl hr
  have kind : q.kind = kindRevivePort := hr.2
  refine ⟨fun hq => ?_, fun p => ?_⟩
  · have port : (s.headRequest .management).masterPort = none := asFin_none hq
    simp only [revivePortRequest, port] at he
    exact onlyAnswered_of_exec he
  intro hq m
  have port : q.masterPort = some p := asFin_val _ p hq
  refine ⟨fun hactive hdue => ?_, fun hactive hdue => ?_, fun hfenced => ?_⟩
  · have active : (a.masters.get p).state = .active := hactive
    have run : revivePortRequest q a = q.answer a .wrongState := by
      simp only [revivePortRequest, port, a.dueFence_none p hdue, active, if_true]
    exact onlyAnswered_of_exec (he.trans (congrArg _ run))
  · have fenced := a.fence_fenced p .inactivity
    have run : revivePortRequest q a = q.answer ((a.fence p .inactivity).revive p) .ok := by
      simp [revivePortRequest, port, a.dueFence_due p hdue hactive, fenced.state]
    obtain ⟨own, -, -⟩ := s.fence_ports p .inactivity
    obtain ⟨self, others, mport⟩ := a.fence_ports p .inactivity
    rw [s.taken_fencedSlots] at self
    refine ⟨s.fence p .inactivity, _, congrArg Host.Outcome.next (s.dueFence_due p hdue hactive), s.fence_fenced p .inactivity,
      he.trans (congrArg _ run), ?_⟩
    generalize s.fence p .inactivity = u at own
    generalize a.fence p .inactivity = b at self others mport
    obtain ⟨revived, kept, only⟩ := b.revive_cases p
    let t := q.answer (b.revive p) .ok
    have record : t.masters.get p = (u.masters.get p).revived := by
      rw [own]; exact revived.trans (congrArg MasterPort.revived self)
    refine ⟨?_, ?_⟩
    · show (b.revive p).mport.writeReply s.mport.freeSlot (replyRecord q.kind q.tag .ok []) [] = _
      rw [only .mport (by decide), mport, kind]; rfl
    · have cause : (u.masters.get p).cause = .inactivity := by rw [own]; rfl
      have rings : (t.masters.get p).ring = (u.masters.get p).ring.emptied := congrArg MasterPort.ring record
      exact ⟨congrArg MasterPort.state record, (congrArg MasterPort.cause record).trans cause, congrArg MasterPort.inactivity record,
        congrArg MasterPort.fenceDue record, congrArg Ring.requestTail rings, congrArg Ring.requestHead rings,
        congrArg Ring.replyTail rings, congrArg Ring.replyHead rings, congrArg Ring.noticeHoldings rings,
        congrArg Ring.replyHoldings rings, fun x hx => (kept x hx).trans (others x hx)⟩
  · have closed : (a.masters.get p).state = .fenced := hfenced
    have run : revivePortRequest q a = q.answer (a.revive p) .ok := by
      simp [revivePortRequest, port, a.dueFence_fenced p closed, closed]
    obtain ⟨revived, kept, only⟩ := a.revive_cases p
    let t := q.answer (a.revive p) .ok
    have record : t.masters.get p = m.revived := revived
    have memory : (t.masters.get p).ring.mem = m.ring.emptied.mem := congrArg (fun n => n.ring.mem) record
    refine ⟨t, he.trans (congrArg _ run), ?_, ?_, fun x => ?_, ?_, kept, ?_⟩
    · show s.mport.take.writeReply s.mport.freeSlot (replyRecord q.kind q.tag .ok []) [] = _
      rw [kind]
    · rw [memory, record, MasterPort.revived, m.ring.emptied_eq]
    · rw [memory]; exact m.ring.emptied_read x
    · have rings : t.ring (.master p) = m.ring.emptied := congrArg MasterPort.ring record
      rw [State.interrupt, rings]
      exact Bool.and_false _
    · exact ((s.taken_only_management.mono (by decide)).andThen only).andThen (q.answer_only_management rfl _ .ok [] [])

end Sys2Proof.Machine
end

section
/-!
PROOFS. Steps, device reset and ticks: the front of the queue (R174), the reset values (R185), TICK (R72, R174) and EPOCH_ADVANCE (R92, R174).
-/

namespace Sys2Proof.Machine

/-! ## One step -/

/-- Settles O1: `step` and `State.clockPeriod`, branch by branch. -/
theorem stepTakesFrontCommand : Obligations.StepTakesFrontCommand := by
  unfold Obligations.StepTakesFrontCommand
  refine ⟨fun c rest s h => by simp only [step, h], fun s h => ?_⟩
  have period : step s = s.clockPeriod := by simp only [step, h]
  refine ⟨fun hlt => ?_, fun hle => ?_⟩
  · rw [period, State.clockPeriod, if_pos hlt]
  · rw [period, State.clockPeriod, if_neg (Nat.not_lt.mpr hle)]; rfl

/-! ## Device reset -/

/-- The state that DEVICE_RESET leaves: the reset state with the lines and the queue kept, and PLW_N seen where it is asserted (R185). -/
theorem exec_deviceReset (s : State) : exec .deviceReset s = .next { State.reset with
    mgmt := { State.reset.mgmt with sticky := { Sticky.reset with plwSeen := s.plwAsserted } }
    inputs := s.inputs
    pending := s.pending } := by
  show execDeviceReset s = _
  unfold execDeviceReset
  cases h : s.plwAsserted <;> rfl

theorem State.reset_stream (st : StreamId) : State.reset.streams.get st = StreamRecord.reset st := Table.get_tabulate _ st
theorem State.reset_tenant (n : Tenant) : State.reset.tenants.get n = TenantRecord.reset := Table.get_replicate _ n
theorem State.reset_balance (n : Tenant) : State.reset.credit.balances.get n = 0 := Table.get_replicate _ n
theorem State.reset_die (d : DieId) : State.reset.dies.get d = DieRecord.reset := Table.get_replicate _ d
theorem State.reset_master (p : MasterId) : State.reset.masters.get p = MasterPort.reset := Table.get_replicate _ p

/-- The part after reset meets every invariant that each step keeps. -/
theorem State.reset_legal : State.reset.BalancesLegal ∧ State.reset.YoungLegal ∧ State.reset.LinkLegal ∧ State.reset.DiesLegal ∧
    State.reset.MemoryLegal := by
  refine ⟨fun n => ?_, fun st => ?_, ⟨Nat.zero_le _, .nil, Nat.zero_le _⟩, fun d => ?_, fun p => ?_⟩
  · rw [State.reset_balance, State.reset_tenant]; decide
  · rw [State.reset_stream]; exact Nat.zero_le _
  · rw [State.reset_die]; exact DieRecord.reset_legal
  · have empty : (State.reset.ring p).mem = [] := by
      cases p with
      | management => rfl
      | master q => exact congrArg (fun m : MasterPort => m.ring.mem) (State.reset_master q)
    rw [empty]; exact ⟨.nil, fun c h => by cases h⟩

/-- Settles O9: every field of the state after DEVICE_RESET is that of `State.reset`, and every table of `State.reset` reads its reset record. -/
theorem deviceResetRestores : Obligations.DeviceResetRestores := by
  unfold Obligations.DeviceResetRestores
  refine ⟨fun s => ⟨_, exec_deviceReset s, rfl, rfl, rfl, fun f hf => ?_⟩, ?_, State.reset_legal⟩
  · cases f <;> first | rfl | simp at hf
  · refine ⟨rfl, rfl, rfl, rfl, rfl, fun st => ?_, fun n => ⟨State.reset_tenant n, State.reset_balance n⟩,
      fun g => Table.get_replicate _ g, fun d => ?_, fun p => ?_, rfl, rfl, rfl, rfl, rfl, rfl, rfl, rfl, rfl, rfl, rfl, rfl, rfl, rfl⟩
    · rw [State.reset_stream]
      exact ⟨rfl, rfl, rfl, rfl, rfl, rfl, rfl, fun q => Table.get_replicate _ q, rfl, rfl, rfl, rfl, rfl⟩
    · rw [State.reset_die]
      exact ⟨rfl, rfl, rfl, rfl, rfl, fun l => ⟨Table.get_replicate _ l, Table.get_replicate _ l⟩,
        fun p => ⟨Table.get_replicate _ p, Table.get_replicate _ p⟩⟩
    · rw [State.reset_master]
      exact ⟨rfl, rfl, rfl, rfl, rfl, rfl, rfl, rfl, rfl, rfl, rfl, fun _ => rfl⟩

/-! ## What comes before the refills of a tick -/

/-- Each tenant keeps its metering, its rate and its ceiling: its record changes in the page counts alone. -/
def State.TermsKept (s t : State) : Prop := ∀ n, t.tenants.get n = { s.tenants.get n with
  hostPages := (t.tenants.get n).hostPages, relocPages := (t.tenants.get n).relocPages }

theorem State.TermsKept.refl (s : State) : s.TermsKept s := fun _ => rfl

theorem State.TermsKept.trans {s t u : State} (h : s.TermsKept t) (k : t.TermsKept u) : s.TermsKept u := fun n => by
  rw [k n, h n]

theorem State.TermsKept.foldl {α : Type} {f : State → α → State} (h : ∀ (s : State) (a : α), s.TermsKept (f s a)) (l : List α) (s : State) :
    s.TermsKept (l.foldl f s) := by
  induction l generalizing s with
  | nil => exact .refl s
  | cons a l ih => exact (h s a).trans (ih (f s a))

/-- Counting pages changes the page counts of one tenant (R41). -/
theorem State.countPages_terms (s : State) (t : Tenant) (cls : WriteClass) (m : Nat) : s.TermsKept (s.countPages t cls m) := fun n => by
  unfold State.countPages
  by_cases hn : n = t
  · subst hn; cases cls <;> simp
  · simp [hn]

theorem State.examineEntry_terms (s : State) (e : WaitEntry) : s.TermsKept (s.examineEntry e) := by
  unfold State.examineEntry; split
  · intro n; rw [State.admitEntry_tenants]; exact s.countPages_terms _ _ _ n
  · exact .refl s

/-- The examinations that come before the refills of a tick leave the terms of every tenant (R72, R73). -/
theorem State.settleRefills_terms (s : State) : s.TermsKept s.settleRefills :=
  .foldl (fun s n => .foldl State.examineEntry_terms (s.creditEntries n) s) _ s

theorem State.settleRefills_shares (s : State) : s.settleRefills.credit.shares = s.credit.shares := by
  have fold : ∀ (l : List Tenant) (u : State), (l.foldl State.settleCredit u).credit.shares = u.credit.shares := fun l => by
    induction l with
    | nil => exact fun _ => rfl
    | cons n l ih => exact fun u => (ih _).trans (u.examineCredit_admitted n).shares
  rw [State.settleRefills, fold]

/-- A refill goes by the terms that the tenant had before the examinations (R72). -/
theorem State.TermsKept.refill {s m : State} (h : s.TermsKept m) (n : Tenant) : m.refill n =
    let r := s.tenants.get n
    if r.metered then min (m.credit.balances.get n + r.rate) r.ceiling else m.credit.balances.get n := by
  simp only [State.refill, refilledBalance]; rw [h n]

/-! ## The tick -/

/-- Every block's counts after a tick (R174), with the examinations that come first done. -/
def State.ticked (s : State) : State := { s with
  time := s.time.tickOn
  credit := { s.credit with balances := Table.tabulate s.refill }
  streams := s.streams.map (fun r => { r with slots := r.slots.map (Option.map (OpenSlot.tickOn s.limits.idle)) })
  groups := s.groups.map (Option.map (fun g =>
    { g with reclaim := { g.reclaim with slots := g.reclaim.slots.map (Option.map Order.tickOn) } }))
  dies := s.dies.map DieRecord.tickOn
  masters := Table.tabulate (fun p => (s.masters.get p).tickOn s.limits.port (s.countsSilence p)) }

theorem exec_tick (s : State) : exec .tick s = .next s.settleRefills.ticked := rfl

theorem State.ticked_only (s : State) : s.Only [.streams, .credit, .groups, .dies, .masters, .time] s.ticked := by
  intro f hf; cases f <;> first | rfl | simp at hf

theorem State.ticked_slot (s : State) (st : StreamId) (q : Position) :
    (s.ticked.streams.get st).slots.get q = ((s.streams.get st).slots.get q).map (OpenSlot.tickOn s.limits.idle) := by
  rw [State.ticked, Table.get_map, Table.get_map]

/-- The remaining ticks of an ISSUED order fall by 1 (R96). -/
theorem Order.tickOn_eq (o : Order) : o.tickOn = { o with phase := match o.phase with | .issued n => .issued (n - 1) | x => x } := by
  obtain ⟨unit, tenant, target, port, number, phase⟩ := o
  cases phase <;> rfl

theorem State.ticked_order (s : State) (r : NoticeRef) : s.ticked.order r = (s.order r).map Order.tickOn := by
  simp only [State.order, State.reclaimOf, State.ticked, Table.get_map]
  cases s.groups.get r.group with
  | none => rfl
  | some g =>
    simp only [Option.map_some, Option.bind_some, List.getElem?_map]
    rcases g.reclaim.slots[r.slot.val]? with _ | o <;> rfl

theorem State.ticked_die (s : State) (d : DieId) : s.ticked.dies.get d = (s.dies.get d).tickOn := Table.get_map _ _ d

theorem State.hasBoundStream_iff (s : State) (p : MasterId) : s.hasBoundStream p = true ↔ ∃ st, (s.streams.get st).port = some p := by
  simp [State.hasBoundStream, Table.mem_items]

/-- The ports on which a tick counts (R159). -/
theorem State.countsSilence_iff (s : State) (p : MasterId) : s.countsSilence p = true ↔
    s.mgmt.device = .running ∧ (s.masters.get p).state = .active ∧ (s.masters.get p).fenceDue = false ∧
    (∃ st, (s.streams.get st).port = some p) ∧ s.limits.port ≠ 0 ∧ (s.masters.get p).ring.reservations = [] := by
  simp only [State.countsSilence, State.isRunning, Ring.owesNothing, Bool.and_eq_true, Bool.not_eq_true', decide_eq_true_eq,
    State.hasBoundStream_iff, List.isEmpty_iff, and_assoc]

theorem State.ticked_port (s : State) (p : MasterId) :
    s.ticked.masters.get p = (s.masters.get p).tickOn s.limits.port (s.countsSilence p) := Table.get_tabulate _ p

/-- A tick leaves the rings and the state of a port. -/
theorem MasterPort.tickOn_kept (limit : Nat) (counts : Bool) (m : MasterPort) :
    (m.tickOn limit counts).ring = m.ring ∧ (m.tickOn limit counts).state = m.state := by
  cases counts <;> exact ⟨rfl, rfl⟩

/-- The wake events of an epoch advance reach the groups whose search has set the zero-score flag (R92, R174). -/
theorem State.epochAdvance_groups (s t : State) (g : GroupId) (h : t.groups = s.groups.map (Option.map (fun g =>
      { g with reclaim := if g.reclaim.zeroScore then g.reclaim.wake else g.reclaim }))) :
    t.reclaimOf g = (s.reclaimOf g).map (fun r => if r.zeroScore then r.wake else r) ∧ t.config g = s.config g := by
  simp only [State.reclaimOf, State.config, h, Table.get_map]
  cases s.groups.get g <;> exact ⟨rfl, rfl⟩

/-- Settles O12: a tick is `State.ticked` behind the examinations that are due, and the examinations leave what the other counts read. -/
theorem tickCounts : Obligations.TickCounts := by
  unfold Obligations.TickCounts
  refine ⟨fun s => ?_, fun s hdue => ?_⟩
  · have settled := s.settleRefills_only
    have shares := s.settleRefills_shares
    have terms := s.settleRefills_terms
    refine ⟨s.settleRefills, _, s.settleRefills_examined, settled, s.settleRefills_none, exec_tick s, ?_⟩
    generalize s.settleRefills = m at settled shares terms
    have streams : m.streams = s.streams := settled .streams (by decide)
    have groups : m.groups = s.groups := settled .groups (by decide)
    have dies : m.dies = s.dies := settled .dies (by decide)
    have masters : m.masters = s.masters := settled .masters (by decide)
    have time : m.time = s.time := settled .time (by decide)
    have limits : m.limits = s.limits := settled .limits (by decide)
    have mgmt : m.mgmt = s.mgmt := settled .mgmt (by decide)
    have clock : m.ticked.time = s.time.tickOn := congrArg TimeBase.tickOn time
    rw [clock]
    refine ⟨rfl, rfl, rfl, rfl, rfl, rfl, rfl, fun n => ?_, rfl, shares, fun st q => ?_, fun r => ?_, fun d => ?_, fun p => ?_, m.ticked_only⟩
    · exact (Table.get_tabulate _ n).trans (terms.refill n)
    · rw [m.ticked_slot, streams, limits]; rfl
    · rw [m.ticked_order, State.order_congr groups]
      exact congrArg (fun f => (s.order r).map f) (funext Order.tickOn_eq)
    · rw [m.ticked_die, dies]
      refine ⟨rfl, rfl, rfl, fun p => ?_⟩
      exact Table.get_map _ _ p
    · have counts := m.countsSilence_iff p
      rw [m.ticked_port, masters, limits]
      rw [mgmt, masters, streams, limits] at counts
      refine ⟨(MasterPort.tickOn_kept _ _ _).1, (MasterPort.tickOn_kept _ _ _).2, fun h => ?_, fun h => ?_⟩
      · rw [counts.mpr h]; exact ⟨rfl, rfl⟩
      · rw [Bool.eq_false_iff.mpr (fun e => h (counts.mp e))]; rfl
  · refine ⟨_, if_pos hdue, rfl, fun g => s.epochAdvance_groups _ g rfl, fun f hf => ?_⟩
    cases f <;> first | rfl | simp at hf

end Sys2Proof.Machine
end

section
/-!
PROOFS. Management of time and of the device state: SET_TIMEBASE (R175), SET_TIMERS (R176), HALT and HALT_COMPLETE (R168).
-/

namespace Sys2Proof.Machine

/-! ## SET-TIMEBASE and SET-TIMERS -/

/-- The range test of SET-TIMEBASE fails for a present tick length outside 10 to 10,000 and for a present epoch length of 0 (R175). -/
theorem Request.timebaseInRange_iff (r : Request) : r.timebaseInRange = true ↔
    ¬ ((∃ n, r.tickLength = some n ∧ ¬ (10 ≤ n ∧ n ≤ 10000)) ∨ r.epochLength = some 0) := by
  unfold Request.timebaseInRange
  cases r.tickLength <;> cases r.epochLength <;> simp

/-- A limit that is present and may not be 0 is stored as at least 1 (R176). -/
theorem stored_limit (o : Option Nat) (old : Nat) : (∀ n, o = some n → (o.map (max 1)).getD old = if n = 0 then 1 else n) ∧
    (o = none → (o.map (max 1)).getD old = old) := by
  refine ⟨?_, fun h => by rw [h]; rfl⟩
  rintro n rfl
  show max 1 n = _
  split <;> omega

/-- The Time Base under new values, present or absent (R175). -/
theorem TimeBase.set_cases (t : TimeBase) (tick epoch : Option Nat) :
    (∀ n, tick = some n → (t.set tick epoch).divider = n * 100 ∧ (t.set tick epoch).dividerCount = 0) ∧
    (tick = none → (t.set tick epoch).divider = t.divider ∧ (t.set tick epoch).dividerCount = t.dividerCount) ∧
    (∀ n, epoch = some n → (t.set tick epoch).epochLength = n) ∧ (epoch = none → (t.set tick epoch).epochLength = t.epochLength) := by
  refine ⟨?_, ?_, ?_, ?_⟩
  · rintro n rfl; exact ⟨rfl, rfl⟩
  · rintro rfl; exact ⟨rfl, rfl⟩
  · rintro n rfl; rfl
  · rintro rfl; rfl

theorem State.setTime_only (s : State) (t : TimeBase) : s.Only [.time] { s with time := t } := by
  intro f hf; cases f <;> first | rfl | simp at hf

theorem State.setLimits_only (s : State) (l : Limits) : s.Only [.limits] { s with limits := l } := by
  intro f hf; cases f <;> first | rfl | simp at hf

/-- Settles O41: the values in force afterwards are those of `TimeBase.set` and `Limits.set`. -/
theorem timeSettingsStored : Obligations.TimeSettingsStored := by
  unfold Obligations.TimeSettingsStored
  refine ⟨fun s hr => ?_, fun s hr => ?_⟩
  · intro q bad
    let a := s.taken .management
    have he := exec_of_kind s .management kindSetTimebase setTimebaseRequest .setTimebase rfl hr
    have range : q.timebaseInRange = true ↔ ¬ bad := q.timebaseInRange_iff
    refine ⟨fun hb => onlyAnswered_of_exec (he.trans (congrArg _ (if_neg (fun h => range.mp h hb)))), fun hb => ?_⟩
    let u : State := { a with time := s.time.set q.tickLength q.epochLength }
    obtain ⟨tick, noTick, epoch, noEpoch⟩ := s.time.set_cases q.tickLength q.epochLength
    exact ⟨_, he.trans (congrArg _ (if_pos (range.mpr hb))), s.answered u .management rfl rfl .ok _ [], tick, noTick, epoch, noEpoch,
      rfl, rfl, rfl, ((s.taken_only_management.mono (by decide)).andThen (a.setTime_only _) (gs := [.mport, .time])).andThen
        (q.answer_only_management rfl u _ _ _)⟩
  · intro q
    let a := s.taken .management
    have he := exec_of_kind s .management kindSetTimers setTimersRequest .setTimers rfl hr
    let u : State := { a with limits := s.limits.set q }
    obtain ⟨order, noOrder⟩ := stored_limit (q.limit 2) s.limits.order
    obtain ⟨window, noWindow⟩ := stored_limit (q.limit 3) s.limits.window
    obtain ⟨op, noOp⟩ := stored_limit (q.limit 4) s.limits.op
    exact ⟨_, he, s.answered u .management rfl rfl .ok _ [], rfl, rfl, order, noOrder, window, noWindow, op, noOp,
      ((s.taken_only_management.mono (by decide)).andThen (a.setLimits_only _) (gs := [.mport, .limits])).andThen
        (q.answer_only_management rfl u _ _ _)⟩

/-! ## HALT -/

/-- The groups as a halt leaves them: the result of a search in progress is to be discarded, and nothing else changes (R85). -/
theorem State.stopIssue_groups (s t : State) (h : t.groups = s.stopIssue.groups) (g : GroupId) :
    t.config g = s.config g ∧ t.reclaimOf g = (s.reclaimOf g).map (fun k => if k.search = .searching then { k with discard := true } else k) := by
  have reclaim : t.reclaimOf g = s.stopIssue.reclaimOf g := by simp only [State.reclaimOf, h]
  have config : t.config g = s.stopIssue.config g := by simp only [State.config, h]
  rw [config, reclaim, State.stopIssue_config, State.stopIssue_reclaimOf]
  exact ⟨rfl, congrArg (fun f => (s.reclaimOf g).map f) (funext ReclaimRecord.stop_eq)⟩

/-- The part as a halt begins: issuing has stopped, and the reply is kept (R85, R168). -/
def State.halting (s : State) (pl : Pledge) : State :=
  (s.stopIssue.setDevice .halting).modMgmt (fun m => { m with haltReply := some pl })

theorem State.halting_only (s : State) (pl : Pledge) : s.Only [.groups, .mgmt] (s.halting pl) :=
  ((s.stopIssue_only.mono (by decide)).andThen (State.modMgmt_only _ _) (gs := [.groups, .mgmt])).andThen (State.modMgmt_only _ _)

/-- A halt that begins with every configured die at rest ends at once, and otherwise lets the SUSPENDED dies decide again (R134, R168). -/
theorem State.startHalt_eq (s : State) (pl : Pledge) :
    s.startHalt pl = if s.allAtRest then (s.halting pl).endHalt pl else (s.halting pl).serveSuspended := rfl

/-- HALT's answers by the device state (R168). -/
theorem haltRequest_cases (r : Request) (s : State) :
    (s.mgmt.device = .running → haltRequest r s = s.startHalt ⟨r.slot, r.tag⟩) ∧
    (s.mgmt.device = .halting → haltRequest r s = r.answer s .busy) ∧
    (s.mgmt.device ≠ .running → s.mgmt.device ≠ .halting → haltRequest r s = r.answer s .wrongState) := by
  unfold haltRequest
  cases s.mgmt.device <;> simp

/-- The end of a halt is HALTED with no reply kept (R168). -/
theorem State.endHalt_only (s : State) (pl : Pledge) : s.Only [.mport, .mgmt] (s.endHalt pl) :=
  (((s.modMgmt_only _).mono (by decide)).andThen (State.modMgmt_only _ _) (gs := [.mport, .mgmt])).andThen
    (State.replyManagement_only _ _ _ _ _ _ _)

/-- Settles O48: a halt begins as `State.halting` and ends with `State.endHalt`, at once where every configured die is at rest. -/
theorem haltWaitsForRest : Obligations.HaltWaitsForRest := by
  unfold Obligations.HaltWaitsForRest
  refine ⟨fun s hr => ?_, fun s pl hd hp hrest => ?_⟩
  · intro q rest stopped
    let a := s.taken .management
    have he := exec_of_kind s .management kindHalt haltRequest .halt rfl hr
    obtain ⟨starts, busy, wrong⟩ := haltRequest_cases q a
    have taken : s.Only [.groups, .mport, .mgmt] a := s.taken_only_management.mono (by decide)
    have atRest : a.allAtRest = true ↔ rest := s.allAtRest_iff
    let b := a.halting ⟨q.slot, q.tag⟩
    have ab : a.Only [.groups, .mgmt] b := a.halting_only _
    refine ⟨fun hd hrest => ?_, fun hd hrest => ?_, fun hd => onlyAnswered_of_exec (he.trans (congrArg _ (busy hd))),
      fun h1 h2 => onlyAnswered_of_exec (he.trans (congrArg _ (wrong h1 h2)))⟩
    · have run : haltRequest q a = b.endHalt ⟨q.slot, q.tag⟩ := by
        rw [starts hd, State.startHalt_eq, if_pos (atRest.mpr hrest)]
      have answers : b.endHalt ⟨q.slot, q.tag⟩ =
          q.answer ((b.setDevice .halted).modMgmt (fun m => { m with haltReply := none })) .ok (leBytes 4 s.time.tick.toNat) [] := by
        rw [Request.answer, show q.kind = kindHalt from hr.2]; rfl
      have answered := s.answered ((b.setDevice .halted).modMgmt (fun m => { m with haltReply := none })) .management rfl rfl .ok
        (leBytes 4 s.time.tick.toNat) []
      refine ⟨_, he.trans (congrArg _ run), s.stopIssue_groups _ rfl, ?_, rfl, ?_⟩
      · rw [answers]; exact answered
      · exact (taken.andThen ab).andThen (b.endHalt_only _)
    · have run : haltRequest q a = b.serveSuspended := by
        rw [starts hd, State.startHalt_eq, if_neg (fun h => hrest (atRest.mp h))]
      have serve := b.serveSuspended_only
      refine ⟨_, he.trans (congrArg _ run), s.stopIssue_groups _ (serve .groups (by decide)),
        pledged_of_ports s _ .management (serve .masters (by decide)) (serve .mport (by decide)), serve .mgmt (by decide), ?_⟩
      exact ((taken.mono (by decide)).andThen ab (gs := [.groups, .dies, .link, .mport, .mgmt])).andThen serve
  · have ends : exec .haltComplete s = .next (s.endHalt pl) := by
      show execHaltComplete s = _
      simp only [execHaltComplete, hp, hd, s.allAtRest_iff.mpr hrest, and_self, if_true]
    exact ⟨_, ends, rfl, rfl, s.endHalt_only pl⟩

end Sys2Proof.Machine
end

section
/-!
PROOFS. Reading back (R181, R182, R184): the lengths of the reports, the words of a port, and the requests that answer them.
-/

namespace Sys2Proof.Machine

/-! ## The lengths of reports -/

/-- One-byte codes stand four to a word (R189). -/
theorem packedWords_length (l : List Nat) : (packedWords l).length = (l.length + 3) / 4 := by
  induction l using packedWords.induct with
  | case1 a b c d rest ih => simp only [packedWords, List.length_cons, ih]; omega
  | case2 => rfl
  | case3 | case4 | case5 => simp [packedWords]

@[simp] theorem bitmapWords_length (n : Nat) (member : Nat → Bool) : (bitmapWords n member).length = n := by simp [bitmapWords]

@[simp] theorem profileWords_length (o : Option Profile) : (profileWords o).length = 3 := by cases o <;> rfl

@[simp] theorem openSlotWords_length (o : Option OpenSlot) : (openSlotWords o).length = 2 := by cases o <;> rfl

@[simp] theorem orderSlotWords_length (o : Option Order) : (orderSlotWords o).length = 2 := by cases o <;> rfl

@[simp] theorem State.ringWords_length (s : State) (p : PortId) : (s.ringWords p).length = 6 := by simp [State.ringWords]

theorem State.streamWords_length (s : State) (st : StreamId) : (s.streamWords st).length = 38 + (s.streams.get st).young.length := by
  simp [State.streamWords, List.length_flatMap, (s.streams.get st).slots.size]
  omega

@[simp] theorem Sticky.words_length (k : Sticky) : k.words.length = 13 := by
  simp [Sticky.words, packedWords_length, k.dieFault.size, k.portFence.size]

/-- The DEVICE section is 55 words and the waiting dies, four to a word (R182). -/
theorem State.deviceWords_length (s : State) : s.deviceWords.length = 55 + (s.link.waiting.length + 3) / 4 := by
  unfold State.deviceWords
  cases s.mgmt.geometry <;> simp [packedWords_length, s.groups.size] <;> omega

theorem State.groupWords_length (s : State) (g : GroupId) (h : ∀ r, s.reclaimOf g = some r → r.slots.length ≤ 4) :
    (s.groupWords g).length ≤ 30 := by
  unfold State.groupWords
  cases hg : s.groups.get g with
  | none => simp
  | some r =>
    have := h r.reclaim (by simp [State.reclaimOf, hg])
    simp [List.length_flatMap]
    omega

theorem State.portWords_length (s : State) (p : MasterId) : (s.portWords p).length = 40 := by
  simp [State.portWords, packedWords_length, (s.masters.get p).ring.classes.size]

/-- Every report fits in the 64 words of its slot (R189): at most 32 tags are outstanding, 4 units queued, 8 young and 32 dies waiting. -/
theorem reports_fit (s : State) (hl : s.LinkLegal) (hd : s.DiesLegal) (hy : s.YoungLegal) (hw : s.link.waiting.Nodup) :
    (∀ st, (s.streamWords st).length ≤ 64) ∧ (∀ n, (s.tenantWords n).length ≤ 64) ∧ s.deviceWords.length ≤ 64 ∧
    (∀ g, (∀ r, s.reclaimOf g = some r → r.slots.length ≤ 4) → (s.groupWords g).length ≤ 64) ∧
    (∀ d, (s.dieWords d).length ≤ 64) ∧ ∀ p, (s.portWords p).length ≤ 64 := by
  obtain ⟨tags, -, -⟩ := hl
  have waiting : s.link.waiting.length ≤ 32 := hw.length_le_card.trans_eq (Fintype.card_fin 32)
  refine ⟨fun st => ?_, fun n => ?_, ?_, fun g h => (s.groupWords_length g h).trans (by decide), fun d => ?_, fun p => ?_⟩
  · have := hy st
    simp only [Config.youngLimit] at this
    rw [State.streamWords_length]; omega
  · exact (by decide : 7 ≤ 64)
  · rw [State.deviceWords_length]; omega
  · have queue := (hd d).1
    have own := (List.length_filter_le (fun e => decide (e.die = d)) s.link.tags).trans tags
    simp only [Config.backgroundLimit, Config.linkLimit] at queue own
    rw [State.dieWords_length]; omega
  · rw [State.portWords_length]; decide

/-! ## The words of a port -/

theorem PortState.code_eq (x : PortState) : x.code = if x = .active then 0 else 1 := by cases x <;> rfl

theorem SlotClass.code_eq (x : SlotClass) : x.code = if x = .reply then 0 else 1 := by cases x <;> rfl

theorem State.interrupt_code (s : State) (p : MasterId) : flagCode (s.interrupt (.master p)) =
    if (s.masters.get p).state = .active ∧ (s.masters.get p).ring.replyTail ≠ (s.masters.get p).ring.replyHead then 1 else 0 := by
  have asserted : s.interrupt (.master p) = true ↔
      (s.masters.get p).state = .active ∧ (s.masters.get p).ring.replyTail ≠ (s.masters.get p).ring.replyHead := by
    rw [State.interrupt, Bool.and_eq_true, decide_eq_true_eq, State.inService, decide_eq_true_eq]; rfl
  rw [flagCode, if_congr asserted rfl rfl]

/-- Whether a number is that of a stream bound to a port. -/
def State.bindsNumber (s : State) (p : MasterId) (n : Nat) : Bool :=
  match asFin 256 n with
  | some st => decide ((s.streams.get st).port = some p)
  | none => false

theorem State.bindsNumber_eq (s : State) (p : MasterId) (n : Nat) :
    s.bindsNumber p n = decide (∃ st : StreamId, st.val = n ∧ (s.streams.get st).port = some p) := by
  rw [Bool.eq_iff_iff, decide_eq_true_eq, State.bindsNumber]
  constructor
  · intro h
    split at h
    · next st hst =>
      refine ⟨st, ?_, of_decide_eq_true h⟩
      unfold asFin at hst
      split at hst <;> cases hst
      rfl
    · cases h
  · rintro ⟨st, rfl, h⟩
    rw [asFin_val _ st rfl]
    exact decide_eq_true h

/-! ## The sections of GET-STATUS -/

/-- A section above 3 and an index out of its section's range name no section (R182). -/
theorem State.statusWords_none (s : State) (sec idx : Nat)
    (h : 3 < sec ∨ (sec = 1 ∧ 7 < idx) ∨ (sec = 2 ∧ 31 < idx) ∨ (sec = 3 ∧ 3 < idx)) : s.statusWords sec idx = none := by
  rcases h with h | ⟨rfl, h⟩ | ⟨rfl, h⟩ | ⟨rfl, h⟩
  · obtain ⟨k, rfl⟩ := Nat.exists_eq_add_of_lt h
    rw [show 3 + k + 1 = k + 4 by omega]; rfl
  · show (asFin 8 idx).map _ = none; rw [asFin_none h]; rfl
  · show (asFin 32 idx).map _ = none; rw [asFin_none h]; rfl
  · show (asFin 4 idx).map _ = none; rw [asFin_none h]; rfl

/-- The words of the section that a section code and an index name (R182). -/
theorem State.statusWords_some (s : State) (sec idx : Nat) (words : List Word)
    (h : (sec = 0 ∧ words = s.deviceWords) ∨ (∃ g : GroupId, sec = 1 ∧ idx = g.val ∧ words = s.groupWords g) ∨
      (∃ d : DieId, sec = 2 ∧ idx = d.val ∧ words = s.dieWords d) ∨
      (∃ p : MasterId, sec = 3 ∧ idx = p.val ∧ words = s.portWords p)) : s.statusWords sec idx = some words := by
  rcases h with ⟨rfl, rfl⟩ | ⟨g, rfl, h, rfl⟩ | ⟨d, rfl, h, rfl⟩ | ⟨p, rfl, h, rfl⟩
  · rfl
  · show (asFin 8 idx).map _ = _; rw [asFin_val _ g h]; rfl
  · show (asFin 32 idx).map _ = _; rw [asFin_val _ d h]; rfl
  · show (asFin 4 idx).map _ = _; rw [asFin_val _ p h]; rfl

/-! ## The requests -/

/-- READ-UNIT's answers by the device state and the unit (R181). -/
theorem readUnitRequest_cases (r : Request) (s : State) :
    (s.mgmt.device = .unconfigured → readUnitRequest r s = r.answer s .wrongState) ∧
    (s.mgmt.device ≠ .unconfigured → s.unit? (r.half 4) = none → readUnitRequest r s = r.answer s .badRequest) ∧
    (s.mgmt.device ≠ .unconfigured → ∀ x, s.unit? (r.half 4) = some x →
      readUnitRequest r s = r.answer s .ok (unitBody (r.half 4) x 3) (s.readUnitWords (r.half 4))) := by
  unfold readUnitRequest
  refine ⟨fun hd => if_pos hd, fun hd hu => ?_, fun hd x hx => ?_⟩
  · simp only [if_neg hd, Request.managedUnit, hu]
  · simp only [if_neg hd, Request.managedUnit, hx]; rfl

/-- The part with the level of RETAIN_N that a request has sampled. -/
def State.withRetain (s : State) (level : LineLevel) : State := { s with inputs := { s.inputs with retainN := level } }

/-- GET-STATUS's answers by the section that it names (R182). -/
theorem getStatusRequest_cases (level : LineLevel) (r : Request) (s : State) :
    ((s.withRetain level).statusWords (r.byte 4) (r.byte 5) = none → getStatusRequest level r s = r.answer (s.withRetain level) .badRequest) ∧
    ∀ words, (s.withRetain level).statusWords (r.byte 4) (r.byte 5) = some words →
      getStatusRequest level r s = r.answer (s.withRetain level) .ok (countBody words) words := by
  have request : getStatusRequest level r s = match (s.withRetain level).statusWords (r.byte 4) (r.byte 5) with
    | none => r.answer (s.withRetain level) .badRequest
    | some words => r.answer (s.withRetain level) .ok (countBody words) words := rfl
  exact ⟨fun h => by rw [request, h], fun words h => by rw [request, h]⟩

/-- GET-STATUS answers with nothing changed but the level of RETAIN_N (R182). -/
theorem exec_getStatus (s : State) (level : LineLevel) (hr : s.Ready .management kindGetStatus) (status : Status) (body : List Byte)
    (words : List Word) (h : getStatusRequest level (s.headRequest .management) (s.taken .management) =
      (s.headRequest .management).answer ((s.taken .management).withRetain level) status body words) :
    ∃ t, exec (.getStatus level) s = .next t ∧ s.Answered .management status body words t ∧
      t.inputs = { s.inputs with retainN := level } ∧ s.Only [.mport, .inputs] t := by
  let u := (s.taken .management).withRetain level
  have he := exec_of_kind s .management kindGetStatus (getStatusRequest level) (.getStatus level) rfl hr
  exact ⟨_, he.trans (congrArg _ h), s.answered u .management rfl rfl status body words, rfl,
    ((s.taken_only_management.mono (by decide)).andThen (State.setInputs_only _ _) (gs := [.mport, .inputs])).andThen
      (Request.answer_only_management _ rfl u _ _ _)⟩

/-- Settles O46: each request answers the words of a report, whose lengths are above, and changes nothing but what it clears or samples. -/
theorem readbackOnlyReads : Obligations.ReadbackOnlyReads := by
  unfold Obligations.ReadbackOnlyReads
  refine ⟨reports_fit, fun s n => ?_, fun s p => ?_, fun s level hr => ?_, fun s hr => ?_, fun s st hr hst => ?_, fun s hr => ?_,
    fun s level words hr => ?_, fun s hr => ?_⟩
  · rfl
  · simp only [State.portWords, State.ringWords, PortState.code_eq, SlotClass.code_eq, State.interrupt_code, ← State.bindsNumber_eq]
    cases (s.masters.get p).cause <;> rfl
  · intro sec idx h
    exact exec_getStatus s level hr .badRequest [] [] ((getStatusRequest_cases _ _ _).1 (State.statusWords_none _ _ _ h))
  · intro u
    have he := exec_of_kind s .management kindReadUnit readUnitRequest .readUnit rfl hr
    obtain ⟨wrong, bad, reads⟩ := readUnitRequest_cases (s.headRequest .management) (s.taken .management)
    exact ⟨fun hd => onlyAnswered_of_exec (he.trans (congrArg _ (wrong hd))),
      fun hd hu => onlyAnswered_of_exec (he.trans (congrArg _ (bad hd hu))),
      fun hd x hx => onlyAnswered_of_exec (he.trans (congrArg _ (reads hd x hx)))⟩
  · have he := exec_of_kind s .management kindReadStream readStreamRequest .readStream rfl hr
    refine onlyAnswered_of_exec (he.trans (congrArg _ ?_))
    simp only [readStreamRequest, Request.first, asFin_val _ st hst]; rfl
  · have he := exec_of_kind s .management kindReadTenant readTenantRequest .readTenant rfl hr
    refine ⟨fun n hn => onlyAnswered_of_exec (he.trans (congrArg _ ?_)), fun hn => onlyAnswered_of_exec (he.trans (congrArg _ ?_))⟩
    · simp only [readTenantRequest, Request.first, asFin_val _ n hn]; rfl
    · simp only [readTenantRequest, Request.first, asFin_none hn]
  · intro u sec idx h
    exact exec_getStatus s level hr .ok _ _ ((getStatusRequest_cases _ _ _).2 words (State.statusWords_some _ _ _ _ h))
  · have he := exec_of_kind s .management kindClearStatus clearStatusRequest .clearStatus rfl hr
    let u := (s.taken .management).modSticky (fun _ => Sticky.reset)
    exact ⟨_, he, s.answered u .management rfl rfl .ok _ _, rfl,
      ((s.taken_only_management.mono (by decide)).andThen (State.modSticky_only _ _) (gs := [.mport, .mgmt])).andThen
        (Request.answer_only_management _ rfl u _ _ _)⟩

end Sys2Proof.Machine
end

section
/-!
PROOFS. Restore (R21): SEEK_UNITS (R179) and LOAD_UNITS (R180), the record that a loaded record becomes, and what applying it leaves of the unit,
the free lists (R16) and the other units.
-/

namespace Sys2Proof.Machine

/-! ## A unit that takes a record in its list's place -/

theorem State.insertWear_congr {s t : State} (h : t.wearBefore = s.wearBefore) (u : Nat) : t.insertWear u = s.insertWear u := by
  funext l
  induction l with
  | nil => rfl
  | cons v vs ih => simp only [State.insertWear, h, ih]

/-- The free lists without a unit: exact but for the unit, and in wear order (R16). -/
theorem State.removeFree_legal (s : State) (u : Nat) (h : s.FreeListsLegal) (d : DieId) :
    ((s.removeFree u).freeLists.get d).Pairwise (fun a b => s.wearBefore a b = true) ∧
    ∀ v, v ∈ (s.removeFree u).freeLists.get d ↔ v ≠ u ∧ s.unitState v = some .free ∧ s.dieOf v = d := by
  obtain ⟨sorted, members⟩ := h d
  have nodup : (s.freeLists.get d).Nodup := sorted.imp (fun {a b} hab e => by
    rw [e, s.wearBefore_irrefl] at hab; cases hab)
  show ((s.freeLists.modify (s.dieOf u) (·.erase u)).get d).Pairwise _ ∧ ∀ v, v ∈ (s.freeLists.modify (s.dieOf u) (·.erase u)).get d ↔ _
  by_cases hd : d = s.dieOf u
  · subst hd
    rw [Table.get_modify_self]
    exact ⟨sorted.sublist List.erase_sublist, fun v => by rw [nodup.mem_erase_iff, members]⟩
  · rw [Table.get_modify_ne _ _ _ _ hd]
    refine ⟨sorted, fun v => ?_⟩
    rw [members]
    exact ⟨fun ⟨hf, hv⟩ => ⟨fun e => hd (by rw [← hv, e]), hf, hv⟩, fun ⟨_, hf, hv⟩ => ⟨hf, hv⟩⟩

/-- A unit whose record is replaced leaves the free lists exact and in wear order, where it has left its list and has joined it again at its
wear position if it is FREE (R16, R21). -/
theorem State.freeListsLegal_rejoin {s t : State} (u : Nat) (h : s.FreeListsLegal) (hd : ∀ v, t.dieOf v = s.dieOf v)
    (others : s.OtherUnits u t)
    (joins : t.unitState u = some .free → t.freeLists = (s.removeFree u).freeLists.modify (s.dieOf u) (t.insertWear u))
    (stays : t.unitState u ≠ some .free → t.freeLists = (s.removeFree u).freeLists) : t.FreeListsLegal := by
  have left := s.removeFree_legal u h
  have sorted : ∀ d, ((s.removeFree u).freeLists.get d).Pairwise (fun a b => t.wearBefore a b = true) := fun d =>
    (left d).1.imp_of_mem (fun {a b} ha hb hab => by
      simpa only [State.wearBefore, others a (((left d).2 a).mp ha).1, others b (((left d).2 b).mp hb).1] using hab)
  have other : ∀ v, v ≠ u → t.unitState v = s.unitState v := fun v hv => by rw [State.unitState, others v hv]; rfl
  have out : ∀ d, u ∉ (s.removeFree u).freeLists.get d := fun d hm => (((left d).2 u).mp hm).1 rfl
  have mem : ∀ d v, v ≠ u → (v ∈ (s.removeFree u).freeLists.get d ↔ t.unitState v = some .free ∧ t.dieOf v = d) := fun d v hv => by
    rw [(left d).2, other v hv, hd]; exact ⟨fun h => h.2, fun h => ⟨hv, h⟩⟩
  intro d
  by_cases hf : t.unitState u = some .free
  · rw [joins hf]
    by_cases hu : d = s.dieOf u
    · subst hu
      rw [Table.get_modify_self]
      refine ⟨t.insertWear_sorted u _ (out _) (sorted _), fun v => ?_⟩
      rw [(t.insertWear_perm u _).mem_iff, List.mem_cons]
      by_cases hv : v = u
      · subst hv; simp [hf, hd]
      · rw [mem _ v hv]; simp [hv]
    · rw [Table.get_modify_ne _ _ _ _ hu]
      refine ⟨sorted d, fun v => ?_⟩
      by_cases hv : v = u
      · subst hv; exact ⟨fun hm => absurd hm (out d), fun ⟨_, e⟩ => absurd ((hd v).symm.trans e).symm hu⟩
      · exact mem d v hv
  · rw [stays hf]
    refine ⟨sorted d, fun v => ?_⟩
    by_cases hv : v = u
    · subst hv; exact ⟨fun hm => absurd hm (out d), fun ⟨e, _⟩ => absurd e hf⟩
    · exact mem d v hv

/-! ## A record that is applied (R21) -/

/-- A unit's record replaced once the unit has left its lists (R21). -/
def State.swapped (s : State) (u : Nat) (r : UnitRecord) : State := (((s.removeFree u).leaveYoung u).dropBackground u).replaceUnit u r

/-- The unit joins the list or the waiting units that its new record calls for (R21). -/
def State.rejoined (s : State) (u : Nat) (r : UnitRecord) : State :=
  match r.state with
  | .free => s.insertFree u
  | .unknown => s.handBackground u
  | _ => s

theorem State.applyRecord_eq (s : State) (u : Nat) (r : UnitRecord) : s.applyRecord u r = ((s.swapped u r).rejoined u r).reportCounts u := rfl

/-- The three ways in which a unit joins by its new record. -/
theorem State.rejoined_cases (s : State) (u : Nat) (r : UnitRecord) :
    (r.state = .free → s.rejoined u r = s.insertFree u) ∧ (r.state = .unknown → s.rejoined u r = s.handBackground u) ∧
    (r.state ≠ .free → r.state ≠ .unknown → s.rejoined u r = s) := by
  unfold State.rejoined
  cases r.state <;> simp

theorem State.swapped_only (s : State) (u : Nat) (r : UnitRecord) : s.Only [.units, .freeLists, .streams, .groups, .dies] (s.swapped u r) :=
  ((((s.removeFree_only u).mono (by decide)).andThen (State.leaveYoung_only _ u)
    (gs := [.units, .freeLists, .streams, .groups, .dies])).andThen (State.dropBackground_only _ u)).andThen (State.replaceUnit_only _ u r)

theorem State.rejoined_only (s : State) (u : Nat) (r : UnitRecord) : s.Only [.units, .freeLists, .dies] (s.rejoined u r) := by
  unfold State.rejoined; split
  · exact (s.insertFree_only u).mono (by decide)
  · exact (s.handBackground_only u).mono (by decide)
  · exact .refl s _

theorem State.applyRecord_only (s : State) (u : Nat) (r : UnitRecord) :
    s.Only [.units, .freeLists, .streams, .groups, .dies] (s.applyRecord u r) :=
  ((s.swapped_only u r).andThen (State.rejoined_only _ u r)).andThen (State.reportCounts_only _ u)

/-- The record that replaces a unit's, as the unit joins by it (R21): a unit that is not ERASING keeps its record when it is handed over. -/
theorem State.applyRecord_unit (s : State) (u : Nat) (old r : UnitRecord) (h : s.unit? u = some old) (hr : r.state ≠ .erasing) :
    (s.applyRecord u r).unit? u = some r := by
  let a := ((s.removeFree u).leaveYoung u).dropBackground u
  have before : s.Only [.freeLists, .streams, .dies] a :=
    (((s.removeFree_only u).mono (by decide)).andThen (State.leaveYoung_only _ u)).andThen (State.dropBackground_only _ u)
  have swapped : (s.swapped u r).unit? u = some r := a.replaceUnit_unit u old r ((before.unit? u).trans h)
  obtain ⟨free, unknown, plain⟩ := (s.swapped u r).rejoined_cases u r
  rw [State.applyRecord_eq, (State.reportCounts_only _ u).unit?]
  by_cases hf : r.state = .free
  · rw [free hf, (State.insertFree_only _ u).unit?, swapped]
  · by_cases hk : r.state = .unknown
    · rw [unknown hk, State.handBackground_unit, swapped]
      have kept : r.toUnknown = r := if_neg hr
      simp [kept]
    · rw [plain hf hk, swapped]

theorem State.replaceUnit_others (s : State) (u : Nat) (r : UnitRecord) : s.OtherUnits u (s.replaceUnit u r) := by
  intro v hv
  unfold State.replaceUnit; split
  · rfl
  · dsimp only; split
    · rw [(State.wakeUnit_only _ u).unit?, s.unit?_modUnit_ne u v _ hv]
    · exact s.unit?_modUnit_ne u v _ hv

theorem State.applyRecord_others (s : State) (u : Nat) (r : UnitRecord) : s.OtherUnits u (s.applyRecord u r) := by
  intro v hv
  let a := ((s.removeFree u).leaveYoung u).dropBackground u
  have before : s.Only [.freeLists, .streams, .dies] a :=
    (((s.removeFree_only u).mono (by decide)).andThen (State.leaveYoung_only _ u)).andThen (State.dropBackground_only _ u)
  have swapped : (s.swapped u r).unit? v = s.unit? v := (a.replaceUnit_others u r v hv).trans (before.unit? v)
  rw [State.applyRecord_eq, (State.reportCounts_only _ u).unit?, ← swapped]
  unfold State.rejoined; split
  · exact (State.insertFree_only _ u).unit? v
  · exact (State.handBackground_change _ u).others v hv
  · rfl

/-- What applying a record does to the free lists (R21). -/
theorem State.applyRecord_freeLists (s : State) (u : Nat) (r : UnitRecord) :
    (r.state = .free → (s.applyRecord u r).freeLists = (s.removeFree u).freeLists.modify (s.dieOf u) ((s.applyRecord u r).insertWear u)) ∧
    (r.state ≠ .free → (s.applyRecord u r).freeLists = (s.removeFree u).freeLists) := by
  have swapped : (s.swapped u r).freeLists = (s.removeFree u).freeLists :=
    (State.replaceUnit_only _ u r .freeLists (by decide)).trans (State.leaveYoung_only _ u .freeLists (by decide))
  have report : (s.applyRecord u r).freeLists = ((s.swapped u r).rejoined u r).freeLists := State.reportCounts_only _ u .freeLists (by decide)
  obtain ⟨free, unknown, plain⟩ := (s.swapped u r).rejoined_cases u r
  refine ⟨fun hf => ?_, fun hf => ?_⟩
  · have units : (s.applyRecord u r).units = (s.swapped u r).units := by
      rw [State.applyRecord_eq, State.reportCounts_only _ u .units (by decide), free hf]; rfl
    have wear : (s.swapped u r).wearBefore = (s.applyRecord u r).wearBefore :=
      State.wearBefore_congr (fun v => by simp only [State.unit?, units])
    rw [report, free hf, State.insertWear_congr wear.symm u, ← (s.swapped_only u r).dieOf u, ← swapped]
    rfl
  · rw [report, ← swapped]
    by_cases hk : r.state = .unknown
    · rw [unknown hk]; exact State.handBackground_only _ u .freeLists (by decide)
    · rw [plain hf hk]

/-- A record that is applied to a unit leaves the free lists exact and in wear order (R16, R21). -/
theorem State.applyRecord_freeListsLegal (s : State) (u : Nat) (old r : UnitRecord) (hu : s.unit? u = some old) (hr : r.state ≠ .erasing)
    (h : s.FreeListsLegal) : (s.applyRecord u r).FreeListsLegal := by
  have state : (s.applyRecord u r).unitState u = some r.state := by rw [State.unitState, s.applyRecord_unit u old r hu hr]; rfl
  obtain ⟨joins, stays⟩ := s.applyRecord_freeLists u r
  refine State.freeListsLegal_rejoin u h (fun v => (s.applyRecord_only u r).dieOf v) (s.applyRecord_others u r) (fun hf => joins ?_)
    (fun hf => stays (fun e => hf (by rw [state, e])))
  exact Option.some_inj.mp (state.symm.trans hf)

/-- What a record that is applied leaves of its unit, the other units, the free lists and the groups (R16, R21, R84, R92). -/
structure State.Applied (s : State) (u : Nat) (x r : UnitRecord) (t : State) : Prop where
  unit : t.unit? u = some r
  others : s.OtherUnits u t
  legal : s.FreeListsLegal → t.FreeListsLegal
  listed : r.state = .free → u ∈ t.freeLists.get (s.dieOf u)
  groups : ∀ (g : GroupId) (c : GroupConfig) (k : ReclaimRecord), s.groups.get g = some ⟨c, k⟩ →
    let w := if x.hold ≠ .noHold ∧ r.hold = .noHold then k.wake else k
    let sum := t.freeCount c + t.countUnits c .erasing + t.countUnits c .reclaim
    t.groups.get g = some ⟨c,
      if s.groupOfUnit u ≠ some g then k
      else if (k.active = true ∨ t.freeCount c ≤ c.low) ∧ sum < c.high then { w with active := true }
      else w.deactivate⟩

theorem State.applyRecord_applied (s : State) (u : Nat) (x r : UnitRecord) (hx : s.unit? u = some x) (hr : r.state ≠ .erasing) :
    s.Applied u x r (s.applyRecord u r) where
  unit := s.applyRecord_unit u x r hx hr
  others := s.applyRecord_others u r
  legal := s.applyRecord_freeListsLegal u x r hx hr
  listed hf := by
    rw [(s.applyRecord_freeLists u r).1 hf, Table.get_modify_self]
    exact ((s.applyRecord u r).insertWear_perm u _).mem_iff.mpr (.head _)
  groups g c k hg := s.applyRecord_groups u x r g c k hx hg

/-- What an applied record leaves stays as the cursor moves on and the request is answered. -/
theorem State.Applied.only {s t v : State} {u : Nat} {x r : UnitRecord} {fs : List Field} (h : s.Applied u x r t) (ho : t.Only fs v)
    (hm : v.mgmt.geometry = t.mgmt.geometry)
    (hf : Field.units ∉ fs ∧ Field.freeLists ∉ fs ∧ Field.groups ∉ fs := by decide) : s.Applied u x r v := by
  obtain ⟨hunits, hlists, hgroups⟩ := hf
  have free : ∀ c, v.freeCount c = t.freeCount c := fun c => by
    have lists : v.freeLists = t.freeLists := ho .freeLists hlists
    simp only [State.freeCount, lists]
  have count : ∀ c st, v.countUnits c st = t.countUnits c st := fun c st => State.countUnits_congr t v c st (ho .units hunits) hm
  exact {
    unit := (ho.unit? u hunits).trans h.unit
    others := fun w hw => (ho.unit? w hunits).trans (h.others w hw)
    legal := fun hs => State.freeListsLegal_congr (h.legal hs) (ho .freeLists hlists)
      (fun w => by simp only [State.unitState, ho.unit? w hunits]) (fun w => by rw [ho.unit? w hunits])
      (fun w => by simp only [State.dieOf, State.bpd, hm])
    listed := fun hf => by rw [ho .freeLists hlists]; exact h.listed hf
    groups := fun g c k hg => by
      simp only [free, count]
      rw [ho .groups hgroups]
      exact h.groups g c k hg }

/-! ## Loaded records -/

/-- A loaded record that names no state, or no tenant where its state has one (R180). -/
def LoadedRecord.Bad (l : LoadedRecord) : Prop := l.stateCode = 7 ∨ ((l.stateCode = 1 ∨ l.stateCode = 2 ∨ l.stateCode = 3) ∧ 63 < l.tenant)

theorem loadedRecord_stateCode_lt (bytes : List Byte) : (loadedRecord bytes).stateCode < 8 := Nat.mod_lt _ (by decide)

theorem unitStateOf_eq_some (c : Nat) (st : UnitState) (h : unitStateOf c = some st) : c = st.code := by
  unfold unitStateOf at h
  split at h <;> cases h <;> rfl

/-- A record that passes the first test of R180 names a state. -/
theorem LoadedRecord.named (l : LoadedRecord) (hc : l.stateCode < 8) (h : ¬ l.Bad) : ∃ st, unitStateOf l.stateCode = some st := by
  have seven : l.stateCode ≠ 7 := fun e => h (.inl e)
  generalize l.stateCode = c at hc seven
  have below : c < 7 := by omega
  interval_cases c <;> exact ⟨_, rfl⟩

/-- A unit that may not be rewritten (R180). -/
theorem UnitRecord.locked_iff (x : UnitRecord) : x.locked = true ↔
    x.state = .opened ∨ x.state = .reclaim ∨ (x.state = .sealed ∧ x.settled = false) := by
  simp [UnitRecord.locked, or_assoc]

theorem State.loadedUnit_bad (s : State) (l : LoadedRecord) (h : l.Bad) : s.loadedUnit l = none := by
  rcases h with h | ⟨h, ht⟩
  · simp only [State.loadedUnit, h, unitStateOf]
  · have tenant : asFin 64 l.tenant = none := asFin_none ht
    rcases h with h | h | h <;> simp only [State.loadedUnit, h, unitStateOf, tenant, Option.map_none]

/-- The record that a loaded record becomes, by the state that it names (R21). -/
structure State.Becomes (s : State) (l : LoadedRecord) (st : UnitState) (r : UnitRecord) : Prop where
  free : st = .free → r = { UnitRecord.blank with eraseCount := l.eraseCount }
  sealed : st = .opened ∨ st = .sealed ∨ st = .reclaim → r = l.toSealed s.pages
    (if st = .opened ∨ s.time.epoch.toNat < l.sealEpoch.toNat then s.time.epoch else l.sealEpoch) (Fin.ofNat 64 l.tenant)
  unknown : st = .erasing ∨ st = .unknown → r.state = .unknown
  retired : st = .retired → r.state = .retired
  code : r.state.code = if l.stateCode = 0 then 0 else if l.stateCode ≤ 3 then 2 else if l.stateCode ≤ 5 then 5 else 6
  hold : r.hold = .noHold ↔ l.stateCode = 0 ∨ 4 ≤ l.stateCode
  notErasing : r.state ≠ .erasing

/-- A record of an OPEN, SEALED or RECLAIM unit of a tenant becomes a SEALED one (R21). -/
theorem State.loadedUnit_sealed (s : State) (l : LoadedRecord) (st : UnitState) (h : st = .opened ∨ st = .sealed ∨ st = .reclaim)
    (hc : unitStateOf l.stateCode = some st) (ht : l.tenant < 64) : ∃ r, s.loadedUnit l = some r ∧ s.Becomes l st r := by
  have tenant : asFin 64 l.tenant = some (Fin.ofNat 64 l.tenant) := asFin_val _ _ (Nat.mod_eq_of_lt ht).symm
  have code := unitStateOf_eq_some _ st hc
  refine ⟨l.toSealed s.pages (if st = .opened ∨ s.time.epoch.toNat < l.sealEpoch.toNat then s.time.epoch else l.sealEpoch)
    (Fin.ofNat 64 l.tenant), ?_, ?_⟩
  · rcases h with rfl | rfl | rfl <;> simp [State.loadedUnit, hc, tenant, State.loadedEpoch]
  · have range : 1 ≤ l.stateCode ∧ l.stateCode ≤ 3 := by rw [code]; rcases h with rfl | rfl | rfl <;> decide
    exact {
      free := fun e => by simp [e] at h
      sealed := fun _ => rfl
      unknown := fun e => by rcases e with e | e <;> simp [e] at h
      retired := fun e => by simp [e] at h
      code := by
        show 2 = if l.stateCode = 0 then 0 else if l.stateCode ≤ 3 then 2 else _
        rw [if_neg (by omega), if_pos range.2]
      hold := by
        show Hold.held = .noHold ↔ _
        exact ⟨fun e => (by cases e), fun e => by omega⟩
      notErasing := fun e => by cases e }

/-- A record in a state without tenant becomes a plain one, UNKNOWN or RETIRED (R21). -/
theorem State.becomes_plain (s : State) (l : LoadedRecord) (st st' : UnitState) (hc : l.stateCode = st.code)
    (h : ((st = .erasing ∨ st = .unknown) ∧ st' = .unknown) ∨ (st = .retired ∧ st' = .retired)) : s.Becomes l st (l.toPlain s.pages st') where
  free e := by simp [e] at h
  sealed e := by rcases e with e | e | e <;> simp [e] at h
  unknown e := by rcases e with e | e <;> simp [e] at h <;> exact h
  retired e := by simp [e] at h; exact h
  code := by rw [hc]; rcases h with ⟨rfl | rfl, rfl⟩ | ⟨rfl, rfl⟩ <;> rfl
  hold := by
    rw [hc]
    refine ⟨fun _ => .inr ?_, fun _ => rfl⟩
    rcases h with ⟨rfl | rfl, -⟩ | ⟨rfl, -⟩ <;> decide
  notErasing e := by
    have state : st' = .erasing := e
    simp [state] at h

theorem State.loadedUnit_becomes (s : State) (l : LoadedRecord) (st : UnitState) (hc : unitStateOf l.stateCode = some st) (h : ¬ l.Bad) :
    ∃ r, s.loadedUnit l = some r ∧ s.Becomes l st r := by
  have code := unitStateOf_eq_some _ st hc
  have tenant : st = .opened ∨ st = .sealed ∨ st = .reclaim → l.tenant < 64 := fun hs => by
    by_contra hn
    refine h (.inr ⟨?_, by omega⟩)
    rw [code]
    rcases hs with rfl | rfl | rfl <;> decide
  cases st with
  | free =>
    refine ⟨{ UnitRecord.blank with eraseCount := l.eraseCount }, by simp only [State.loadedUnit, hc], ?_⟩
    have zero : l.stateCode = 0 := code
    exact {
      free := fun _ => rfl
      sealed := fun e => by simp at e
      unknown := fun e => by simp at e
      retired := fun e => by cases e
      code := by rw [if_pos zero]; rfl
      hold := ⟨fun _ => .inl zero, fun _ => rfl⟩
      notErasing := fun e => by cases e }
  | opened => exact s.loadedUnit_sealed l _ (by decide) hc (tenant (by decide))
  | sealed => exact s.loadedUnit_sealed l _ (by decide) hc (tenant (by decide))
  | reclaim => exact s.loadedUnit_sealed l _ (by decide) hc (tenant (by decide))
  | erasing => exact ⟨_, by simp only [State.loadedUnit, hc], s.becomes_plain l _ .unknown code (by decide)⟩
  | unknown => exact ⟨_, by simp only [State.loadedUnit, hc], s.becomes_plain l _ .unknown code (by decide)⟩
  | retired => exact ⟨_, by simp only [State.loadedUnit, hc], s.becomes_plain l _ .retired code (by decide)⟩

/-! ## One record at the restore cursor (R180) -/

/-- The unit after another in the order of the restore cursor (R179). -/
def State.unitAfter (s : State) (u : Nat) : Nat := if u + 1 < s.units.length then u + 1 else 0

/-- A record that is refused leaves all but the cursor, and one that is applied does so as `State.applyRecord` says (R180). -/
theorem State.loadRecord_cases (s : State) (l : LoadedRecord) (x : UnitRecord) (hx : s.unit? s.mgmt.cursor = some x) :
    (l.Bad → s.loadRecord l = (s.advanceCursor, ⟨s.mgmt.cursor, .badConfig, 0⟩)) ∧
    (¬ l.Bad → x.locked = true → ∀ st, unitStateOf l.stateCode = some st →
      s.loadRecord l = (s.advanceCursor, ⟨s.mgmt.cursor, .wrongState, 0⟩)) ∧
    (x.locked = false → ∀ r, s.loadedUnit l = some r →
      s.loadRecord l = ((s.applyRecord s.mgmt.cursor r).advanceCursor, ⟨s.mgmt.cursor, .ok, r.state.code⟩)) := by
  refine ⟨fun hb => ?_, fun hb hl st hc => ?_, fun hl r hr => ?_⟩
  · simp only [State.loadRecord, s.loadedUnit_bad l hb]
  · obtain ⟨r, hr, -⟩ := s.loadedUnit_becomes l st hc hb
    simp only [State.loadRecord, hr, hx, hl, if_true]
  · simp only [State.loadRecord, hr, hx, hl, Bool.false_eq_true, if_false]

/-- The number of units depends on which numbers have a unit. -/
theorem State.units_length_congr {s t : State} (h : ∀ u, (t.unit? u).isSome = (s.unit? u).isSome) : t.units.length = s.units.length := by
  have below : ∀ u, u < t.units.length ↔ u < s.units.length := fun u => by
    have some : ∀ l : List UnitRecord, l[u]?.isSome = true ↔ u < l.length := fun l => by simp
    rw [← some, ← some]; exact Bool.eq_iff_iff.mp (h u)
  have h1 := below t.units.length
  have h2 := below s.units.length
  omega

theorem State.applyRecord_length (s : State) (u : Nat) (old r : UnitRecord) (h : s.unit? u = some old) (hr : r.state ≠ .erasing) :
    (s.applyRecord u r).units.length = s.units.length := by
  refine State.units_length_congr (fun v => ?_)
  by_cases hv : v = u
  · subst hv; rw [s.applyRecord_unit v old r h hr, h]; rfl
  · rw [s.applyRecord_others u r v hv]

/-- What a request answers for one record (R180): the status, and the code of the state given. -/
def LoadedRecord.outcome (l : LoadedRecord) (old : UnitRecord) : Status × Nat :=
  if l.stateCode = 7 ∨ ((l.stateCode = 1 ∨ l.stateCode = 2 ∨ l.stateCode = 3) ∧ 63 < l.tenant) then (Status.badConfig, 0)
  else if old.state = .opened ∨ old.state = .reclaim ∨ (old.state = .sealed ∧ old.settled = false) then (Status.wrongState, 0)
  else (Status.ok, if l.stateCode = 0 then 0 else if l.stateCode ≤ 3 then 2 else if l.stateCode ≤ 5 then 5 else 6)

/-- What one record at the restore cursor leaves, with the status and the state code that are answered for it (R180). -/
structure State.Loads (s : State) (x : UnitRecord) (o : Status × Nat) (t : State) : Prop where
  mgmt : t.mgmt = { s.mgmt with cursor := s.unitAfter s.mgmt.cursor }
  unit : if o.1 = .ok then (t.unitState s.mgmt.cursor).map UnitState.code = some o.2 else t.unit? s.mgmt.cursor = some x
  others : s.OtherUnits s.mgmt.cursor t
  length : t.units.length = s.units.length
  only : s.Only [.units, .freeLists, .streams, .groups, .dies, .mgmt] t

theorem State.advanceCursor_only (s : State) : s.Only [.mgmt] s.advanceCursor := s.modMgmt_only _

theorem State.loadRecord_loads (s : State) (l : LoadedRecord) (x : UnitRecord) (hc : l.stateCode < 8) (hx : s.unit? s.mgmt.cursor = some x) :
    ∃ t, s.loadRecord l = (t, ⟨s.mgmt.cursor, (l.outcome x).1, (l.outcome x).2⟩) ∧ s.Loads x (l.outcome x) t := by
  obtain ⟨bad, locked, applied⟩ := s.loadRecord_cases l x hx
  have refused : ∀ o : Status × Nat, o.1 ≠ .ok → s.Loads x o s.advanceCursor := fun o ho =>
    ⟨rfl, by rw [if_neg ho]; exact hx, fun _ _ => rfl, rfl, s.advanceCursor_only.mono (by decide)⟩
  by_cases hb : l.Bad
  · have outcome : l.outcome x = (.badConfig, 0) := if_pos hb
    rw [outcome]
    exact ⟨_, bad hb, refused _ (by simp)⟩
  · obtain ⟨st, hst⟩ := l.named hc hb
    by_cases hl : x.locked = true
    · have outcome : l.outcome x = (.wrongState, 0) := (if_neg hb).trans (if_pos (x.locked_iff.mp hl))
      rw [outcome]
      exact ⟨_, locked hb hl st hst, refused _ (by simp)⟩
    · obtain ⟨r, hr, becomes⟩ := s.loadedUnit_becomes l st hst hb
      have outcome : l.outcome x = (.ok, r.state.code) := by
        rw [becomes.code]; exact (if_neg hb).trans (if_neg (fun h => hl (x.locked_iff.mpr h)))
      have unit := s.applyRecord_unit s.mgmt.cursor x r hx becomes.notErasing
      have length := s.applyRecord_length s.mgmt.cursor x r hx becomes.notErasing
      have only := s.applyRecord_only s.mgmt.cursor r
      have others := s.applyRecord_others s.mgmt.cursor r
      rw [outcome]
      refine ⟨_, applied (Bool.eq_false_iff.mpr hl) r hr, ?_⟩
      generalize s.applyRecord s.mgmt.cursor r = a at unit length only others
      have mgmt : a.mgmt = s.mgmt := only .mgmt (by decide)
      refine ⟨?_, ?_, others, length, (only.mono (by decide)).andThen a.advanceCursor_only⟩
      · simp only [State.advanceCursor, State.modMgmt, mgmt, length]; rfl
      · rw [if_pos rfl, State.unitState, show a.advanceCursor.unit? s.mgmt.cursor = a.unit? s.mgmt.cursor from rfl, unit]; rfl

/-! ## The requests -/

/-- SEEK-UNITS's answers by the device state and the unit (R179). -/
theorem seekUnitsRequest_cases (r : Request) (s : State) :
    (s.mgmt.device ≠ .halted → seekUnitsRequest r s = r.answer s .wrongState) ∧
    (s.mgmt.device = .halted → s.units.length ≤ r.half 4 → seekUnitsRequest r s = r.answer s .badRequest) ∧
    (s.mgmt.device = .halted → r.half 4 < s.units.length →
      seekUnitsRequest r s = r.answer (s.modMgmt (fun m => { m with cursor := r.half 4 })) .ok) := by
  unfold seekUnitsRequest
  exact ⟨fun hd => if_pos hd, fun hd hu => (if_neg (not_not_intro hd)).trans (if_neg (Nat.not_lt.mpr hu)),
    fun hd hu => (if_neg (not_not_intro hd)).trans (if_pos hu)⟩

/-- LOAD-UNITS's answers by the device state and the count of records (R180). -/
theorem loadUnitsRequest_cases (r : Request) (s : State) :
    (s.mgmt.device ≠ .halted → loadUnitsRequest r s = r.answer s .wrongState) ∧
    (s.mgmt.device = .halted → (r.count = 0 ∨ 2 < r.count) → loadUnitsRequest r s = r.answer s .badRequest) ∧
    (s.mgmt.device = .halted → ¬ (r.count = 0 ∨ 2 < r.count) → loadUnitsRequest r s =
      let loaded := s.loadRecords r.loadedRecords
      r.answer loaded.1 (loadStatus loaded.2) (loadBody loaded.2 loaded.1.mgmt.cursor)) := by
  unfold loadUnitsRequest
  exact ⟨fun hd => if_pos hd, fun hd hn => (if_neg (not_not_intro hd)).trans (if_pos hn),
    fun hd hn => (if_neg (not_not_intro hd)).trans (if_neg hn)⟩

theorem Request.loadedRecords_one (r : Request) (h : r.count = 1) : r.loadedRecords = [loadedRecord ((r.bytes.drop 4).take 14)] := by
  simp [Request.loadedRecords, h]

theorem Request.loadedRecords_two (r : Request) (h : r.count = 2) :
    r.loadedRecords = [loadedRecord ((r.bytes.drop 4).take 14), loadedRecord ((r.bytes.drop 18).take 14)] := by
  simp [Request.loadedRecords, h, List.range_succ]

/-- The reply's status is that of the first record that is not OK (R180). -/
theorem loadStatus_two (a b : LoadOutcome) : loadStatus [a, b] = if a.status = .ok then b.status else a.status := by
  by_cases ha : a.status = .ok
  · by_cases hb : b.status = .ok <;> simp [loadStatus, ha, hb]
  · simp [loadStatus, ha]

theorem loadStatus_one (a : LoadOutcome) : loadStatus [a] = a.status := by
  by_cases ha : a.status = .ok <;> simp [loadStatus, ha]

/-- LOAD-UNITS of one record: what `State.loadRecord` leaves, answered with the record's outcome (R180). -/
theorem exec_loadUnits_one (s : State) (x : UnitRecord) (hr : s.Ready .management kindLoadUnits) (hd : s.mgmt.device = .halted)
    (hc : (s.headRequest .management).count = 1) (hx : s.unit? s.mgmt.cursor = some x) :
    let q := s.headRequest .management
    let l := loadedRecord ((q.bytes.drop 4).take 14)
    ∃ w, (s.taken .management).loadRecord l = (w, ⟨s.mgmt.cursor, (l.outcome x).1, (l.outcome x).2⟩) ∧
      (s.taken .management).Loads x (l.outcome x) w ∧
      exec .loadUnits s = .next (q.answer w (l.outcome x).1 (packFields false
        [(2, s.mgmt.cursor), (1, (l.outcome x).1.code), (1, (l.outcome x).2), (2, s.unitAfter s.mgmt.cursor)])) := by
  intro q l
  let a := s.taken .management
  have he := exec_of_kind s .management kindLoadUnits loadUnitsRequest .loadUnits rfl hr
  obtain ⟨w, hw, loads⟩ := a.loadRecord_loads l x (loadedRecord_stateCode_lt _) hx
  refine ⟨w, hw, loads, he.trans (congrArg _ ?_)⟩
  have records : a.loadRecords q.loadedRecords = (w, [⟨s.mgmt.cursor, (l.outcome x).1, (l.outcome x).2⟩]) := by
    rw [q.loadedRecords_one hc]; show a.loadRecords [l] = _; simp only [State.loadRecords, hw]; rfl
  have cursor : w.mgmt.cursor = s.unitAfter s.mgmt.cursor := by rw [loads.mgmt]; rfl
  rw [(loadUnitsRequest_cases q a).2.2 hd (by rw [show q.count = 1 from hc]; decide), records]
  show q.answer w (loadStatus [_]) (loadBody [_] w.mgmt.cursor) = _
  rw [loadStatus_one, cursor]
  rfl

/-- LOAD-UNITS of two records, the second at the unit after the first (R180). -/
theorem exec_loadUnits_two (s : State) (x y : UnitRecord) (hr : s.Ready .management kindLoadUnits) (hd : s.mgmt.device = .halted)
    (hc : (s.headRequest .management).count = 2) (hx : s.unit? s.mgmt.cursor = some x)
    (hy : s.unit? (s.unitAfter s.mgmt.cursor) = some y) (hn : s.mgmt.cursor ≠ s.unitAfter s.mgmt.cursor) :
    let q := s.headRequest .management
    let u := s.mgmt.cursor
    let v := s.unitAfter u
    let a := (loadedRecord ((q.bytes.drop 4).take 14)).outcome x
    let b := (loadedRecord ((q.bytes.drop 18).take 14)).outcome y
    ∃ m t, (s.taken .management).Loads x a m ∧ m.Loads y b t ∧ m.mgmt.cursor = v ∧ t.mgmt.cursor = s.unitAfter v ∧
      exec .loadUnits s = .next (q.answer t (if a.1 = .ok then b.1 else a.1) (packFields false
        [(2, u), (1, a.1.code), (1, a.2), (2, v), (1, b.1.code), (1, b.2), (2, s.unitAfter v)])) := by
  intro q u v a b
  let p := s.taken .management
  have he := exec_of_kind s .management kindLoadUnits loadUnitsRequest .loadUnits rfl hr
  obtain ⟨m, hm, first⟩ := p.loadRecord_loads (loadedRecord ((q.bytes.drop 4).take 14)) x (loadedRecord_stateCode_lt _) hx
  have place : m.mgmt.cursor = v := by rw [first.mgmt]; rfl
  have found : m.unit? m.mgmt.cursor = some y := by rw [place, first.others v (Ne.symm hn)]; exact hy
  obtain ⟨t, ht, second⟩ := m.loadRecord_loads (loadedRecord ((q.bytes.drop 18).take 14)) y (loadedRecord_stateCode_lt _) found
  have cursor : t.mgmt.cursor = s.unitAfter v := by
    rw [second.mgmt, place, State.unitAfter, first.length]; rfl
  refine ⟨m, t, first, second, place, cursor, he.trans (congrArg _ ?_)⟩
  have records : p.loadRecords q.loadedRecords = (t, [⟨u, a.1, a.2⟩, ⟨v, b.1, b.2⟩]) := by
    rw [q.loadedRecords_two hc]; simp only [State.loadRecords, hm, ht, place]; rfl
  rw [(loadUnitsRequest_cases q p).2.2 hd (by rw [show q.count = 2 from hc]; decide), records]
  show q.answer t (loadStatus [_, _]) (loadBody [_, _] t.mgmt.cursor) = _
  rw [loadStatus_two, cursor]
  rfl

/-- Settles O45: the requests answer as `exec_loadUnits_one` and `exec_loadUnits_two` say, and an applied record leaves what `State.Becomes`
and the lemmas about `State.applyRecord` say. -/
theorem restoreLoadsUnits : Obligations.RestoreLoadsUnits := by
  unfold Obligations.RestoreLoadsUnits
  refine ⟨fun s hr => ?_, fun s hr => ?_, fun s x y hr hd => ?_, fun s x hr hd => ?_⟩
  · intro u
    let a := s.taken .management
    have he := exec_of_kind s .management kindSeekUnits seekUnitsRequest .seekUnits rfl hr
    obtain ⟨wrong, bad, seeks⟩ := seekUnitsRequest_cases (s.headRequest .management) a
    refine ⟨fun hd => onlyAnswered_of_exec (he.trans (congrArg _ (wrong hd))),
      fun hd hu => onlyAnswered_of_exec (he.trans (congrArg _ (bad hd hu))), fun hd hu => ?_⟩
    let b := a.modMgmt (fun m => { m with cursor := u })
    exact ⟨_, he.trans (congrArg _ (seeks hd hu)), s.answered b .management rfl rfl .ok [] [], rfl,
      ((s.taken_only_management.mono (by decide)).andThen (a.modMgmt_only _) (gs := [.mport, .mgmt])).andThen
        (Request.answer_only_management _ rfl b _ _ _)⟩
  · intro n
    have he := exec_of_kind s .management kindLoadUnits loadUnitsRequest .loadUnits rfl hr
    obtain ⟨wrong, bad, -⟩ := loadUnitsRequest_cases (s.headRequest .management) (s.taken .management)
    exact ⟨fun hd => onlyAnswered_of_exec (he.trans (congrArg _ (wrong hd))),
      fun hd hn => onlyAnswered_of_exec (he.trans (congrArg _ (bad hd hn)))⟩
  · intro q after u v hc hx hy hn given outcome a b
    obtain ⟨m, t, first, second, place, cursor, next⟩ := exec_loadUnits_two s x y hr hd hc hx hy hn
    have only : (s.taken .management).Only [.units, .freeLists, .streams, .groups, .dies, .mgmt] t :=
      first.only.andThen second.only (fun _ h => h)
    have answered := s.answered t .management (only .masters (by decide)) (only .mport (by decide)) (if a.1 = .ok then b.1 else a.1)
      (packFields false [(2, u), (1, a.1.code), (1, a.2), (2, v), (1, b.1.code), (1, b.2), (2, after v)]) []
    have others : ∀ w, w ≠ v → t.unit? w = m.unit? w := fun w hw => second.others w (by rw [place]; exact hw)
    have mgmt : t.mgmt = { s.mgmt with cursor := after v } := by
      have kept : t.mgmt = { s.mgmt with cursor := t.mgmt.cursor } := by rw [second.mgmt, first.mgmt]; rfl
      rw [kept, cursor]; rfl
    have loaded := second.unit
    rw [place] at loaded
    have same : t.unit? u = m.unit? u := others u hn
    refine ⟨_, next, mgmt, answered, ?_, loaded, fun w hu hv => (others w hv).trans (first.others w hu),
      ((s.taken_only_management.mono (by decide)).andThen only (gs := [.units, .freeLists, .streams, .groups, .dies, .mport, .mgmt])).andThen
        (q.answer_only_management rfl t _ _ _)⟩
    have kept : if a.1 = .ok then (m.unitState u).map UnitState.code = some a.2 else m.unit? u = some x := first.unit
    rw [State.unitState, ← same] at kept
    exact kept
  · intro q l u next body hc hx bad locked
    obtain ⟨w, hw, loads, he⟩ := exec_loadUnits_one s x hr hd hc hx
    let a := s.taken .management
    obtain ⟨refusedBad, refusedLocked, applied⟩ := a.loadRecord_cases l x hx
    have answered := s.answered w .management (loads.only .masters (by decide)) (loads.only .mport (by decide)) (l.outcome x).1
      (body (l.outcome x).1 (l.outcome x).2) []
    have taken : s.Only [.mport, .mgmt] a.advanceCursor := (s.taken_only_management.mono (by decide)).andThen a.advanceCursor_only
    have ends : ∀ (v : State) (o : Status × Nat), a.loadRecord l = (v, ⟨u, o.1, o.2⟩) → w = v ∧ l.outcome x = o := fun v o hv => by
      obtain ⟨state, outcome⟩ := Prod.mk.inj (hw.symm.trans hv)
      obtain ⟨-, status, code⟩ := LoadOutcome.mk.inj outcome
      exact ⟨state, Prod.ext status code⟩
    have mgmt : (q.answer w (l.outcome x).1 (body (l.outcome x).1 (l.outcome x).2)).mgmt = { s.mgmt with cursor := next } := loads.mgmt
    have final : w.Only [.mport] (q.answer w (l.outcome x).1 (body (l.outcome x).1 (l.outcome x).2)) :=
      q.answer_only_management rfl _ _ _ _
    refine ⟨q.answer w (l.outcome x).1 (body (l.outcome x).1 (l.outcome x).2), he, mgmt, ?_⟩
    generalize q.answer w (l.outcome x).1 (body (l.outcome x).1 (l.outcome x).2) = t at answered final
    clear he mgmt
    generalize l.outcome x = o at answered ends
    refine ⟨fun hb => ?_, fun hb hl => ?_, fun hb hl => ?_⟩
    · obtain ⟨rfl, rfl⟩ := ends _ (.badConfig, 0) (refusedBad hb)
      exact ⟨answered, taken.andThen final⟩
    · obtain ⟨st, hst⟩ := l.named (loadedRecord_stateCode_lt _) hb
      obtain ⟨rfl, rfl⟩ := ends _ (.wrongState, 0) (refusedLocked hb (x.locked_iff.mpr hl) st hst)
      exact ⟨answered, taken.andThen final⟩
    · obtain ⟨st, hst⟩ := l.named (loadedRecord_stateCode_lt _) hb
      obtain ⟨r, hr', becomes⟩ := a.loadedUnit_becomes l st hst hb
      obtain ⟨rfl, rfl⟩ := ends _ (.ok, r.state.code) (applied (Bool.eq_false_iff.mpr (fun e => hl (x.locked_iff.mp e))) r hr')
      let b := a.applyRecord u r
      have advance : b.Only [.mgmt] b.advanceCursor := b.advanceCursor_only
      have only := (((s.taken_only_management.mono (by decide)).andThen (a.applyRecord_only u r)
        (gs := [.units, .freeLists, .streams, .groups, .dies, .mport, .mgmt])).andThen advance).andThen final
      have applied : a.Applied u x r t := ((a.applyRecord_applied u x r hx becomes.notErasing).only advance rfl).only final (congrArg (·.geometry) (final .mgmt (by decide)))
      have state : t.unitState u = some r.state := by rw [State.unitState, applied.unit]; rfl
      refine ⟨fun h => applied.legal (State.freeListsLegal_of_only h s.taken_only_management), applied.others, only, fun g c k hg => ?_,
        fun st' hst' => ?_⟩
      · have groups := applied.groups g c k hg
        simp only [becomes.hold] at groups
        exact groups
      · obtain rfl : st = st' := Option.some_inj.mp (hst.symm.trans hst')
        refine ⟨fun e => ?_, fun e => ?_, fun e => ?_, fun e => ?_⟩
        · obtain rfl := becomes.free e
          exact ⟨answered, applied.unit, applied.listed rfl⟩
        · obtain rfl := becomes.sealed e
          exact ⟨answered, applied.unit⟩
        · rw [becomes.unknown e] at answered state
          exact ⟨answered, state⟩
        · rw [becomes.retired e] at answered state
          exact ⟨answered, state⟩

end Sys2Proof.Machine
end
